-- ==== Sys2Proof/Word.lean ====
section
/-!
DEFINITION. The word types of the Azevo module: bytes, 16, 32, 64 and 128-bit words. A quantity the manual reads
or writes as a register or a field is a bit vector; a count, an index or a time is a natural number.
-/

namespace Sys2Proof

/-- One byte. -/
abbrev Byte := BitVec 8

/-- A half word: RB16 mantissas, cause codes, tensor numbers. -/
abbrev Half := BitVec 16

/-- A 32-bit word: every set-up register (00_scope, "Register access") and every FP32 bit pattern. -/
abbrev Word := BitVec 32

/-- A 64-bit word: beat numbers, SEQ, seeds. -/
abbrev DWord := BitVec 64

/-- An operation word of a cluster stream (R108). -/
abbrev OpWord := BitVec 128

/-- A 256-bit key (Table 15-2). -/
abbrev Key := BitVec 256

/-- A shared P-521 ECDH secret, 66 bytes (R292). -/
abbrev Secret := BitVec 528

/-- A SHA-512 value. -/
abbrev Digest := BitVec 512

end Sys2Proof
end

