-- ==== Sys2Proof/Syntax.lean ====
section
/-!
DEFINITION. The commands of the module: one constructor of Instr for each row of spec/opcode_table.json, with the
operands the row's party supplies. An operand is what reaches the device from outside the step (a register access,
a ring entry as it authenticated, a record of a control slot, a measured value, a word of the image's stream);
everything else a command reads is in State. Notes/assumptions row 16 says how operands stand for arrivals.
-/

namespace Sys2Proof

/-- The three streams of a cluster (Table 3-3 STREAM: 0 F, 1 B, 2 U). -/
inductive Stream where
  | f | b | u
deriving DecidableEq, Repr

/-- Where a stream word runs: partition, relative logical cluster 0 to 799 (R78, R161) and stream. -/
structure WordAt where
  pt : Nat
  cl : Nat
  st : Stream
deriving DecidableEq, Repr

/-- What the DRAM returned for one 64-byte burst that was not clean: its stack, its stack byte address and the number of
code symbols in error (R214). -/
structure EccObs where
  stack : Nat
  addr : Nat
  symbols : Nat
deriving DecidableEq, Repr

/-- A Crown table entry, Table 9-3. -/
structure CrownEntry where
  kind : Nat
  fill : Bool
  writeBack : Bool
  way : Nat
  offset : Nat
  hbmAddr : Nat
  lines : Nat
  fillBeat : Nat
  openBeat : Nat
  closeBeat : Nat
deriving DecidableEq, Repr

/-- A DMA table entry, Table 9-4. -/
structure DmaEntry where
  beat : Nat
  kind : Nat
  grove : Nat
  src : Nat
  dst : Nat
  lines : Nat
deriving DecidableEq, Repr

/-- A Pith tensor descriptor, Table 10-3. -/
structure TensorDesc where
  tensor : Nat
  rule : Nat
  flags : Byte
  copyFmt : Nat
  iters : Nat
  pRoot : Nat
  thinN : Nat
  thinPhase : Nat
  rslice : Nat
  copyTensor : Nat
  k : Nat
  rows : Nat
  cols : Nat
  row0 : Nat
  col0 : Nat
  logRows : Nat
  logCols : Nat
  masterAddr : Nat
  stateAddr : Nat
  gradAddr : Nat
  copyAddr : Nat
  lr : Word
  beta1 : Word
  beta2 : Word
  eps : Word
  wd : Word
  scale : Word
  nsA : Word
  nsB : Word
  nsC : Word
  damp : Word
  chunks : Nat
deriving DecidableEq, Repr

/-- The observed condition of a received occurrence (R301): its frames, header and payload as they were decoded. -/
structure Arrival where
  framesOk : Bool
  /-- When its last frame had been received completely, in 1/64 ns from the boundary of the occurrence's beat. -/
  time : Nat
  type : Nat
  frames : Nat
  stepStart : DWord
  check : DWord
  payload : List Byte
  /-- More than half of the errored symbols lay on this physical lane (R347). -/
  lane : Option Nat
  /-- Some frame of the occurrence authenticated. -/
  someFrame : Bool
deriving DecidableEq, Repr

/-- A detected fault of a running step: cause code, readiness point, suspect kind and LOCATION, place and detail
(R76, R347, Table 13-4). -/
structure FaultInfo where
  cause : Half
  point : Nat
  suspect : DWord
  ac : Nat
  cluster : Nat
  stream : Nat
  word : Nat
  detail : Nat
deriving DecidableEq, Repr

/-- What the checks of a bundle find that its bytes alone do not give (R484): SIGNER chains to the firmware root, SIG verifies
under SIGNER, and the flash has been written and read without an error (Table 17-7, ERROR 05h). -/
structure SlotCheck where
  signerOk : Bool
  sigOk : Bool
  flashOk : Bool
deriving DecidableEq, Repr, Inhabited

/-- A firmware bundle as an update delivers it, and what its verification finds (Table 17-6, R486). -/
structure Bundle where
  bytes : List Byte
  check : SlotCheck
deriving DecidableEq, Repr

/-- An identity certificate in module flash: the public key that it certifies, 133 bytes, and its DER bytes (R436). -/
structure IdCert where
  key : List Byte
  der : List Byte
deriving DecidableEq, Repr

/-- A record of the repair state (Table 17-5): the repair log and the page-retirement table of a stack, the remap table of a
grove with its retired clusters, the failed-lane map of a port. -/
inductive RepairRec where
  | log (stack : Nat)
  | pages (stack : Nat)
  | remap (grove : Nat)
  | lanes (port : Nat)
deriving DecidableEq, Repr

/-- A record whose CRC-32 fails, and what the self-tests over the hardware that it covered find bad: rows, physical clusters or
physical lanes (R483). -/
structure BadRecord where
  what : RepairRec
  found : List Nat
deriving DecidableEq, Repr

/-- One region of DEFINE_REGIONS (Table 15-5). -/
structure RegionDef where
  first : Nat
  pages : Nat
  party : Nat
deriving DecidableEq, Repr

/-- What AES-256-GCM makes of bytes: ciphertext and tag. -/
abbrev Sealed := List Byte × BitVec 128

/-- One data unit of a host transfer (R391): the ciphertext and tag that stand in host memory, and the 4 KiB to which they
decrypt. The device takes the plain bytes only where they give that ciphertext and tag under its key and nonce. -/
structure Unit4K where
  data : List Byte
  sealed : Sealed
deriving DecidableEq, Repr

/-- What the fetch of a submission entry reads: the ciphertext and tag of the ring entry, the 96 body bytes to which they decrypt,
and the table entry of the fence that the command names (R372, R401). -/
structure EntryRead where
  body : List Byte
  sealed : Sealed
  fence : Sealed
deriving DecidableEq, Repr

/-- A key of a grove vector engine and the ac in which its sum begins to land (R328). -/
structure KeyAt where
  key : Nat
  ac : Nat
deriving DecidableEq, Repr

/-- A reading of one thermal sensor: its number in the order of Table 17-1 and the temperature in 1/8 degree Celsius (R473). -/
structure SensorReading where
  sensor : Nat
  value : Int
deriving DecidableEq, Repr

/-- A reading of one rail: voltage and current (R473). -/
structure RailReading where
  volts : Nat
  amps : Nat
deriving DecidableEq, Repr

/-- What the regulators of a grove and of its partition have measured by an ac of the beat that runs, in 1/16 µJ since the beat
began; with no step running, the grove's power in 1/16 W (R455). -/
structure DrawAt where
  ac : Nat
  grove : Nat
  part : Nat
deriving DecidableEq, Repr

/-- The result of the memory pattern test of a row, or of a spare cluster's array test, during a recovery interval
(R359, R362): a spare is grove × 128 + its physical number, a row 2^32 + stack × 2^25 + its device page in the stack. -/
structure TestResult where
  unit : Nat
  passed : Bool
deriving DecidableEq, Repr

/-- The conditions Bark watches (Table 15-1, the bits of Table 15-13). -/
inductive BarkCond where
  | mesh | volt | clock | temp | light | tamperIn
deriving DecidableEq, Repr

/-- The gates data leaves by (R29, R243). -/
inductive Egress where
  | bough | pcie | checkpoint
deriving DecidableEq, Repr

/-- The commands of the module, one constructor per row of the opcode table, in the table's order. A supply fault may take the
48 V away altogether (gone); the read half of a merge finds its MAC good or not (macOk); the lanes of a Graft port reach the
partner's lanes of the same numbers (straight). A Bark condition may end (ended). An occurrence that misses its deadline may have lost its frames
mostly on one physical lane, or some of its frames may have come (lane, someFrame: R347). PARTY_JOIN comes with the bytes that its SIG
signs under PUBKEY, none where it verifies for none. The certificate region of module flash may hold a new identity certificate
by the time of a Rooted stage (cert) or of a deployment (key and der, none where der is empty). Where a command lists what the
DRAM returned (ecc), every burst that it reads and does not list was clean. -/
inductive Instr where
  | registerWrite (bar width off : Nat) (val : DWord)
  | beatBoundary
  | trefLost
  | pllLockLost
  | holdoverEnd
  | trefStable
  | pllLockDone
  | beatInFrame (widths : List Nat)
  | beatInLost
  | beatMarker (port : Nat) (rec : List Byte) (rxBeat : DWord) (rxOff : Int)
  | markerLost
  | flywheelLimit
  | delayRequest (port : Nat) (rec : List Byte) (rxBeat : DWord) (rxOff : Int)
  | delayReply (port : Nat) (rec : List Byte) (rxBeat : DWord) (rxOff : Int)
  | rootStart
  | slotDeadlineExpiry (pt slot occ : Nat) (lane : Option Nat := none) (someFrame : Bool := false)
  | nop (a : WordAt) (w : OpWord)
  | endWord (a : WordAt) (w : OpWord)
  | wld (a : WordAt) (w : OpWord)
  | wldt (a : WordAt) (w : OpWord)
  | mm (a : WordAt) (w : OpWord)
  | mmt (a : WordAt) (w : OpWord) (mask : List Byte)
  | vchain (a : WordAt) (w : OpWord) (desc : List Byte)
  | vroute (a : WordAt) (w : OpWord) (desc : List Byte)
  | gather (a : WordAt) (w : OpWord) (desc : List Byte)
  | combine (a : WordAt) (w : OpWord) (desc : List Byte)
  | scaleGather (a : WordAt) (w : OpWord) (desc : List Byte)
  | countLoad (a : WordAt) (w : OpWord) (desc : List Byte)
  | ldc (a : WordAt) (w : OpWord)
  | stc (a : WordAt) (w : OpWord)
  | send (a : WordAt) (w : OpWord)
  | gvsend (a : WordAt) (w : OpWord)
  | gveEmit (pt grove : Nat) (key : KeyAt)
  | gveKeyExpiry (pt : Nat)
  | lktx (a : WordAt) (w : OpWord)
  | lkrx (a : WordAt) (w : OpWord)
  | stpush (a : WordAt) (w : OpWord)
  | stpop (a : WordAt) (w : OpWord)
  | stashWriteback (pt cl : Nat)
  | stashFetch (pt cl : Nat) (ecc : List EccObs)
  | crownFill (pt grove : Nat) (e : CrownEntry) (ecc : List EccObs) (late : Bool)
  | crownWriteback (pt grove : Nat) (e : CrownEntry)
  | dmaCopy (pt : Nat) (e : DmaEntry) (ecc : List EccObs)
  | dmaCopyWrite (pt : Nat) (e : DmaEntry) (late : Bool)
  | wcEntryTimeout (bus line : Nat) (macOk : Bool := true)
  | trackerDone (page : Nat)
  | macCheckComplete (bus line : Nat) (ok : Bool)
  | releaseWindowExpiry (gate : Egress)
  | refreshWatchdog (stack pc : Nat)
  | regionInitDone (r : Nat)
  | rotationStart (r : Nat)
  | sweepDone (r : Nat)
  | flushDone (r : Nat)
  | pithVerify (pt stack : Nat) (d : TensorDesc) (ecc : List EccObs)
  | pithNorm (pt : Nat)
  | pithPrep (pt stack : Nat) (d : TensorDesc) (ecc : List EccObs := [])
  | pithApply (pt stack : Nat) (d : TensorDesc) (first count : Nat) (ecc : List EccObs)
  | pithCopy (pt stack : Nat) (d : TensorDesc) (first count : Nat)
  | pithRefresh (pt stack : Nat) (d : TensorDesc) (ecc : List EccObs := [])
  | phaseIncomplete (pt unit op : Nat) (tensors : List Nat)
  | workingCopyRegen (pt stack : Nat) (d : TensorDesc) (line : Nat) (ecc : List EccObs := [])
  | stepCommit (pt : Nat)
  | parameterBroadcast (pt slot occ stack : Nat) (d : TensorDesc) (line : Nat) (ecc : List EccObs := [])
  | checkpointExport (pt stack : Nat) (ecc : List EccObs)
  | beatTimer (pt timer : Nat) (param : DWord)
  | broadcastReplay (pt : Nat)
  | alignmentBlock (port lane : Nat) (block : List Byte)
  | laneSwap (port : Nat) (tx : Bool)
  | laneSwapTimeout (port : Nat)
  | trainingDone (port : Nat) (singlePartner : Bool) (straight : Bool := true)
  | retrain (port : Nat)
  | authentication (port : Nat) (rec : List Byte) (verified : Option Bool)
  | keyActivation (port : Nat) (secret : Secret) (transcript : Digest) (partner : DWord) (partnerPort : Nat)
  | authTimeout (port : Nat)
  | authRetry (port : Nat)
  | frameReceive (port time : Nat) (tagOk : Bool) (corrected : List Nat)
  | jobConfirm (port : Nat) (head confirm : List Byte)
  | linkLevelSwitch (port : Nat)
  | slotTransmit (pt slot occ : Nat) (start : Nat)
  | slotReceive (pt slot occ : Nat) (arr : Arrival)
  | replicaDigest (pt : Nat) (payload : List Byte)
  | graftIngress (pt port graft : Nat) (step : DWord) (data : List Byte)
  | graftDeadline (pt graft : Nat)
  | laneCheck (pt : Nat)
  | redSettingApply (pt : Nat)
  | stepDiscard (pt : Nat) (f : FaultInfo)
  | faultNotice (port : Nat) (rec : List Byte)
  | discardReport (pt : Nat)
  | recoveryInterval (pt : Nat) (tests : List TestResult) (ecc : List EccObs := [])
  | functionLevelReset
  | getVersion
  | getCapabilities
  | negotiateAlgorithms
  | getDigests
  | getCertificate (slot offset length : Nat)
  | challenge (nonce : Key)
  | getMeasurements (index : Nat) (nonce : Key)
  | keyExchange (session : Nat)
  | finish (session : Nat) (ok : Bool) (secret transcript : Digest)
  | heartbeat (session : Nat)
  | keyUpdate (session : Nat)
  | endSession (session : Nat)
  | unsupportedRequest (code : Nat)
  | sqTailWrite (q width : Nat) (val : DWord)
  | cqHeadWrite (q width : Nat) (val : DWord)
  | entryFetch (q : Nat) (seq : DWord) (entry : EntryRead)
  | nopCommand (q : Nat)
  | step (q : Nat)
  | load (q : Nat)
  | loadProcess (q : Nat) (units : List Unit4K)
  | loadComplete
  | copyToDevice (q : Nat) (units : List Unit4K)
  | copyToHost (q : Nat) (ecc : List EccObs := [])
  | wait (q : Nat)
  | waitTimeout (q : Nat)
  | fenceOpSignal (q : Nat)
  | fenceOpArm (q : Nat)
  | query (q : Nat)
  | ctxCreate (q : Nat)
  | bind (q : Nat)
  | ctxDestroy (q : Nat)
  | objMap (q : Nat)
  | objFree (q : Nat)
  | objFreeRelease (q : Nat)
  | fenceCreate (q : Nat)
  | fenceFree (q : Nat)
  | keyRotate (q : Nat)
  | contextLoad (ctx : Nat) (entry : Sealed)
  | completionWrite (q : Nat)
  | noticeWrite (q : Nat)
  | queueEnable (q : Nat)
  | queueDisable (q : Nat)
  | queueReset (q : Nat)
  | queueConfigWrite (q reg : Nat) (val : Word)
  | stepSelect (pt : Nat) (timer : Option Sealed := none)
  | contextSwitch (pt : Nat) (ecc : List EccObs := [])
  | scalePageWrite (pt : Nat)
  | tierSwitch (pt : Nat)
  | stepStart (pt : Nat)
  | stepCompletion (pt : Nat)
  | slotGridRefuse (pt : Nat)
  | estClear (pt : Nat)
  | tamper (c : BarkCond) (ended : Bool := false)
  | tamperLatch
  | waferToAssembled
  | assembledToProvisioned (scope : Byte) (ok : Bool) (bankAOk bankBOk : Bool)
  | provisionedToDeployed (scope : Byte) (ok : Bool) (key der : List Byte)
  | deployedToReturned
  | scrap (viaJ6 : Bool)
  | debugChallenge
  | challengeExpiry
  | debugToken (scope : Byte) (ok : Bool)
  | tenantOpen (session pt : Nat)
  | declareParty (session party : Nat) (hash : Digest)
  | partyJoin (session pt party : Nat) (pubKey signed : List Byte)
  | setJobKey (session : Nat) (key : Key)
  | setCkptKey (session : Nat) (key : Key)
  | defineRegions (session : Nat) (regions : List RegionDef)
  | approveImage (session : Nat) (digest : Digest)
  | partyLeave (session : Nat)
  | tenantClose (session : Nat)
  | scrubStart (pt : Nat)
  | scrubEnd (pt : Nat) (clean : Bool)
  | attestationLock
  | standbyPllLock (pt : Nat)
  | muxHang (pt : Nat)
  | clockStop (pt : Nat)
  | clockDomainRelock (pt : Nat)
  | currentLimitTrip (pt grove : Nat) (draw : DrawAt)
  | thermalStop (grove : Nat)
  | thermalStopEnd (grove : Nat)
  | thermalShutdown
  | sensorRead (readings : List SensorReading) (rails : List RailReading)
  | fmcStart
  | fmcDone (count : Nat)
  | configArm (abort : Bool)
  | configAbort
  | configCommitApply
  | powerEnable
  | powerDisable
  | supplyFault (gone : Bool := false)
  | moduleReset
  | perstDeassert
  | seedlingStage
  | rootedStage (c : SlotCheck) (cert : Option IdCert := none)
  | leafedStage (bad : List BadRecord)
  | fullStage
  | stageTimeout (reason : Nat)
  | canopyWatchdogExpiry
  | canopySramError
  | canopyCoreRestart (readOk : Bool)
  | logEntry
  | logBlockClose
  | tlsConnect (certChainsToAnchor paramsOk : Bool)
  | pldmSensorRead (index : Nat)
  | getStatus
  | readLog (block : Nat)
  | setCap (watts : Nat)
  | resetModule
  | setAnchor (network authenticated : Bool) (cert : List Byte)
  | getCerts
  | firmwareUpdate (b : Bundle)
  | recoveryBegin (flashOk : Bool)
  | recoveryChunk (flashOk : Bool := true)
  | recoveryFinish (c : SlotCheck)
  | beatInEdge (offset : Int)
  | symbolLockLost (port lane : Nat)
  | registerRead (bar width off : Nat)
  | supplyApplied
  | checkpointExportDone (pt : Nat)
  | graftEgressDone (port graft : Nat)
  | traceEnable
deriving DecidableEq, Repr

end Sys2Proof
end

