-- ==== Sys2Proof/Decode.lean ====
section
/-!
DEFINITION. The command that a word spells. The opcode table gives no row any bits: the commands of this block are
register accesses, arrivals and events, not words; so no word spells one.
-/

namespace Sys2Proof

/-- The command spelled by a word by the table's bits: none, since no row of the table gives bits. -/
def decodeTableWord (_nbits _w : Nat) : Option Instr := none

end Sys2Proof
end

