-- ==== Sys2Proof/Machine/Bits.lean ====
section
/-!
DEFINITION. Bit fields, byte order and the two cyclic checks of the manual.
-/

namespace Sys2Proof.Machine

/-- Bits lo to lo + len - 1 of v. -/
def field (v lo len : Nat) : Nat := v / 2 ^ lo % 2 ^ len

/-- Bit i of v. -/
def bitAt (v i : Nat) : Bool := field v i 1 = 1

/-- The number that bytes spell, little-endian (R77). -/
def leNat : List Byte → Nat
  | [] => 0
  | b :: bs => b.toNat + 256 * leNat bs

/-- v in n bytes, little-endian. -/
def toLE : Nat → Nat → List Byte
  | 0, _ => []
  | n + 1, v => BitVec.ofNat 8 v :: toLE n (v / 256)

/-- v in n bytes, big-endian. -/
def toBE (n v : Nat) : List Byte := (toLE n v).reverse

/-- The field of n bytes at offset off. -/
def getLE (bs : List Byte) (off n : Nat) : Nat := leNat ((bs.drop off).take n)

/-- n zero bytes. -/
def zeros (n : Nat) : List Byte := List.replicate n 0

/-- The first n bytes, padded with zeros. -/
def padTo (n : Nat) (bs : List Byte) : List Byte := bs.take n ++ zeros (n - bs.length)

/-- Bytes new at offset off of bs, which keeps its length where new fits. -/
def patch (bs : List Byte) (off : Nat) (new : List Byte) : List Byte :=
  bs.take off ++ new ++ bs.drop (off + new.length)

/-- Every byte is zero. -/
def allZero (bs : List Byte) : Bool := bs.all fun b => decide (b = 0)

/-- ASCII bytes of a label (R414). -/
def ascii (s : String) : List Byte := s.toList.map fun c => BitVec.ofNat 8 c.toNat

/-- A byte's bits, most significant first. -/
def byteBits (b : Byte) : List Bool := (List.range 8).reverse.map fun i => b.getLsbD i

/-- One bit into a cyclic check register of w bits, no reflection. -/
def crcBit (w poly : Nat) (r : Nat) (b : Bool) : Nat :=
  let top := decide (r / 2 ^ (w - 1) % 2 = 1)
  let sh := r * 2 % 2 ^ w
  if top != b then Nat.xor sh poly else sh

/-- A cyclic check over bits in order. -/
def crcBits (w poly init : Nat) (bits : List Bool) : Nat := bits.foldl (crcBit w poly) init

/-- CRC-16 of R45: 1021h, initial FFFFh, no reflection, no final XOR, over bits in their order. -/
def crc16Bits (bits : List Bool) : Nat := crcBits 16 0x1021 0xFFFF bits

/-- CRC-16 over bytes, each most significant bit first (R45, Table 11-2). -/
def crc16 (bs : List Byte) : Nat := crc16Bits (bs.flatMap byteBits)

/-- CRC-64 of R303. -/
def crc64 (bs : List Byte) : Nat := crcBits 64 0x42F0E1EBA9EA3693 0 (bs.flatMap byteBits)

/-- ceil(a / b). -/
def ceilDiv (a b : Nat) : Nat := (a + b - 1) / b

/-- v + 1, staying at the greatest value (counters that "stop at FFFF_FFFFh"). -/
def satSucc {w : Nat} (v : BitVec w) : BitVec w := if v = BitVec.allOnes w then v else v + 1

/-- v + n, staying at the greatest value. -/
def satAdd {w : Nat} (v : BitVec w) (n : Nat) : BitVec w :=
  if v.toNat + n < 2 ^ w then BitVec.ofNat w (v.toNat + n) else BitVec.allOnes w

/-- A word with bits [lo + len - 1 : lo] set to v. -/
def atBits (v lo len : Nat) : Nat := v % 2 ^ len * 2 ^ lo

/-- A Bool as a bit. -/
def b2n (b : Bool) : Nat := if b then 1 else 0

end Sys2Proof.Machine
end

