-- ==== Sys2Proof/Machine/Ext.lean ====
section
/-!
DEFINITION. Exact values: what a narrow number decodes to before any rounding (06_training_numerics). A finite value is
(-1)^neg * m * 2^e; a zero keeps its sign.
-/

namespace Sys2Proof.Machine

/-- An exact dyadic value, an infinity, or NaN. -/
inductive Ext where
  | nan
  | inf (neg : Bool)
  | fin (neg : Bool) (m : Nat) (e : Int)
deriving DecidableEq, Repr

end Sys2Proof.Machine
end

