-- ==== Sys2Proof/Machine/Numerics.lean ====
section
/-!
DEFINITION. Numbers (06): exact arithmetic on Ext, the one FP32 rounding, narrow formats and their conversions, the lane
generators, and the correctly rounded functions of Table 5-5.
-/

namespace Sys2Proof.Machine

/-! ## Exact arithmetic (R121, R131, R132, R152) -/

def Ext.zero : Ext := .fin false 0 0

/-- The value is ±0. -/
def Ext.isZero : Ext → Bool
  | .fin _ m _ => m == 0
  | _ => false

def Ext.isFin : Ext → Bool
  | .fin _ _ _ => true
  | _ => false

def Ext.isNan : Ext → Bool
  | .nan => true
  | _ => false

/-- The sign bit. -/
def Ext.neg? : Ext → Bool
  | .nan => false
  | .inf n => n
  | .fin n _ _ => n

def Ext.negate : Ext → Ext
  | .nan => .nan
  | .inf n => .inf (!n)
  | .fin n m e => .fin (!n) m e

def Ext.abs : Ext → Ext
  | .nan => .nan
  | .inf _ => .inf false
  | .fin _ m e => .fin false m e

/-- The numerator of a finite value over 2^u, for u not above its exponent. -/
def scaled (neg : Bool) (m : Nat) (e u : Int) : Int :=
  let v : Int := ((m * 2 ^ (e - u).toNat : Nat) : Int)
  if neg then -v else v

/-- Exact sum; a zero sum is -0 only where both terms are -0 (R152). -/
def Ext.add (a b : Ext) : Ext :=
  match a, b with
  | .nan, _ => .nan
  | _, .nan => .nan
  | .inf x, .inf y => if x = y then .inf x else .nan
  | .inf x, _ => .inf x
  | _, .inf y => .inf y
  | .fin x m e, .fin y n f =>
    if m = 0 then (if n = 0 then .fin (x && y) 0 0 else .fin y n f)
    else if n = 0 then .fin x m e
    else
      let u := min e f
      let v := scaled x m e u + scaled y n f u
      .fin (decide (v < 0)) v.natAbs u

/-- Exact product; zero times infinity is NaN. -/
def Ext.mul (a b : Ext) : Ext :=
  match a, b with
  | .nan, _ => .nan
  | _, .nan => .nan
  | .inf x, .inf y => .inf (x != y)
  | .inf x, .fin y n _ => if n = 0 then .nan else .inf (x != y)
  | .fin x m _, .inf y => if m = 0 then .nan else .inf (x != y)
  | .fin x m e, .fin y n f => .fin (x != y) (m * n) (e + f)

/-- Exact sum of a list; +0 where it is empty. -/
def Ext.sum (l : List Ext) : Ext :=
  match l with
  | [] => .zero
  | x :: xs => xs.foldl Ext.add x

/-- a < b among values that are not NaN; -0 and +0 are equal. -/
def Ext.lt (a b : Ext) : Bool :=
  match a, b with
  | .nan, _ => false
  | _, .nan => false
  | .inf x, .inf y => x && !y
  | .inf x, _ => x
  | _, .inf y => !y
  | .fin x m e, .fin y n f =>
    let u := min e f
    decide (scaled x m e u < scaled y n f u)

/-- v × 2^k exactly. -/
def Ext.scale (v : Ext) (k : Int) : Ext :=
  match v with
  | .fin n m e => .fin n m (e + k)
  | x => x

/-! ## The FP32 rounding (R152) -/

/-- floor(log2 (p / q)) for p, q above 0. -/
def floorLog (p q : Nat) : Int :=
  let d : Int := (Nat.log2 p : Int) - (Nat.log2 q : Int)
  if q * 2 ^ d.toNat ≤ p * 2 ^ (-d).toNat then d else d - 1

/-- p/q × 2^e as a numerator and denominator over 2^u. -/
def ratOver (p q : Nat) (e u : Int) : Nat × Nat := (p * 2 ^ (e - u).toNat, q * 2 ^ (u - e).toNat)

/-- Exponent of the last place of p/q × 2^e in a format of mb fraction bits and smallest spacing 2^umin. -/
def ulpOf (mb : Nat) (umin : Int) (p q : Nat) (e : Int) : Int := max (floorLog p q + e - (mb : Int)) umin

/-- The code (exponent and fraction, no sign) that round to nearest even gives p/q × 2^e, with the exponent range
unbounded upward. -/
def roundNear (mb : Nat) (umin : Int) (p q : Nat) (e : Int) : Nat :=
  if p = 0 then 0
  else
    let u := ulpOf mb umin p q e
    let r := ratOver p q e u
    let k := r.1 / r.2
    let rem := r.1 % r.2
    let k := if r.2 < 2 * rem ∨ (2 * rem = r.2 ∧ k % 2 = 1) then k + 1 else k
    (u - umin).toNat * 2 ^ mb + k

/-- The same under stochastic rounding with the 24-bit value rnd (R157). -/
def roundStoch (mb : Nat) (umin : Int) (rnd : Nat) (p q : Nat) (e : Int) : Nat :=
  if p = 0 then 0
  else
    let u := ulpOf mb umin p q e
    let r := ratOver p q e u
    let k := r.1 / r.2
    let k := if rnd * r.2 < r.1 % r.2 * 2 ^ 24 then k + 1 else k
    (u - umin).toNat * 2 ^ mb + k

def signBit (neg : Bool) (w : Nat) : Nat := if neg then 2 ^ w else 0

def nanF32 : Word := 0x7FC00000

/-- rne_fp32 of a quotient of magnitude p/q × 2^e. -/
def rneQuot (neg : Bool) (p q : Nat) (e : Int) : Word :=
  BitVec.ofNat 32 (signBit neg 31 + min (roundNear 23 (-149) p q e) 0x7F800000)

/-- rne_fp32 of an exact value; NaN gives 7FC0_0000h. -/
def rne : Ext → Word
  | .nan => nanF32
  | .inf n => BitVec.ofNat 32 (signBit n 31 + 0x7F800000)
  | .fin n m e => rneQuot n m 1 e

/-- The value of an FP32 bit pattern. -/
def ofF32 (w : Word) : Ext :=
  let v := w.toNat
  let neg := bitAt v 31
  let ex := field v 23 8
  let fr := field v 0 23
  if ex = 255 then (if fr = 0 then .inf neg else .nan)
  else if ex = 0 then .fin neg fr (-149)
  else .fin neg (2 ^ 23 + fr) ((ex : Int) - 150)

/-- The value that a compensated pair denotes (R131). -/
def pairVal (hi lo : Word) : Ext := (ofF32 hi).add (ofF32 lo)

/-- A value as a pair (R133, R143). -/
def toPair (t : Ext) : Word × Word :=
  match t with
  | .nan => (nanF32, 0)
  | .inf n => (rne (.inf n), 0)
  | .fin _ _ _ =>
    let h := rne t
    if (ofF32 h).isFin then (h, rne (t.add (ofF32 h).negate)) else (h, 0)

/-! ## Narrow formats (R153, Table 6-1) -/

/-- A narrow format: width, fraction bits, exponent of the smallest subnormal, largest finite code, and the codes of
infinity and the canonical NaN where it has them. -/
structure NFmt where
  width : Nat
  mb : Nat
  umin : Int
  maxCode : Nat
  inf : Option Nat
  nan : Option Nat
deriving DecidableEq, Repr

def fE4M3 : NFmt := ⟨8, 3, -9, 0x7E, none, some 0x7F⟩
def fE5M2 : NFmt := ⟨8, 2, -16, 0x7B, some 0x7C, some 0x7F⟩
def fBF16 : NFmt := ⟨16, 7, -133, 0x7F7F, some 0x7F80, some 0x7FC0⟩
def fFP16 : NFmt := ⟨16, 10, -24, 0x7BFF, some 0x7C00, some 0x7E00⟩
def fE3M2 : NFmt := ⟨6, 2, -4, 0x1F, none, none⟩
def fE2M3 : NFmt := ⟨6, 3, -3, 0x1F, none, none⟩
def fE2M1 : NFmt := ⟨4, 1, -1, 0x7, none, none⟩

/-- The element format of a code (R115, Table 5-3). -/
def elemFmt : Nat → NFmt
  | 0 => fE4M3
  | 1 => fE5M2
  | 2 => fBF16
  | 3 => fFP16
  | 4 => fE4M3
  | 5 => fE5M2
  | 6 => fE3M2
  | 7 => fE2M3
  | _ => fE2M1

/-- The format carries MX block scales. -/
def isMx (f : Nat) : Bool := decide (4 ≤ f) && decide (f ≤ 9)

/-- The value of an element code (R153). -/
def decodeN (f : NFmt) (code : Nat) : Ext :=
  let neg := bitAt code (f.width - 1)
  let c := code % 2 ^ (f.width - 1)
  if f.inf = some c then .inf neg
  else if f.maxCode < c then .nan
  else
    let ex := c / 2 ^ f.mb
    let fr := c % 2 ^ f.mb
    if ex = 0 then .fin neg fr f.umin else .fin neg (2 ^ f.mb + fr) (f.umin + (ex : Int) - 1)

/-- An element under its E8M0 scale byte, exactly; FFh gives NaN (R121, R154). -/
def withScale (v : Ext) (b : Nat) : Ext := if b = 0xFF then .nan else v.scale ((b : Int) - 127)

/-- A rounding of R157: nearest even, or stochastic with 24 random bits. -/
inductive Rnd where
  | near
  | stoch (r : Nat)
deriving DecidableEq, Repr

def roundBy (rnd : Rnd) (mb : Nat) (umin : Int) (p q : Nat) (e : Int) : Nat :=
  match rnd with
  | .near => roundNear mb umin p q e
  | .stoch r => roundStoch mb umin r p q e

/-- Convert y to a narrow target (Table 6-2): the code and whether it saturated. -/
def encodeN (f : NFmt) (rnd : Rnd) (y : Ext) : Nat × Bool :=
  match y with
  | .nan => (f.nan.getD 0, false)
  | .inf n =>
    match f.inf with
    | some c => (signBit n (f.width - 1) + c, false)
    | none => (f.nan.getD 0, false)
  | .fin n m e =>
    let c := roundBy rnd f.mb f.umin m 1 e
    if f.maxCode < c then (signBit n (f.width - 1) + f.maxCode, true) else (signBit n (f.width - 1) + c, false)

/-- An integer magnitude rounded from p/q × 2^e (R319, R321). -/
def roundInt (rnd : Rnd) (p q : Nat) (e : Int) : Nat :=
  if p = 0 then 0
  else
    let r := ratOver p q e 0
    let k := r.1 / r.2
    let rem := r.1 % r.2
    match rnd with
    | .near => if r.2 < 2 * rem ∨ (2 * rem = r.2 ∧ k % 2 = 1) then k + 1 else k
    | .stoch x => if x * r.2 < rem * 2 ^ 24 then k + 1 else k

/-- emax of an MX element format (R159). -/
def emaxOf : Nat → Int
  | 4 => 8
  | 5 => 15
  | 6 => 4
  | 7 => 2
  | _ => 2

/-- ceil(log2 v) of a positive finite value. -/
def ceilLog (v : Ext) : Int :=
  match v with
  | .fin _ m e => if m = 0 then 0 else (if m = 2 ^ Nat.log2 m then (Nat.log2 m : Int) else (Nat.log2 m : Int) + 1) + e
  | _ => 0

/-- floor(log2 v) of a positive finite value. -/
def floorLogV (v : Ext) : Int :=
  match v with
  | .fin _ m e => if m = 0 then 0 else (Nat.log2 m : Int) + e
  | _ => 0

/-- The larger of two values, +0 above -0 (Table 5-5, MAX). -/
def Ext.max (a b : Ext) : Ext :=
  if a.isNan || b.isNan then .nan
  else if a.lt b then b
  else if b.lt a then a
  else if a.neg? then b else a

/-- The smaller of two values, -0 below +0 (MIN). -/
def Ext.min (a b : Ext) : Ext :=
  if a.isNan || b.isNan then .nan
  else if a.lt b then a
  else if b.lt a then b
  else if a.neg? then a else b

/-- Convert one MX block (R159): the scale byte, the element codes and how many saturated. -/
def encodeMx (fmt : Nat) (xs : List (Ext × Rnd)) : Nat × List Nat × Nat :=
  let f := elemFmt fmt
  if xs.any fun x => !x.1.isFin then (0xFF, xs.map fun _ => 0, 0)
  else
    let m := (xs.map fun x => x.1.abs).foldl Ext.max .zero
    let x : Int := if m.isZero then -127 else Max.max (-127) (Min.min 127 (floorLogV m - emaxOf fmt))
    let cs := xs.map fun v => encodeN f v.2 (v.1.scale (-x))
    ((x + 127).toNat, cs.map (·.1), (cs.filter (·.2)).length)

/-! ## The lane generators (R160, R161) -/

def genMix (z : DWord) : DWord :=
  let z := (z ^^^ (z >>> 31)) * 0xD1B54A32D192ED03
  let z := (z ^^^ (z >>> 29)) * 0x8CB92BA72F3D8DD7
  z ^^^ (z >>> 32)

/-- The output of a lane in cycle n of its step. -/
def genOut (seed : DWord) (lane n : Nat) : DWord :=
  let s := genMix (seed ^^^ (BitVec.ofNat 64 lane * 0xE7037ED1A0B428DB))
  genMix (s + BitVec.ofNat 64 n * 0x9E6C63D0676A9A99)

/-- Bits [63:40], the random value of R157. -/
def genBits (seed : DWord) (lane n : Nat) : Nat := field (genOut seed lane n).toNat 40 24

/-! ## Fixed-point evaluation of the functions of Table 5-5 (DEDUCED, log entry 23)

Numbers scaled by 2^600; each function's error lies far below the distance of any FP32 argument's value from a rounding
boundary, the exact cases being taken apart. -/

def fxBits : Nat := 600
def fxOne : Int := (2 ^ fxBits : Nat)

/-- A finite value in fixed point, toward minus infinity. -/
def fxOf (neg : Bool) (m : Nat) (e : Int) : Int :=
  let k := e + (fxBits : Int)
  let v : Int := ((m * 2 ^ k.toNat / 2 ^ (-k).toNat : Nat) : Int)
  if neg then -v else v

def fxMul (a b : Int) : Int := (a * b).fdiv fxOne
def fxDiv (a b : Int) : Int := (a * fxOne).fdiv b

/-- Taylor sum of e^y for |y| at most 1: n terms. -/
def fxExpSum (y : Int) : Nat → Int → Nat → Int
  | 0, _, _ => 0
  | n + 1, term, k => term + fxExpSum y n ((fxMul term y).fdiv ((k : Int) + 1)) (k + 1)

/-- Square n times. -/
def fxSquares : Nat → Int → Int
  | 0, a => a
  | n + 1, a => fxSquares n (fxMul a a)

/-- e^x: the argument over 2^10, then ten squarings. -/
def fxExp (x : Int) : Int := fxSquares 10 (fxExpSum (x.fdiv 1024) 80 fxOne 0)

/-- Odd series z + z^3/3 + z^5/5 + ... with sign: n terms. -/
def fxOddSum (z2 : Int) : Nat → Int → Nat → Int
  | 0, _, _ => 0
  | n + 1, pow, k => pow.fdiv (2 * (k : Int) + 1) + fxOddSum z2 n (fxMul pow z2) (k + 1)

/-- atanh z for |z| at most 1/3. -/
def fxAtanh (z : Int) : Int := fxOddSum (fxMul z z) 200 z 0

/-- atan z for small z. -/
def fxAtan (z : Int) : Int := fxOddSum (-(fxMul z z)) 140 z 0

def fxLn2 : Int := 2 * fxAtanh (fxDiv fxOne (3 * fxOne))

/-- π by Machin's formula. -/
def fxPi : Int := 16 * fxAtan (fxDiv fxOne (5 * fxOne)) - 4 * fxAtan (fxDiv fxOne (239 * fxOne))

/-- ln of m × 2^e, m above 0. -/
def fxLn (m : Nat) (e : Int) : Int :=
  let l := Nat.log2 m
  let y := fxOf false m (-(l : Int))
  (e + (l : Int)) * fxLn2 + 2 * fxAtanh (fxDiv (y - fxOne) (y + fxOne))

/-- Square root of a fixed-point value. -/
def fxSqrt (a : Int) : Int := ((Nat.sqrt (a.toNat * 2 ^ fxBits) : Nat) : Int)

/-- Sum of x^(2n+1) / (2n+1)!!: n terms. -/
def fxErfSum (x2 : Int) : Nat → Int → Nat → Int
  | 0, _, _ => 0
  | n + 1, term, k => term + fxErfSum x2 n ((fxMul term x2).fdiv (2 * (k : Int) + 3)) (k + 1)

/-- Φ(x): 1/2 + φ(x)(x + x^3/3 + x^5/15 + ...). -/
def fxPhi (x : Int) : Int :=
  let x2 := fxMul x x
  let phi := fxDiv (fxExp (-(x2.fdiv 2))) (fxSqrt (2 * fxPi))
  fxOne.fdiv 2 + fxMul phi (fxErfSum x2 900 x 0)

/-- rne_fp32 of a fixed-point value; the sign of a result that rounds to zero is given. -/
def fxRound (neg : Bool) (v : Int) : Word := rneQuot neg v.natAbs 1 (-(fxBits : Int))

/-- A finite value lies below an integer. -/
def belowInt (x : Ext) (k : Int) : Bool := x.lt (.fin (decide (k < 0)) k.natAbs 0)

/-! ## Stage functions (Table 5-5) -/

def pInf : Word := 0x7F800000
def nInf : Word := 0xFF800000
def oneF32 : Word := 0x3F800000

/-- RCP. -/
def fRcp (x : Ext) : Word :=
  match x with
  | .nan => nanF32
  | .inf n => rne (.fin n 0 0)
  | .fin n m e => if m = 0 then rne (.inf n) else rneQuot n 1 m (-e)

/-- SQRT: m × 2^e with e made even and m widened so that the root carries 64 bits and a sticky bit. -/
def sqrtMag (m : Nat) (e : Int) : Nat × Int :=
  let k := e % 2
  let m' := m * 2 ^ (k.toNat + 128)
  let r := Nat.sqrt m'
  (2 * r + (if r * r = m' then 0 else 1), (e - k - 128) / 2 - 1)

def fSqrt (x : Ext) : Word :=
  match x with
  | .nan => nanF32
  | .inf n => if n then nanF32 else pInf
  | .fin n m e =>
    if m = 0 then rne (.fin n 0 0)
    else if n then nanF32
    else
      let r := sqrtMag m e
      rneQuot false r.1 1 r.2

/-- RSQRT: the root of the reciprocal, 1 / (m × 2^e), through floor(2^(2 * 256) / m) with a sticky bit. -/
def fRsqrt (x : Ext) : Word :=
  match x with
  | .nan => nanF32
  | .inf n => if n then nanF32 else 0
  | .fin n m e =>
    if m = 0 then rne (.inf n)
    else if n then nanF32
    else
      let k := (-e) % 2
      let num := 2 ^ (k.toNat + 512)
      let q := num / m
      let r := Nat.sqrt q
      let exact := decide (r * r = q) && decide (num % m = 0)
      rneQuot false (2 * r + (if exact then 0 else 1)) 1 ((-e - k - 512) / 2 - 1)

def fExp (x : Ext) : Word :=
  match x with
  | .nan => nanF32
  | .inf n => if n then 0 else pInf
  | .fin n m e =>
    if m = 0 then oneF32
    else if belowInt x (-120) then 0
    else if !belowInt x 90 then pInf
    else fxRound false (fxExp (fxOf n m e))

def fLog (x : Ext) : Word :=
  match x with
  | .nan => nanF32
  | .inf n => if n then nanF32 else pInf
  | .fin n m e =>
    if m = 0 then nInf
    else if n then nanF32
    else
      let v := fxLn m e
      if m = 2 ^ Nat.log2 m ∧ (Nat.log2 m : Int) + e = 0 then 0 else fxRound (decide (v < 0)) v

/-- 1 / (1 + e^-x) in fixed point for a finite x in range. -/
def fxSigmoid (n : Bool) (m : Nat) (e : Int) : Int := fxDiv fxOne (fxOne + fxExp (-(fxOf n m e)))

def fSigmoid (x : Ext) : Word :=
  match x with
  | .nan => nanF32
  | .inf n => if n then 0 else oneF32
  | .fin n m e =>
    if belowInt x (-120) then 0
    else if !belowInt x 120 then oneF32
    else fxRound false (fxSigmoid n m e)

/-- x × f(x) rounded, the sign that of x. -/
def timesFx (n : Bool) (m : Nat) (e : Int) (v : Int) : Word := rneQuot n (m * v.natAbs) 1 (e - (fxBits : Int))

def fSilu (x : Ext) : Word :=
  match x with
  | .nan => nanF32
  | .inf n => if n then 0x80000000 else pInf
  | .fin n m e =>
    if belowInt x (-130) then 0x80000000
    else if !belowInt x 120 then rne x
    else timesFx n m e (fxSigmoid n m e)

def fGelu (x : Ext) : Word :=
  match x with
  | .nan => nanF32
  | .inf n => if n then 0x80000000 else pInf
  | .fin n m e =>
    if belowInt x (-16) then 0x80000000
    else if !belowInt x 16 then rne x
    else timesFx n m e (fxPhi (fxOf n m e))

/-- TANH (Table 5-5). Of a zero it gives a zero of the same sign, which no rule states (DESIGN CHOICE, log entry 23). -/
def fTanh (x : Ext) : Word :=
  match x with
  | .nan => nanF32
  | .inf n => rne (.fin n 1 0)
  | .fin n m e =>
    if m = 0 then rne (.fin n 0 0)
    else if !belowInt x.abs 60 then rne (.fin n 1 0)
    else
      let t := fxExp (-2 * fxOf false m e)
      fxRound n (fxDiv (fxOne - t) (fxOne + t))

end Sys2Proof.Machine
end

