-- ==== Sys2Proof/Config.lean ====
section
/-!
DEFINITION. What an implementation fixes and what the manual leaves free, as constants without a body: nothing in Lean
can evaluate one or prove a value of it, so a statement holds for every one of them. The standards that the manual
names without giving them (SHA-512, HMAC, AES-256, ECDSA and ECDH on P-521) are here too: the model gives each its
inputs as the manual lays them out and leaves the function itself uninterpreted (DESIGN CHOICE, log entries 2 and 17).
-/

namespace Sys2Proof

/-- A byte whose value the manual leaves undefined: the counter of free draws and the place (R454; DESIGN CHOICE, log entry 2). -/
opaque Config.freeByte : Nat → Nat → Byte

/-- A 64-bit value the manual leaves open (DESIGN CHOICE, log entry 2). -/
opaque Config.freeWord : Nat → DWord

/-- Heartwood's true random number generator: 256 bits for draw number n (R415; DESIGN CHOICE, log entry 2). -/
opaque Config.trng : Nat → Key

/-- Whether the side-band code notices an error of more than six symbols, which R214 leaves open (DESIGN CHOICE, log entry 2). -/
opaque Config.eccBeyond : Nat → Nat → Bool

/-- SHA-512 (DESIGN CHOICE, log entry 17). -/
opaque Config.sha512 : List Byte → Digest

/-- HMAC-SHA-512: key bytes, message (R414; DESIGN CHOICE, log entry 17). -/
opaque Config.hmacSha512 : List Byte → List Byte → Digest

/-- AES-256 of one block (R331; DESIGN CHOICE, log entry 17). -/
opaque Config.aes256 : Key → BitVec 128 → BitVec 128

/-- The digest base of a tensor in a partition that holds no job key, which R331 leaves open (DESIGN CHOICE, log entry 2). -/
opaque Config.noJobBase : Nat → Nat

/-- AES-256-GCM: key, 12-byte nonce, associated data, plaintext; the ciphertext and the tag (DESIGN CHOICE, log entry 17). -/
opaque Config.gcmSeal : Key → List Byte → List Byte → List Byte → List Byte × BitVec 128

/-- The private formats of the context and fence tables, from what the entry holds (R381; DESIGN CHOICE, log entry 40). -/
opaque Config.ctxEntry : List Nat → List Byte
opaque Config.fenceEntry : List Nat → List Byte

/-- What an older generation's link makes of bytes: the port's mode, its key, the bytes (R308; DESIGN CHOICE, log entry 34). -/
opaque Config.graftSeal : Nat → Option Key → List Byte → List Byte

/-- AES-256 in XTS mode on one 64-byte unit: key pair, tweak, data (R237; DESIGN CHOICE, log entry 17). -/
opaque Config.xts : BitVec 512 → BitVec 128 → List Byte → List Byte

/-- AES-256-CMAC (R238; DESIGN CHOICE, log entry 17). -/
opaque Config.cmac : Key → List Byte → BitVec 128

/-- The SEC1 uncompressed P-521 public key of a private key, 133 bytes (R517; DESIGN CHOICE, log entry 17). -/
opaque Config.p521Public : Nat → List Byte

/-- The P-521 curve order n, used by R414 to reduce 576 bits to a private key (DESIGN CHOICE, log entry 17). -/
opaque Config.p521Order : Nat

/-- ECDSA P-521 signature of a digest, r then s, 132 bytes (DESIGN CHOICE, log entry 17). -/
opaque Config.ecdsaSign : Nat → Digest → List Byte

/-- The published test root (R417; DESIGN CHOICE, log entry 9). -/
opaque Config.testRoot : Key

/-- The boot ROM's SHA-512 (Table 15-6, block 1; DESIGN CHOICE, log entry 9). -/
opaque Config.bootRomDigest : Digest

/-- The authority certificates above the identity certificate: the Edrid root and the product CA; under the test root the
published test CA and what stands in for the rest (R417, R436; DESIGN CHOICE, log entry 17). -/
opaque Config.certChain : Bool → List Byte

/-- The ECDH secret of a P-521 private key and a SEC1 public key (R292; DESIGN CHOICE, log entry 17). -/
opaque Config.ecdh : Nat → List Byte → Secret

/-- The firmware bundle that module flash holds when the module is first powered (Table 17-5; DESIGN CHOICE, log entry 15). -/
opaque Config.factoryBundle : List Byte

/-- How many link beats ahead of the record a job confirm or an activation names its beat, beyond the 64 of R292; the
manual leaves the lead of R294 open (PRESUMED, log entry 11). -/
opaque Config.switchLead : Nat

/-- What an erased byte of module flash reads as, which Table 17-2 does not say (DESIGN CHOICE, log entry 15). -/
opaque Config.erasedByte : Byte

/-- Whether a pseudo-channel (stack × 32 + PC) has a post-package repair resource left after a number of repairs, which
the manual does not count (R224; DESIGN CHOICE, log entry 10). -/
opaque Config.repairLeft : Nat → Nat → Bool

/-- The pseudo-channels that a stack's controller refreshes by its own timetable in a beat in which no step runs (R220;
DESIGN CHOICE, log entry 2). -/
opaque Config.idleRefresh : Nat → Nat → BitVec 32

/-- Whether the program-verify compare of a resumed secret generation passes, by draw (R423; DESIGN CHOICE, log entry 9). -/
opaque Config.fuseVerify : Nat → Bool

/-- What the verification of R484 finds in a bundle's SIGNER and SIG and in the flash, where the recovery mailbox's RCV_CTRL is
written as a register (Table 17-7; DESIGN CHOICE, log entry 17). -/
opaque Config.slotCheck : List Byte → SlotCheck


end Sys2Proof
end

