-- ==== Sys2Proof/Machine/Map.lean ====
section
/-!
DEFINITION. Sparse maps from a number to a value, in one canonical form: keys strictly rising, and no entry equal to
the value an unlisted key reads as. Byte memory (Host.Cell) and every numbered register group are such maps.
-/

namespace Sys2Proof.Machine

/-- A sparse map; what an unlisted key reads as is an argument of each operation. -/
abbrev FMap (α : Type) := List (Nat × α)

/-- The value at key i, or d where i is not listed. -/
def mget {α : Type} (d : α) : FMap α → Nat → α
  | [], _ => d
  | (k, v) :: m, i => if i = k then v else mget d m i

/-- Entry (i, v) in its place, without regard to the default. -/
def minsert {α : Type} : FMap α → Nat → α → FMap α
  | [], i, v => [(i, v)]
  | (k, u) :: m, i, v =>
    if i < k then (i, v) :: (k, u) :: m
    else if i = k then (i, v) :: m
    else (k, u) :: minsert m i v

/-- The map without key i. -/
def merase {α : Type} : FMap α → Nat → FMap α
  | [], _ => []
  | (k, u) :: m, i => if i = k then merase m i else (k, u) :: merase m i

/-- Write v at key i; writing the default removes the entry. -/
def mput {α : Type} [DecidableEq α] (d : α) (m : FMap α) (i : Nat) (v : α) : FMap α :=
  if v = d then merase m i else minsert m i v

/-- Keys strictly rising. -/
def mrising {α : Type} : FMap α → Bool
  | [] => true
  | [_] => true
  | (k, _) :: (k', v') :: m => decide (k < k') && mrising ((k', v') :: m)

/-- The canonical form: keys strictly rising, no entry equal to the default. -/
def mwf {α : Type} [DecidableEq α] (d : α) (m : FMap α) : Bool :=
  mrising m && m.all fun p => decide (p.2 ≠ d)

/-- Apply f to the value at key i. -/
def mupd {α : Type} [DecidableEq α] (d : α) (m : FMap α) (i : Nat) (f : α → α) : FMap α :=
  mput d m i (f (mget d m i))

end Sys2Proof.Machine
end

