-- ==== Sys2Proof/Machine/State.lean ====
section
/-!
DEFINITION. The state of the module as plain data, block by block, and the state after reset. Every record's default
values are its reset values; where the manual gives none, the log entry named in INVENTORY.md does. Maps keep only the
entries that differ from their default (Machine/Map.lean).
-/

namespace Sys2Proof.Machine

/-- The orderable variants (R1, R5). -/
inductive Variant where
  | a816 | a812
deriving DecidableEq, Repr

/-- The registers that raise an event interrupt and a log entry (R70, R252, R316, R344, R365, R445, R469, R488, R519,
R520); a Bough event belongs to an absolute port, a reduction event to a partition. -/
inductive EvtSrc where
  | cmb | sap | cfg | hif | mem | bgh (n : Nat) | red (p : Nat) | flt | sec | cnp
deriving DecidableEq, Repr

/-- An entry of the hub event FIFO, before Canopy numbers it (Table 17-3). -/
structure LogEnt where
  beat : DWord
  uptime : Nat
  source : Half
  event : Half
  pt : Nat
  aligned : Bool
  coreDown : Bool
  detail : List Byte
deriving DecidableEq, Repr

/-- A spare swap: logical position, spare lane, effective link beat, beat of the fault (R289, R290). -/
structure SwapReq where
  pos : Nat
  spare : Nat
  eff : DWord
  since : DWord
deriving DecidableEq, Repr

/-- What leaves the device, in order (the model's own record; DESIGN CHOICE, log entry 1). -/
inductive Out where
  /-- The value that answers a register read (R10, R507). -/
  | regData (bar width off : Nat) (val : DWord)
  /-- A Completer Abort (R9, R459, R516). -/
  | abort (bar off : Nat) (write : Bool)
  /-- An MSI-X message of a vector (R409). -/
  | msix (vector : Nat)
  /-- Bytes written to host memory at an IOVA (R378, R391, R394, R395). -/
  | hostWrite (addr : Nat) (bytes : List Byte)
  /-- A read of host memory: an IOVA and bytes. What it returns is an operand of the command that reads (R376, R381, R391). -/
  | hostRead (addr bytes : Nat)
  /-- The frames of a message on an absolute port: the beat and the nanosecond of the first, and each frame's time and
  bytes, 272 under a key and 256 in plaintext (R296, R298, R300, R304). Fill frames are not listed. -/
  | frames (port : Nat) (beat : DWord) (ns : Nat) (fs : List (Nat × List Byte))
  /-- Bytes sent to an older partner on a Graft port (R311, R314). -/
  | graft (port : Nat) (bytes : List Byte)
  /-- The partner generation's step-abort message (R313). -/
  | graftAbort (port : Nat)
  /-- The partner generation's barrier message, to Yelger (Table 11-11). -/
  | graftBarrier (port : Nat)
  /-- The alignment blocks of one beat: LINK_BEAT, the positions that lanes 16 and 17 serve, the request and what it
  acknowledges (Table 11-2; Port.block gives the bytes). -/
  | blocks (port : Nat) (linkBeat : DWord) (pos16 pos17 : Option Nat) (req ack : Option SwapReq)
  /-- An SPDM response: code and payload (R369). -/
  | spdm (code : Byte) (payload : List Byte)
  /-- A tenancy response: CODE + 80h and STATUS (R428). -/
  | tenancy (session : Nat) (code status : Byte)
  /-- A PLDM response of Canopy: command, completion code (0 success) and payload (Table 17-4). -/
  | pldm (command code : Nat) (payload : List Byte)
  /-- A TLS connection accepted or refused (R478). -/
  | tls (accepted : Bool)
  /-- The challenge that Heartwood returns (R425), empty where it issues none. -/
  | challenge (bytes : List Byte)
  /-- A pulse on BEAT_OUT: its width in nanoseconds (Table 2-2). -/
  | pulse (ns : Nat)
deriving DecidableEq, Repr

/-! ## Power, stages and the Seedling window (16, 18, 19) -/

/-- The stages of Table 16-4. -/
inductive Stage where
  | dormant | seedling | rooted | leafed | full
deriving DecidableEq, Repr

/-- Supply, enables, stage and recovery mailbox (R465 to R468, R487, R516 to R518; DESIGN CHOICE, log entry 5). -/
structure Power where
  /-- 48 V is present at the always-on domain. -/
  supply : Bool := true
  pwrEn : Bool := true
  pwrOk : Bool := true
  /-- PERST# is asserted at the pin: the device holds in Seedling (Table 16-5). -/
  perst : Bool := true
  stage : Stage := .seedling
  failed : Bool := false
  reason : Byte := 0
  seedAborts : Word := 0
  rcvReady : Bool := false
  rcvError : Byte := 0
  rcvOffset : Word := 0
  rcvLength : Word := 0
  /-- A mailbox operation is under way (RCV_STATUS.BUSY). -/
  rcvBusy : Bool := false
  rcvBegun : Bool := false
  rcvData : FMap Byte := []
  /-- Microseconds since PWR_OK rose (Table 17-3). -/
  uptime : Nat := 0
  /-- The uptime of the reference instant: PWR_OK rising or the release of the last module reset (R465). -/
  refAt : Nat := 0
  /-- The uptime at which TREF had been valid for 100 µs, since its last loss (R67, R465). -/
  trefAt : Option Nat := none
  /-- TAMPER_IN# is watched in Dormant: the state read from LC_MARKS when 48 V was applied (R411). -/
  tamperWatch : Bool := false
deriving DecidableEq, Repr

/-! ## Cambium (02) -/

/-- CMB_STATUS.STATE (Table 2-9). -/
inductive CmbSt where
  | unlocked | freqLocked | acquiring | aligned | flywheel | holdover
deriving DecidableEq, Repr

/-- The CMB registers and the time base they report (02; DESIGN CHOICE, log entry 6). -/
structure Cambium where
  st : CmbSt := .unlocked
  hops : Nat := 0
  errBound : Nat := 0
  beat : DWord := 0
  /-- The hub's count of local beats while UNLOCKED (R462). -/
  localBeat : DWord := 0
  phaseErr : Word := 0
  /-- Phase still to be corrected toward the source, in 1/64,000 ns (R52). -/
  residue : Int := 0
  /-- Total phase moved, in 1/64,000 ns, by correction and acquisition steps (R52, R53). -/
  phase : Int := 0
  stBeatOut : Bool := false
  stParent : Nat := 0
  stSrc : Nat := 0
  beatOut : Bool := false
  parent : Nat := 0
  src : Nat := 0
  beatHi : Word := 0
  inDelay : Word := 0
  rootLo : Word := 0
  rootHi : Word := 0
  flyLimit : Word := 1000000
  portDelay : FMap Word := []
  /-- Good frames or markers in a row during acquisition (R53). -/
  good : Nat := 0
  /-- The first good frame or marker has set phase and number (R53). -/
  stepped : Bool := false
  /-- The beat number that the last good frame or marker of the acquisition carried (R53). -/
  lastGood : DWord := 0
  /-- Origin bit of the last accepted marker (R49, R51). -/
  origin : Bool := false
  badCrc : Nat := 0
  flyBeats : Nat := 0
  holdBeats : Nat := 0
  rootPending : Bool := false
  tref : Bool := false
  pllLocked : Bool := false
  lockStarted : Bool := false
  /-- The ports stopped sending frames at the end of HOLDOVER (R66, Table 2-6). -/
  framesOff : Bool := false
  /-- Trace enabled through J6, which owns TRACE_CLK and the trace data pins (R48). -/
  trace : Bool := false
deriving DecidableEq, Repr

/-! ## Sapflow, clocks and the configuration commit (16) -/

/-- SAP_PT_STATUS[p] and the partition's clocks (Table 16-12, R449 to R454). -/
structure PtClock where
  budget : Nat := 0
  throttle : Bool := false
  lag : Bool := false
  standbyLocked : Bool := false
  standbyTier : Nat := 1
  tier : Nat := 0
  /-- PLL B is the active one, PLL A stands by. -/
  onB : Bool := false
  /-- A clock-domain reset of the partition is under way (R454). -/
  domainReset : Bool := false
deriving DecidableEq, Repr

/-- A grove's temperatures in 1/8 degree Celsius: the latest readings, the readings of the last 1,000 beats, newest
first, the uptime since which both have stayed 5 degrees below their limits, and its thermal stop (R447, R456). Both are dated
by the uptime, which counts beats and which no load of a beat number moves. -/
structure Thermal where
  compute : Int := 320
  hbm : Int := 320
  hist : List (Nat × Int × Int) := []
  cool : Option Nat := none
  stop : Bool := false
deriving DecidableEq, Repr

/-- The SAP/CLK block (Tables 16-8 to 16-15; DESIGN CHOICE, log entry 7). -/
structure Sapflow where
  capHost : Nat := 0x0BB8
  capMgmt : Nat := 0x0BB8
  /-- The lower of the two caps as it stood at the start of the beat that runs, and of the beat before it (R447). -/
  capNow : Nat := 0x0BB8
  capSel : Nat := 0x0BB8
  ilim : Byte := 0x18
  tmargin : Byte := 0x0A
  hyst : Byte := 0x14
  pt : FMap PtClock := []
  thermal : FMap Thermal := []
  /-- The latest reading of every thermal sensor, in 1/8 degree Celsius, by its number in Table 17-1 (R473). -/
  sensors : FMap Int := []
  rails : List RailReading := []
  clkEn : Byte := 0
  trDiv : Nat := 0
  sbDiv : Nat := 1
  fmcBusy : Bool := false
  fmcTgtSrc : Nat := 0
  fmcTgtIdx : Nat := 0
  fmcRefSrc : Nat := 0
  fmcRefIdx : Nat := 0
  fmcWindow : Word := 0x2710
  fmcCount : Word := 0
deriving DecidableEq, Repr

/-- The CFG block and the pending commit (R461 to R463; DESIGN CHOICE, log entry 7). -/
structure CfgBlk where
  commitLo : Word := 0
  commitHi : Word := 0
  reason : Byte := 0
  pending : Bool := false
  /-- The beat of a pending commit with c not 0. -/
  beat : DWord := 0
  /-- Local beats left of the 16 of a commit with c = 0 (R462); none for a named beat. -/
  remain : Option Nat := none
  /-- Commit beats of the ARM writes of the beat that runs, checked at the boundary that ends it (R461). -/
  arms : List DWord := []
  stLayout : Nat := 1
  layout : Nat := 1
  /-- A committed layout that waits for the end of a scrub (Table 15-8). -/
  waitLayout : Option Nat := none
deriving DecidableEq, Repr

/-! ## Host interface (14) -/

/-- Table 14-12. -/
inductive QState where
  | disabled | enabled | error | stopping
deriving DecidableEq, Repr

/-- A completion that waits to be written: its body without IV_BASE, and what its writing does (R378, R379). -/
structure HeldComp where
  body : List Byte
  irq : Bool
  signals : Bool
  sigFence : Word
  sigGen : Word
  /-- The session under which the entry goes out; none where it ended and nothing is written (R374). -/
  session : Word
deriving DecidableEq, Repr

/-- A command at work in a queue: its SEQ, plain body and progress (R376, R377, R379). -/
structure Fetched where
  seq : DWord
  body : List Byte
  /-- The order of fetch over all queues: the loader's order (R87). -/
  order : Nat
  /-- The command has been executed or queued and waits for an event (a WAIT, a STEP, a LOAD, a fence operation). -/
  busy : Bool
deriving DecidableEq, Repr

/-- A notice (Table 14-10), without its zero bytes. -/
structure Notice where
  kind : Nat
  tensor : Nat
  stack : Nat
  first : Nat
  count : Nat
  step : DWord
deriving DecidableEq, Repr

/-- A hardware queue slot (Tables 14-3, 14-12 to 14-15). -/
structure Queue where
  sqBase : DWord := 0
  cqBase : DWord := 0
  sqK : Nat := 0
  cqK : Nat := 0
  /-- HIF_QS_CFG.VECTOR; none is the reset value q. -/
  vector : Option Nat := none
  session : Word := 0
  st : QState := .disabled
  err : Byte := 0
  /-- The bound context's index, its tag when BIND named it, and its partition. -/
  ctx : Option Nat := none
  ctxTag : Nat := 0
  ctxPt : Nat := 0
  prio : Nat := 0
  notice : Bool := false
  sqTail : Nat := 0
  cqHead : Nat := 0
  /-- The CQ_HEAD by which the device acts: the one that stood last while the queue was ENABLED (R514). -/
  cqSeen : Nat := 0
  head : Nat := 0
  ctail : Nat := 0
  phase : Bool := true
  lastSeq : DWord := 0
  /-- The next entry may carry any greater SEQ: the first after binding a session or after a reset (R377). -/
  anySeq : Bool := true
  compNo : DWord := 0
  cmd : Option Fetched := none
  held : Option HeldComp := none
  notices : List Notice := []
  lost : Nat := 0
deriving DecidableEq, Repr

/-- An MSI-X table entry (19, "BAR2"): every vector is masked after reset. -/
structure MsixEntry where
  addr : DWord := 0
  data : Word := 0
  masked : Bool := true
deriving DecidableEq, Repr

/-- A memory object (Table 14-9) with what the device keeps of its index. -/
structure Obj where
  live : Bool := false
  tag : Nat := 1
  kind : Nat := 0
  access : Nat := 0
  base : Nat := 0
  length : Nat := 0
  tagBase : Nat := 0
  /-- The order in which the index was freed, 0 where never (R381 and before). -/
  freedAt : Nat := 0
  /-- Export records written into the object: the next record's SEQ (Table 10-7). -/
  expSeq : Nat := 0
  /-- A freed object whose backing is still in use: the queue whose OBJ_FREE waits (R390). -/
  freeing : Option Nat := none
deriving DecidableEq, Repr

/-- A context (R381 to R383, R164). -/
structure Ctx where
  live : Bool := false
  tag : Nat := 1
  session : Word := 0
  pt : Nat := 0
  objTable : Nat := 0
  saveBase : Nat := 0
  resident : Bool := false
  /-- The order in which the context was last unpinned (R382). -/
  unpinned : Nat := 0
  freedAt : Nat := 0
  objs : FMap Obj := []
  /-- The estimator's histories: entries per tensor, newest first (R164). -/
  hist : FMap (List Word) := []
  /-- Committed steps since the last clear or the context's start (NUM_PT_STATUS.DEPTH). -/
  depth : Nat := 0
  /-- Partitions in which the context has a saved memory image (R149). -/
  saved : List Nat := []
deriving DecidableEq, Repr

/-- A fence (R396 to R402). -/
structure Fence where
  live : Bool := false
  tag : Nat := 1
  session : Word := 0
  gen : Word := 0
  signalled : Bool := false
  dropped : Word := 0
  freedAt : Nat := 0
deriving DecidableEq, Repr

/-- A signal or arm that has become visible in the beat (R400). -/
structure FenceArr where
  fence : Nat
  arm : Bool
  gen : Word
  /-- The queue whose FENCE_OP it is. -/
  op : Option Nat
deriving DecidableEq, Repr

/-- The HIF and MMU blocks (DESIGN CHOICE, log entry 8). -/
structure Hif where
  ctxBaseLo : Word := 0
  ctxBaseHi : Word := 0
  fenceBaseLo : Word := 0
  fenceBaseHi : Word := 0
  queues : FMap Queue := []
  msix : FMap MsixEntry := []
  msixPend : DWord := 0
  ctxs : FMap Ctx := []
  fences : FMap Fence := []
  arrivals : List FenceArr := []
  /-- Queues whose WAIT ends with the beat that runs (R399). -/
  ending : List Nat := []
  denied : Word := 0
  /-- The on-die versions of the context-table and fence-table entries (R381). -/
  ctxVer : FMap Nat := []
  fenceVer : FMap Nat := []
  /-- Weighted round robin of fetches (R35): the partition served last, the fetches it has left, the queue of each partition
  served last. -/
  rrPt : Nat := 4
  rrLeft : Nat := 0
  rrLast : FMap Nat := []
  /-- The queue slot that the hub served last (R384). -/
  served : Nat := 47
  /-- The order number of the next fetch, free and unpinning: one rising count. -/
  tick : Nat := 1
deriving DecidableEq, Repr

/-! ## Sessions, Heartwood and tenancy (14, 15) -/

/-- An SPDM session (R370 to R374). -/
structure Session where
  live : Bool := false
  finished : Bool := false
  transcript : Digest := 0
  h2dRing : Key := 0
  h2dData : Key := 0
  d2hRing : Key := 0
  d2hData : Key := 0
  outCtr : DWord := 0
  pt : Option Nat := none
  party : Nat := 0
deriving DecidableEq, Repr

/-- SEC_STATUS.LC_STATE (Table 15-10). -/
inductive LcState where
  | wafer | assembled | provisioned | deployed | returned | scrapped
deriving DecidableEq, Repr

/-- The transitions of Table 15-4, in its order: bit numbers of the BEGIN and DONE marks. -/
inductive LcTrans where
  | assemble | provision | deploy | giveBack | scrap
deriving DecidableEq, Repr

/-- A device-secret fuse bank (R423): 256 secret bits, a 32-bit check, VALID and INVALID; whether any of its bits is burnt, and
whether all are. -/
structure Bank where
  secret : Key := 0
  check : Word := 0
  burnt : Bool := false
  valid : Bool := false
  invalid : Bool := false
  allOnes : Bool := false
deriving DecidableEq, Repr

/-- What Heartwood does once every resulting scrub has ended (R424, R426). -/
inductive AfterScrubs where
  | transition (t : LcTrans) (bankAOk bankBOk : Bool)
  | debug (scope : Byte)
deriving DecidableEq, Repr

/-- A tenancy message (Table 15-5); for SIG of PARTY_JOIN stand the bytes that it signs under PUBKEY. -/
inductive TenMsg where
  | tenantOpen (pt : Nat)
  | declareParty (party : Nat) (keyHash : Digest)
  | partyJoin (pt party : Nat) (pubKey signed : List Byte)
  | jobKey (key : Key)
  | ckptKey (key : Key)
  | regions (l : List RegionDef)
  | approve (digest : Digest)
  | leave
  | close
deriving DecidableEq, Repr

/-- Fuses, latches and keys (15; DESIGN CHOICE, log entry 9). -/
structure Heartwood where
  lcBegin : BitVec 5 := 0
  lcDone : BitVec 5 := 0
  scanFuse : Bool := false
  bankA : Bank := {}
  bankB : Bank := {}
  blockFuse : Bool := false
  certFuse : Option Digest := none
  tamperFuses : Nat := 0
  svnFuses : Nat := 0
  tamperLatch : Bool := false
  locked : Bool := false
  /-- The lock was asked for in the beat that runs and is taken at the boundary that ends it (R438). -/
  lockReq : Bool := false
  lockDigest : Digest := 0
  lockViol : Word := 0
  /-- The live conditions of SEC_BARK (Table 15-13). -/
  bark : BitVec 6 := 0
  debugOpen : Bool := false
  scope : Byte := 0
  /-- The root is the test root (R417). -/
  testRoot : Bool := true
  /-- Heartwood has booted: the keys of a Rooted stage exist. -/
  booted : Bool := false
  ik : Option Nat := none
  ak : Option Nat := none
  bk : Option Key := none
  ctxKey : Option Key := none
  fenceKey : Option Key := none
  /-- Measurement 2: the digest of the accepted bundle (R484). -/
  bundle : Digest := 0
  /-- The accepted bundle's security version and COMMIT_SVN (R485). -/
  bundleSvn : Nat := 0
  bundleCommit : Bool := false
  canopyDigest : Digest := 0
  /-- The 64-byte challenge outstanding and the uptime of its issue (R425). -/
  challenge : Option (List Byte) := none
  challengeAt : Nat := 0
  /-- Tenancy messages accepted in the beat that runs, each with its session, in order of arrival (R428). -/
  msgs : List (Nat × TenMsg) := []
  tokenFails : Nat := 0
  after : List AfterScrubs := []
  /-- J6 debug, trace and scan closed until the next module reset (Table 15-4). -/
  scanClosed : Bool := false
  halted : Bool := false
deriving DecidableEq, Repr

/-- SEC_PT_STATE.STATE (Table 15-14). -/
inductive TenSt where
  | none | opened | closing | scrubbing
deriving DecidableEq, Repr

/-- A party's declaration and approvals (R428, R433). -/
structure PartyRec where
  declared : Bool := false
  keyHash : Digest := 0
  session : Option Nat := none
  approved : List Digest := []
deriving DecidableEq, Repr

/-- A partition's tenancy (R428 to R443). -/
structure Tenancy where
  st : TenSt := .none
  parties : FMap PartyRec := []
  started : Bool := false
  regionsDefined : Bool := false
  scrubFailed : Bool := false
  /-- A boundary has found no step of the closing partition selected or running (R439). -/
  scrubDue : Bool := false
  /-- The uptime of the scrub's first beat (R440). -/
  scrubStart : Nat := 0
  hbmKey : Option Key := none
  jobKey : Option Key := none
  jobKeyNext : Option Key := none
  ckptKey : Option Key := none
  ckptKeyNext : Option Key := none
  /-- ρ base material: the job key from which every digest base derives (R331). -/
  rho : Option Key := none
deriving DecidableEq, Repr

/-! ## Images and steps (03, 13, 14) -/

/-- LDR_PT_STATUS slot states (Table 3-12). -/
inductive SlotSt where
  | empty | loading | accepted | refused
deriving DecidableEq, Repr

/-- An image slot: its state, the reason recorded at refusal, and the image's bytes (R85, R89). -/
structure Slot where
  st : SlotSt := .empty
  code : Half := 0
  image : List Byte := []
deriving DecidableEq, Repr

/-- A fault key of a step with its summary record (R350, R353, Table 13-4). -/
structure FKey where
  cause : Half
  loc : Bool
  cls : Nat
  point : Nat
  count : Nat
  suspect : DWord
  origin : DWord
  beatOff : Nat
  ac : Nat
  cluster : Nat
  stream : Nat
  hops : Nat
  word : Nat
  detail : Nat
deriving DecidableEq, Repr

/-- The life of a step (R14, R348). -/
inductive StepPh where
  | selected | running | committed | discarded | done
deriving DecidableEq, Repr

/-- What the running step has counted for one tensor: step maximum and census (R164, R167). -/
structure TensorNum where
  fmt : Nat := 0
  amax : Word := 0
  zeros : Nat := 0
  sats : Nat := 0
  nonfinite : Nat := 0
deriving DecidableEq, Repr

/-- What a chain has read of one element (R143, R144): its number, the exact source, its raw words, and its value before
stage 0 and after every stage. -/
structure ElemRead where
  i : Nat
  exact : Ext
  raw : List Word
  trace : List Word
deriving DecidableEq, Repr

/-- A word under way: where it runs, its absolute cluster, its index in its stream, the stream time of its start, its
descriptor or row mask, the count it took at its start (R113), and what it has read and not yet written: lines or rows of
bytes, pass rows with the outcome of their check (R126), chain elements, move records (R102, R111). -/
structure Flight where
  at_ : WordAt
  c : Nat
  idx : Nat
  t : Nat
  w : OpWord
  desc : List Byte := []
  cnt : Nat := 0
  /-- The place that a transfer found at its start: a device address, an occurrence, a landing buffer's bytes. -/
  place : Nat := 0
  bytes : List Byte := []
  lines : List (Nat × List Byte) := []
  rows : List (Nat × List Word × Option Bool) := []
  elems : List ElemRead := []
  recs : List (Nat × Nat × Word) := []
deriving DecidableEq, Repr

/-- A sum on its way from a grove vector engine: the cluster and the scratchpad byte it goes to, the stream time at which
its first line lands, and its bytes (R328). -/
structure Emit where
  c : Nat
  spa : Nat
  t : Nat
  bytes : List Byte
deriving DecidableEq, Repr

/-- A fetched step from its selection on (R354, R384, R385). -/
structure StepRun where
  ph : StepPh := .selected
  queue : Nat := 0
  seq : DWord := 0
  body : List Byte := []
  session : Word := 0
  ctx : Nat := 0
  slot : Bool := false
  seed : DWord := 0
  tier : Nat := 0
  /-- τ of the selection: the standby PLL's next target (R449, R450). -/
  tau : Nat := 0
  /-- The selection withheld the start until the standby PLL locks at τ (R449). -/
  waitLock : Bool := false
  /-- The beat at whose end the step was selected. -/
  selBeat : DWord := 0
  /-- The beat that ran when the hub named the start beat. -/
  namedBeat : DWord := 0
  /-- The step runs in the tier that its repeat recorded, which fits and is available (R355, R449). -/
  kept : Bool := false
  start : DWord := 0
  named : Bool := false
  started : Bool := false
  ctxSwitch : Bool := false
  scaleDone : Bool := false
  /-- REPEAT of the fault summary (Table 13-3). -/
  rep : Nat := 0
  /-- A fault was detected in the beat that is running (R348). -/
  faulted : Bool := false
  /-- The run-time current limiter has tripped: no further operation executes (R73, R455). -/
  tripped : Bool := false
  /-- A fault notice of this step waits to be taken in at order 1 (R348). -/
  noticed : Bool := false
  cause : Half := 0
  endBeat : DWord := 0
  flags : Byte := 0
  keys : List FKey := []
  /-- The census, summary and completion of a discarded step are written (R352). -/
  reported : Bool := false
  /-- The commit's conditions were met and APPLY and COPY run (R273). -/
  committedAt : DWord := 0
  /-- The session ended, or its function was reset: no completion is written (R368, R374). -/
  silent : Bool := false
  expShort : Bool := false
  /-- Bytes of export records written by the step. -/
  expOff : Nat := 0
  tensors : FMap TensorNum := []
  /-- The estimator histories from which the step's e_t and B_t follow, as they stood in its step gap (R165, R338). -/
  hist : FMap (List Word) := []
  /-- RED_PT_INIT_B as it stood in its step gap (R338). -/
  initB : Nat := 127
  /-- Array rows not checked (R129). -/
  unchecked : Nat := 0
  /-- Stash counters (Table 7-5). -/
  ovfBlocks : Nat := 0
  rawBlocks : Nat := 0
  fullBeat : Option Nat := none
  peakStored : Nat := 0
  /-- Routing counters (Table 8-6). -/
  routed : Nat := 0
  dropped : Nat := 0
  tokensDropped : Nat := 0
  nonfiniteTokens : Nat := 0
  fullExperts : Nat := 0
  crExcess : Nat := 0
  emptyBlocks : Nat := 0
  /-- The local lane accumulator: largest input magnitudes, sum magnitudes, flags (R336). -/
  cmax : FMap Word := []
  smax : FMap Word := []
  lflags : FMap Nat := []
  /-- A LOCAL lane chunk has received the accumulator (R336). -/
  laneGiven : Bool := false
  /-- The captured lane, and whether a second capture differed (R337). -/
  lane : Option (List Byte) := none
  laneDiffers : Bool := false
  /-- Most open keys of any grove vector engine in this step (RED_PT_GVE_OPEN). -/
  gveMax : Nat := 0
  /-- The clipping coefficient, once formed, and whether Q was NaN or infinite (R263, R265). -/
  coef : Option Word := none
  skip : Bool := false
  /-- The digest sum of the step's replica slices (R340). -/
  repSlice : Nat := 0
  /-- Rule 4 tensors whose slice this step's REFRESH has run: stack and state address (R270, R271). -/
  refreshed : List (Nat × Nat) := []
  /-- The step runs only the broadcast events of the committed step (R278). -/
  replay : Bool := false
  /-- The next ac of stream time, counted from the start beat, and what is under way in it (R104, R111). -/
  clock : Nat := 0
  flights : List Flight := []
  emits : List Emit := []
deriving DecidableEq, Repr

/-- A load at the loader (R87, R89). -/
structure LoadJob where
  queue : Nat
  slot : Bool
  code : Half := 0
  sec : Word := 0
  pos : Word := 0
  imageId : DWord := 0
  image : List Byte := []
  checked : Bool := false
deriving DecidableEq, Repr

/-- What expires at order 3 of the boundary that ends the beat that runs, if it is then still missing (Table 2-4): a
receive occurrence at its deadline (R58), a graft record (R313), the open keys at VERIFY_END (R328), the lane at NORM_BEAT
(R337). -/
inductive Expiry where
  | slot (slot occ : Nat) (lane : Option Nat) (someFrame : Bool)
  | graft (idx : Nat)
  | keys
  | lane
deriving DecidableEq, Repr

/-- A partition's loader, steps and recovery (Tables 3-10 to 3-13, R384, R385, R361). -/
structure Part where
  slotA : Slot := {}
  slotB : Slot := {}
  /-- LDR_PT_STATUS.ACTIVE. -/
  active : Bool := false
  rsnSlot : Bool := false
  rsnCode : Half := 0
  detSec : Word := 0
  detPos : Word := 0
  stGrid : DWord := 0
  grid : DWord := 0
  /-- A committed grid change waits for the end of the step (R97). -/
  gridWait : Bool := false
  /-- The step running, or the step that ended last (R350). -/
  cur : Option StepRun := none
  /-- The step selected and not yet started (R384). -/
  sel : Option StepRun := none
  load : Option LoadJob := none
  /-- The beat at whose end the last outcome was recorded, and whether it was DISCARDED (R385). -/
  outBeat : Option DWord := none
  outDisc : Bool := false
  horizon : Nat := 0
  recovery : Nat := 0
  recoveryDone : Bool := true
  /-- The context whose memories the clusters hold: that of the step started last, or of the selected step once its switch has
run; its handle, index and tag (R149, R385). -/
  lastCtx : Option Nat := none
  commits : DWord := 0
  estClear : Bool := false
  /-- Start beats of the steps that this partition has committed (R274). -/
  committedStarts : List DWord := []
  /-- SPLIT was learnt after the completion entry and goes into the next one (R274). -/
  splitNext : Bool := false
  /-- The image slot of the step committed last, and a replay of its broadcasts that is due (R278). -/
  commitSlot : Bool := false
  replayNext : Bool := false
  /-- The checkpoint engine has not finished an export (R281). -/
  exporting : Bool := false
  /-- What that export still reads: shards, by stack and master address, and halves of staging areas, by stack, master address
  and half (R280, R281). -/
  expShards : List (Nat × Nat) := []
  expHalves : List (Nat × Nat × Nat) := []
  /-- The step committed last skipped its updates (R265, R280). -/
  lastSkip : Bool := false
  /-- What is due at the end of the beat that runs. -/
  due : List Expiry := []
deriving DecidableEq, Repr

/-! ## Clusters (04, 05, 07, 08) -/

/-- A count register: its value and the bound ID attached to it (R114). -/
structure CountReg where
  val : Nat := 0
  bound : Option Nat := none
deriving DecidableEq, Repr

/-- A weight tile: its format code and, by column, the dense weights with their block scales; a column or a weight that
is not there is zero (R118, R120). Beside them stand what the load path computed when it wrote the tile: the checksum
columns wc and ac (R126) and the seal values of the 64 columns and of wc (R127); an entry that is not there is +0. -/
structure Tile where
  fmt : Nat := 0
  cols : List (List Ext) := []
  wc : List Ext := []
  ac : List Ext := []
  sealVals : List Word := []
deriving DecidableEq, Repr

/-- A stored stash block: its uncompressed lines, stored bytes, and whether they lie in the overflow region (R178,
R179). -/
structure StashBlk where
  lines : Nat
  bytes : List Byte
  spilt : Bool
deriving DecidableEq, Repr

/-- A stash record; `at_` is where its first stored byte lies in the compressed region, `written` says that its bytes
outside Crown have been written (R176, R180). -/
structure StashRec where
  tag : Nat
  n : Nat
  /-- The stream time at which its push started. -/
  born : Nat
  at_ : Nat
  blocks : List StashBlk
  pushEnd : DWord
  written : Bool := false
  /-- What a fetch has read into the staging area. -/
  staged : Option (List Byte) := none
deriving DecidableEq, Repr

/-- A stream: the stream time at which its last word started, its words so far, and whether END has run (R104). -/
structure StreamSt where
  t : Nat := 0
  words : Nat := 0
  ended : Bool := false
deriving DecidableEq, Repr

/-- What a logical cluster holds beside its scratchpad and accumulators (R99). -/
structure Cluster where
  fg : Tile := {}
  bg : Tile := {}
  /-- The source rows that the transposing buffer holds, element by element; an element that a mask left unread has no
  bytes (R124, R125, R173). -/
  tb : List (List (List Byte)) := []
  cr : FMap CountReg := []
  streams : FMap StreamSt := []
  /-- Newest record first (R175). -/
  stash : List StashRec := []
  /-- The seed from which the 256 lane generators run (R160). -/
  seed : DWord := 0
deriving DecidableEq, Repr

/-! ## Memory (09) -/

/-- Key-region states (Table 9-7). -/
inductive RegSt where
  | unused | init | active | rotating | flushing | exhausted
deriving DecidableEq, Repr

/-- A key region: MEM_OKR registers and its lines' default counters (R239, R248). -/
structure Region where
  st : RegSt := .unused
  base : Nat := 0
  pages : Nat := 0
  kid : Nat := 0
  prev : Nat := 0
  progress : Nat := 0
  party : Nat := 0
  /-- Counters of a page that no write has reached since the region's INIT or sweep. -/
  defMajor : Nat := 0
  defMinor : Nat := 0
  /-- The rotation found the region EXHAUSTED (R249). -/
  wasExhausted : Bool := false
  /-- The sweep of a rotation is under way: a line not listed stands under the previous key ID (R248, R249). -/
  sweeping : Bool := false
  /-- A rotation was requested and takes effect at the next step boundary (R249). -/
  rotate : Bool := false
deriving DecidableEq, Repr

/-- A re-encryption tracker: the lines already under the next major counter (R239). -/
structure Tracker where
  marked : List Nat
deriving DecidableEq, Repr

/-- An outer-memory page's counters (R236, R239). -/
structure OmPage where
  major : Nat
  defMinor : Nat
  minors : FMap Nat
  /-- Lines whose KID0 differs from the page's region default. -/
  kids : FMap Nat
  tracker : Option Tracker
deriving DecidableEq, Repr

/-- A write-combining entry (R245): the device line, its byte mask and bytes. -/
structure WcEntry where
  pt : Nat
  host : Bool
  line : Nat
  data : FMap Byte
  first : DWord
  /-- The write waits for a re-encryption tracker (R240). -/
  waits : Bool
deriving DecidableEq, Repr

/-- A Crown window that is open or being filled (R229). -/
structure Window where
  pt : Nat
  grove : Nat
  entry : CrownEntry
  /-- The fill's data is in Crown. -/
  filled : Bool
deriving DecidableEq, Repr

/-- A DMA copy read and not yet written (R234). -/
structure DmaPend where
  pt : Nat
  entry : DmaEntry
  data : List (List Byte)
  /-- A source line lay in a region in INIT and had not been returned (Table 9-7). -/
  late : Bool := false
deriving DecidableEq, Repr

/-- A DRAM row's corrections (R223): the beats of the newest ones. -/
structure RowCe where
  beats : List DWord
deriving DecidableEq, Repr

/-- A shard reported lost: its partition, absolute stack and tensor, whether replica drift lost it, and the stack byte
ranges that the host has still to write whole (R217, R342). -/
structure LostShard where
  pt : Nat
  stack : Nat
  tensor : Nat
  drift : Bool
  todo : List (Nat × Nat)
deriving DecidableEq, Repr

/-- The MEM block, the stacks' repair state and the outer-memory crypto (DESIGN CHOICE, log entry 10). -/
structure MemBlk where
  halted : Bool := false
  haltCause : Nat := 0
  haltBus : Nat := 0
  haltAddr : Nat := 0
  ceThresh : Half := 0x0010
  ce : FMap Word := []
  ue : FMap Word := []
  /-- Poisoned bursts: stack × 2^30 + burst number. -/
  poison : FMap Bool := []
  rowCe : FMap RowCe := []
  /-- Rows marked for repair (R223). -/
  marked : List Nat := []
  /-- Rows repaired, and those of them whose repair has been made hard in a Leafed stage (R224). -/
  repaired : List Nat := []
  hard : List Nat := []
  /-- Retired device pages (R225): stack, PC, page in the PC, spare index. -/
  retired : List (Nat × Nat × Nat × Nat) := []
  /-- Beats since the last refresh of each of a stack's 32 PCs, by stack; none listed reads as all 0 (R222). -/
  refresh : FMap (List Nat) := []
  windows : List Window := []
  dma : List DmaPend := []
  wc : List WcEntry := []
  om : List (Nat × OmPage) := []
  regions : FMap Region := []
  /-- 768-bit keys by key ID (Table 15-2). -/
  kids : FMap (BitVec 768) := []
  /-- MAC checks not yet complete: bus, raw line, HALT_CAUSE of a failure (R242, R244). -/
  checks : List (Nat × Nat × Nat) := []
  /-- Pages of the watch list (R240). -/
  watch : List Nat := []
  /-- Shards reported lost (R217, R342). -/
  lost : List LostShard := []
  /-- Working-copy lines to regenerate in the step gap: partition, stack, tensor, line (R217). -/
  regen : List (Nat × Nat × Nat × Nat) := []
deriving DecidableEq, Repr

/-- The egress gates and the release buffers behind them (R29, R243). -/
structure Gates where
  closed : Bool := false
  bough : List Out := []
  pcie : List Out := []
  ckpt : List Out := []
deriving DecidableEq, Repr

/-! ## Ports (11) -/

/-- Table 11-3. -/
inductive PortSt where
  | reset | training | auth | up | swap | failed
deriving DecidableEq, Repr

/-- A Bough port (PRESUMED, log entry 11). -/
structure Port where
  stMode : Nat := 0
  mode : Nat := 0
  st : PortSt := .reset
  partner : DWord := 0
  partnerPort : Nat := 0
  /-- A scrub has set the partner's registers to their reset values; the link still knows its partner (Table 19-10). -/
  hidden : Bool := false
  level1 : Bool := false
  failedLanes : List Nat := []
  /-- Receive positions served by lanes 16 and 17. -/
  pos16 : Option Nat := none
  pos17 : Option Nat := none
  /-- The same of the transmit direction. -/
  txPos16 : Option Nat := none
  txPos17 : Option Nat := none
  fecCe : Word := 0
  fecUe : Word := 0
  tagFail : Word := 0
  slotMiss : Word := 0
  graftDrop : Word := 0
  txBeat : DWord := 0
  rxBeat : Option DWord := none
  /-- Consecutive beats without a valid block, by physical lane (R288). -/
  missing : FMap Nat := []
  /-- Symbols corrected within the last 1,000 beats, by physical lane: the beats and their counts (R288). -/
  corrected : FMap (List (DWord × Nat)) := []
  /-- The lanes with a declared fault since training, and the beat of each (R288, R290). -/
  failedAt : FMap DWord := []
  /-- The swap that this receiver requests, and the one the partner's receiver requests of our transmitter. -/
  rxSwap : Option SwapReq := none
  txSwap : Option SwapReq := none
  /-- The partner's request that our transmitter applied last (ACK, Table 11-2). -/
  txAck : Option SwapReq := none
  /-- The port entered AUTH in the beat that runs: LINK_BEAT is 0 in the next one (R287). -/
  fresh : Bool := false
  /-- The partner's request as read last, for the two consecutive readings of R289. -/
  txSeen : Option (Nat × Nat × DWord) := none
  /-- The next SEQ and the bytes of the exchange of R292, received and sent. -/
  authSeq : Nat := 0
  authBytes : List Byte := []
  authTx : Nat := 0
  authSent : List Byte := []
  /-- The private key of the ephemeral pair of this exchange (R292). -/
  eph : Nat := 0
  /-- The partner's chain verified: our signature is sent, with our activation link beat (R292). -/
  actTx : Option DWord := none
  /-- The partner's activation link beat. -/
  actRx : DWord := 0
  /-- The partner's chain and signature verified; the keys wait for their activation beat (R292). -/
  authed : Bool := false
  keyTx : Option Key := none
  keyRx : Option Key := none
  /-- Level 1 keys that wait for the switch beat (R294). -/
  nextTx : Option Key := none
  nextRx : Option Key := none
  secret : Option Secret := none
  transcript : Digest := 0
  /-- Job confirm sent: zero key, switch beat. -/
  mine : Option (Bool × DWord) := none
  /-- Job confirm received: zero key, switch beat, CONFIRM. -/
  theirs : Option (Bool × DWord × List Byte) := none
  switchAt : Option (DWord × Bool) := none
  tagBeats : List DWord := []
  /-- Beats since the last authenticated control slot, and its frames authenticated in this beat (R305). -/
  noCtl : Nat := 0
  ctlOk : Nat := 0
  retryAt : Option DWord := none
  /-- Control records waiting for a control slot (R306). -/
  waiting : List (List Byte) := []
  /-- How many of them were waiting when the current beat began: the others go out in the next beat (R306). -/
  ready : Nat := 0
deriving DecidableEq, Repr

/-- A slot occurrence's buffer in a port: its payload, and for a receive occurrence whether it has arrived or missed and
whether an LKTX preloaded it (R299 to R302, R327). -/
structure SlotBuf where
  slot : Nat
  occ : Nat
  data : List Byte
  /-- A receive occurrence has arrived; a transmit occurrence has been sent. -/
  arrived : Bool := false
  missed : Bool := false
  preloaded : Bool := false
  /-- The absolute cluster whose LKTX preloaded it. -/
  src : Nat := 0
deriving DecidableEq, Repr

/-- What has arrived for a graft ingress region: the step number, the elements as decoded, and the barrier (R310,
R311, R313). -/
structure GraftIn where
  step : DWord
  elems : List Ext := []
  barrier : Bool := false
deriving DecidableEq, Repr

/-- A graft egress region that a step feeds (R314): its absolute port, record index and partition address, the byte ranges
fed so far, and whether its contents are being sent to the partner. -/
structure GraftOut where
  port : Nat
  idx : Nat
  addr : Nat
  fed : List (Nat × Nat) := []
  sending : Bool := false
deriving DecidableEq, Repr

/-- A partition's transmit and landing buffers and its graft regions (11). -/
structure PtBufs where
  tx : List SlotBuf := []
  rx : List SlotBuf := []
  /-- By graft record × 2 + region. -/
  graftIn : FMap (Option GraftIn) := []
  /-- Graft egress regions that are being fed or sent (R314). -/
  graftOut : List GraftOut := []
deriving DecidableEq, Repr

/-- A key of a grove vector engine: its partial sum, the chunks added and those it takes, the absolute cluster of its first
chunk, and the last ac of the GVSEND that was added last (R328). -/
structure GveKey where
  id : Nat
  chunk : List Byte
  got : Nat
  inputs : Nat
  src : Nat := 0
  last : Nat := 0
deriving DecidableEq, Repr

/-- The registers that the ports share (Table 11-12). -/
structure Bough where
  ports : FMap Port := []
  laneThresh : Half := 0x0400
  tagLimit : Byte := 0x08
deriving DecidableEq, Repr

/-! ## Fault records (13) -/

/-- FLT_SUSPECT state (Table 13-11). -/
inductive SuspSt where
  | empty | pending | transient | permanent | unresolved
deriving DecidableEq, Repr

/-- A suspect table entry (R354). -/
structure Suspect where
  st : SuspSt := .empty
  suspect : DWord := 0
  pt : Nat := 0
  cause : Half := 0
  slot : Bool := false
  imageId : DWord := 0
  seed : DWord := 0
  tier : Nat := 0
  beatOff : Nat := 0
  ac : Option Nat := none
  /-- The remedy of a PERMANENT entry has completed (R360). -/
  remedied : Bool := false
  age : Nat := 0
deriving DecidableEq, Repr

/-- A grove's remap table, spares and failures (R24, R25, R361, R362; DESIGN CHOICE, log entry 14). -/
structure GroveMap where
  /-- Remap entries that differ from the identity. -/
  remap : FMap Nat := []
  retired : List Nat := []
  unbacked : List Nat := []
  spares : List Nat := [100, 101, 102, 103]
  gveFailed : Bool := false
deriving DecidableEq, Repr

/-- The FLT block (Tables 13-7 to 13-11). -/
structure Flt where
  accAddr : Word := 0
  accValid : Bool := false
  accCount : Nat := 0
  accWidth : Nat := 0
  accWrite : Bool := false
  accGated : Bool := false
  late : Word := 0
  recurLimit : Byte := 3
  suspects : FMap Suspect := []
  /-- Beats of the entries made for each suspect (R358), newest first. -/
  entries : List (DWord × DWord) := []
  groves : FMap GroveMap := []
  pithFailed : List Nat := []
  ageCtr : Nat := 1
deriving DecidableEq, Repr

/-! ## Reduction and number registers (06, 12) -/

/-- A replica group: INDEX, G − 1, K − 1 (Table 12-7). -/
structure Replica where
  index : Nat := 0
  gm1 : Nat := 0
  km1 : Nat := 0
deriving DecidableEq, Repr

/-- A tensor's thinning: PHASE and N − 1 (Table 12-8). -/
structure Thin where
  phase : Nat := 0
  nm1 : Nat := 0
deriving DecidableEq, Repr

/-- The RED_PT registers of a partition: staged values, values in force, and committed changes that wait for a commit
counter that is a multiple of 64 (R343). -/
structure RedPt where
  stInit : Byte := 0x7F
  init : Byte := 0x7F
  stRep : Replica := {}
  rep : Replica := {}
  nextRep : Option Replica := none
  stThin : FMap Thin := []
  thin : FMap Thin := []
  nextThin : Option (FMap Thin) := none
  gveOpen : Nat := 0
  /-- The replica table: cycle end counter and digest of each valid entry (R341). -/
  repTable : FMap (Option (DWord × DWord)) := []
  /-- The digest sum of the running cycle, and the end counter of the last one (R340). -/
  repSum : Nat := 0
  repEnd : DWord := 0
deriving DecidableEq, Repr

/-- The NUM_PT registers of a partition (Tables 6-6, 6-7). -/
structure NumPt where
  stWindow : Nat := 16
  window : Nat := 16
  nextWindow : Option Nat := none
  satTensors : Nat := 0
deriving DecidableEq, Repr

/-! ## Canopy (17) -/

/-- A log block in module flash (Table 17-2). -/
structure LogBlock where
  seq : Nat
  firstSeq : Nat
  /-- The uptime of its first entry (R475). -/
  firstUp : Nat := 0
  entries : List (List Byte) := []
  closed : Bool := false
  /-- Left open by a power loss or a core reset (R476). -/
  stale : Bool := false
  unsignedTail : Bool := false
  romMode : Bool := false
  prev : List Byte := []
  sig : List Byte := []
deriving DecidableEq, Repr

/-- Canopy's registers, log, transports and firmware slot (DESIGN CHOICE, log entry 15). -/
structure Canopy where
  resets : Nat := 0
  anchor : Option (List Byte) := none
  recovery : Bool := false
  romMode : Bool := false
  up : Bool := false
  coreDown : Bool := false
  logLost : Word := 0
  /-- Entries programmed since the log was first written: the SEQ of the next one. -/
  logSeq : DWord := 0
  logHi : Word := 0
  fifo : List LogEnt := []
  blocks : List LogBlock := []
  /-- The uptime at which the interval of R477 began. -/
  intervalStart : Nat := 0
  intervalCount : Nat := 0
  intervalDropped : Nat := 0
  tlsOpen : Nat := 0
  mgmtKey : Option Key := none
  mgmtCert : List Byte := []
  /-- The bundle slot of module flash, to its last byte that is not erased (Table 17-5). -/
  slot : List Byte := Config.factoryBundle
  /-- No erase of the slot is without a successful verification after it (R486). -/
  slotOk : Bool := true
  /-- The identity certificate in module flash (R436). -/
  idCert : Option IdCert := none
deriving DecidableEq, Repr

/-- The event registers, one word each (Tables 2-10, 16-11, 16-16, 14-16, 9, 11, 12, 13-9, 15-11, 17-10). -/
structure Events where
  cmb : Word := 0
  sap : Word := 0
  cfg : Word := 0
  hif : Word := 0
  mem : Word := 0
  flt : Word := 0
  sec : Word := 0
  cnp : Word := 0
  bgh : FMap Word := []
  red : FMap Word := []
deriving DecidableEq, Repr

/-- The whole state of the module. -/
structure State where
  /-- Commands that wait, first in, first out. -/
  pending : List Instr := []
  outbox : List Out := []
  freeCtr : Nat := 0
  trngCtr : Nat := 0
  variant : Variant := .a816
  /-- LDR_IDLE_GROVE and LDR_IDLE_MODULE in 1/16 W, measured per unit (Table 3-10; DESIGN CHOICE, log entry 7). -/
  idleGrove : Nat := 0
  idleModule : Nat := 0
  shortId : DWord := 0
  ikPub : List Byte := []
  pwr : Power := {}
  cmb : Cambium := {}
  sap : Sapflow := {}
  cfg : CfgBlk := {}
  evt : Events := {}
  hif : Hif := {}
  sessions : FMap Session := []
  hw : Heartwood := {}
  ten : FMap Tenancy := []
  parts : FMap Part := []
  flt : Flt := {}
  cnp : Canopy := {}
  /-- Every memory of the device, by the device addresses of Machine/Mem.lean. -/
  mem : List Host.Cell := []
  /-- Logical clusters whose scratchpad and accumulators a clock-domain reset left undefined: the draw that names the
  free bytes an unlisted address reads as (R454; DESIGN CHOICE, log entry 2). -/
  havoc : FMap Nat := []
  /-- By absolute logical cluster. -/
  clusters : FMap Cluster := []
  mb : MemBlk := {}
  gates : Gates := {}
  bgh : Bough := {}
  bufs : FMap PtBufs := []
  /-- Open keys by absolute grove (R328). -/
  gve : FMap (List GveKey) := []
  red : FMap RedPt := []
  /-- RED_ACTIVE_SEL (Table 19-8). -/
  redSel : Nat := 0
  num : FMap NumPt := []
deriving DecidableEq, Repr

/-- Why the machine stops. -/
inductive Fault where
  /-- Raised by a meaning whose operands name no hardware or no value that the architecture has (a port 9, a queue 50):
  no party can send such a command. Safe: the device does not go on from it either. -/
  | badOperand
deriving DecidableEq, Repr

/-- Why the model does not run a command. -/
inductive Refusal where
  /-- Raised by exec for a command whose meaning is not written; safe, since nothing is claimed of it. -/
  | notModelled (mnemonic : String)
deriving DecidableEq, Repr

/-- The module right after reset, in Seedling (Table 16-9); log entry 5 names the moment. -/
def State.reset : State := {}

end Sys2Proof.Machine
end

