-- ==== Sys2Proof/WellFormed.lean ====
section
/-!
DEFINITION. Which commands a party can send at all: their operands name hardware and values that the architecture has.
The variant's port and stack counts are arguments (Table 0-1). A command that is not well formed faults (badOperand).
-/

namespace Sys2Proof

/-- A place of a stream word: one of four partitions, of 800 relative clusters (R78, R161). -/
def WordAt.wf (a : WordAt) : Bool := decide (a.pt < 4) && decide (a.cl < 800)

/-- An offset within BAR0, BAR2 or BAR4 (Table 14-1). -/
def barOk (bar off : Nat) : Bool :=
  (bar == 0 && decide (off < 0x2000000)) || (bar == 2 && decide (off < 0x40000)) ||
    (bar == 4 && decide (off < 0x10000))

/-- The command's operands lie within the architecture, for np ports and ns stacks. -/
def Instr.wf (np ns : Nat) (i : Instr) : Bool :=
  match i with
  | .registerWrite bar _ off _ => barOk bar off
  | .beatBoundary => true
  | .trefLost => true
  | .pllLockLost => true
  | .holdoverEnd => true
  | .trefStable => true
  | .pllLockDone => true
  | .beatInFrame widths => decide (widths.length = 128)
  | .beatInLost => true
  | .beatMarker port _ _ _ => decide (port < np)
  | .markerLost => true
  | .flywheelLimit => true
  | .delayRequest port _ _ _ => decide (port < np)
  | .delayReply port _ _ _ => decide (port < np)
  | .rootStart => true
  | .slotDeadlineExpiry pt _ _ _ _ => decide (pt < 4)
  | .nop a _ => a.wf
  | .endWord a _ => a.wf
  | .wld a _ => a.wf
  | .wldt a _ => a.wf
  | .mm a _ => a.wf
  | .mmt a _ _ => a.wf
  | .vchain a _ _ => a.wf
  | .vroute a _ _ => a.wf
  | .gather a _ _ => a.wf
  | .combine a _ _ => a.wf
  | .scaleGather a _ _ => a.wf
  | .countLoad a _ _ => a.wf
  | .ldc a _ => a.wf
  | .stc a _ => a.wf
  | .send a _ => a.wf
  | .gvsend a _ => a.wf
  | .gveEmit pt grove _ => decide (pt < 4) && decide (grove < 8)
  | .gveKeyExpiry pt => decide (pt < 4)
  | .lktx a _ => a.wf
  | .lkrx a _ => a.wf
  | .stpush a _ => a.wf
  | .stpop a _ => a.wf
  | .stashWriteback pt cl => decide (pt < 4) && decide (cl < 800)
  | .stashFetch pt cl _ => decide (pt < 4) && decide (cl < 800)
  | .crownFill pt grove _ _ _ => decide (pt < 4) && decide (grove < 8)
  | .crownWriteback pt grove _ => decide (pt < 4) && decide (grove < 8)
  | .dmaCopy pt _ _ => decide (pt < 4)
  | .dmaCopyWrite pt _ _ => decide (pt < 4)
  | .wcEntryTimeout bus _ _ => decide (bus < 8)
  | .trackerDone _ => true
  | .macCheckComplete bus _ _ => decide (bus < 8)
  | .releaseWindowExpiry _ => true
  | .refreshWatchdog stack pc => decide (stack < ns) && decide (pc < 32)
  | .regionInitDone r => decide (r < 64)
  | .rotationStart r => decide (r < 64)
  | .sweepDone r => decide (r < 64)
  | .flushDone r => decide (r < 64)
  | .pithVerify pt stack _ _ => decide (pt < 4) && decide (stack < ns)
  | .pithNorm pt => decide (pt < 4)
  | .pithPrep pt stack _ _ => decide (pt < 4) && decide (stack < ns)
  | .pithApply pt stack _ _ _ _ => decide (pt < 4) && decide (stack < ns)
  | .pithCopy pt stack _ _ _ => decide (pt < 4) && decide (stack < ns)
  | .pithRefresh pt stack _ _ => decide (pt < 4) && decide (stack < ns)
  | .phaseIncomplete pt unit _ _ => decide (pt < 4) && decide (unit < 2 * ns)
  | .workingCopyRegen pt stack _ _ _ => decide (pt < 4) && decide (stack < ns)
  | .stepCommit pt => decide (pt < 4)
  | .parameterBroadcast pt _ _ stack _ _ _ => decide (pt < 4) && decide (stack < ns)
  | .checkpointExport pt stack _ => decide (pt < 4) && decide (stack < ns)
  | .beatTimer pt timer _ => decide (pt < 4) && decide (timer < 16)
  | .broadcastReplay pt => decide (pt < 4)
  | .alignmentBlock port lane _ => decide (port < np) && decide (lane < 18)
  | .laneSwap port _ => decide (port < np)
  | .laneSwapTimeout port => decide (port < np)
  | .trainingDone port _ _ => decide (port < np)
  | .retrain port => decide (port < np)
  | .authentication port _ _ => decide (port < np)
  | .keyActivation port _ _ _ _ => decide (port < np)
  | .authTimeout port => decide (port < np)
  | .authRetry port => decide (port < np)
  | .frameReceive port _ _ _ => decide (port < np)
  | .jobConfirm port _ _ => decide (port < np)
  | .linkLevelSwitch port => decide (port < np)
  | .slotTransmit pt _ _ _ => decide (pt < 4)
  | .slotReceive pt _ _ _ => decide (pt < 4)
  | .replicaDigest pt _ => decide (pt < 4)
  | .graftIngress pt port _ _ _ => decide (pt < 4) && decide (port < np)
  | .graftDeadline pt _ => decide (pt < 4)
  | .laneCheck pt => decide (pt < 4)
  | .redSettingApply pt => decide (pt < 4)
  | .stepDiscard pt _ => decide (pt < 4)
  | .faultNotice port _ => decide (port < np)
  | .discardReport pt => decide (pt < 4)
  | .recoveryInterval pt _ _ => decide (pt < 4)
  | .functionLevelReset => true
  | .getVersion => true
  | .getCapabilities => true
  | .negotiateAlgorithms => true
  | .getDigests => true
  | .getCertificate _ _ _ => true
  | .challenge _ => true
  | .getMeasurements _ _ => true
  | .keyExchange session => decide (session < 2 ^ 32)
  | .finish session _ _ _ => decide (session < 2 ^ 32)
  | .heartbeat session => decide (session < 2 ^ 32)
  | .keyUpdate session => decide (session < 2 ^ 32)
  | .endSession session => decide (session < 2 ^ 32)
  | .unsupportedRequest _ => true
  | .sqTailWrite q _ _ => decide (q < 48)
  | .cqHeadWrite q _ _ => decide (q < 48)
  | .entryFetch q _ _ => decide (q < 48)
  | .nopCommand q => decide (q < 48)
  | .step q => decide (q < 48)
  | .load q => decide (q < 48)
  | .loadProcess q _ => decide (q < 48)
  | .loadComplete => true
  | .copyToDevice q _ => decide (q < 48)
  | .copyToHost q _ => decide (q < 48)
  | .wait q => decide (q < 48)
  | .waitTimeout q => decide (q < 48)
  | .fenceOpSignal q => decide (q < 48)
  | .fenceOpArm q => decide (q < 48)
  | .query q => decide (q < 48)
  | .ctxCreate q => decide (q < 48)
  | .bind q => decide (q < 48)
  | .ctxDestroy q => decide (q < 48)
  | .objMap q => decide (q < 48)
  | .objFree q => decide (q < 48)
  | .objFreeRelease q => decide (q < 48)
  | .fenceCreate q => decide (q < 48)
  | .fenceFree q => decide (q < 48)
  | .keyRotate q => decide (q < 48)
  | .contextLoad ctx _ => decide (ctx < 4096)
  | .completionWrite q => decide (q < 48)
  | .noticeWrite q => decide (q < 48)
  | .queueEnable q => decide (q < 48)
  | .queueDisable q => decide (q < 48)
  | .queueReset q => decide (q < 48)
  | .queueConfigWrite q reg _ => decide (q < 48) && decide (reg < 24) && reg % 4 == 0
  | .stepSelect pt _ => decide (pt < 4)
  | .contextSwitch pt _ => decide (pt < 4)
  | .scalePageWrite pt => decide (pt < 4)
  | .tierSwitch pt => decide (pt < 4)
  | .stepStart pt => decide (pt < 4)
  | .stepCompletion pt => decide (pt < 4)
  | .slotGridRefuse pt => decide (pt < 4)
  | .estClear pt => decide (pt < 4)
  | .tamper _ _ => true
  | .tamperLatch => true
  | .waferToAssembled => true
  | .assembledToProvisioned _ _ _ _ => true
  | .provisionedToDeployed _ _ _ _ => true
  | .deployedToReturned => true
  | .scrap _ => true
  | .debugChallenge => true
  | .challengeExpiry => true
  | .debugToken _ _ => true
  | .tenantOpen session pt => decide (session < 2 ^ 32) && decide (pt < 256)
  | .declareParty session party _ => decide (session < 2 ^ 32) && decide (party < 256)
  | .partyJoin session pt party key _ =>
    decide (session < 2 ^ 32) && decide (pt < 256) && decide (party < 256) && key.length == 133
  | .setJobKey session _ => decide (session < 2 ^ 32)
  | .setCkptKey session _ => decide (session < 2 ^ 32)
  | .defineRegions session _ => decide (session < 2 ^ 32)
  | .approveImage session _ => decide (session < 2 ^ 32)
  | .partyLeave session => decide (session < 2 ^ 32)
  | .tenantClose session => decide (session < 2 ^ 32)
  | .scrubStart pt => decide (pt < 4)
  | .scrubEnd pt _ => decide (pt < 4)
  | .attestationLock => true
  | .standbyPllLock pt => decide (pt < 4)
  | .muxHang pt => decide (pt < 4)
  | .clockStop pt => decide (pt < 4)
  | .clockDomainRelock pt => decide (pt < 4)
  | .currentLimitTrip pt grove _ => decide (pt < 4) && decide (grove < 8)
  | .thermalStop grove => decide (grove < 8)
  | .thermalStopEnd grove => decide (grove < 8)
  | .thermalShutdown => true
  | .sensorRead _ _ => true
  | .fmcStart => true
  | .fmcDone _ => true
  | .configArm _ => true
  | .configAbort => true
  | .configCommitApply => true
  | .powerEnable => true
  | .powerDisable => true
  | .supplyFault _ => true
  | .moduleReset => true
  | .perstDeassert => true
  | .seedlingStage => true
  | .rootedStage _ _ => true
  | .leafedStage _ => true
  | .fullStage => true
  | .stageTimeout reason => decide (1 ≤ reason) && decide (reason ≤ 6)
  | .canopyWatchdogExpiry => true
  | .canopySramError => true
  | .canopyCoreRestart _ => true
  | .logEntry => true
  | .logBlockClose => true
  | .tlsConnect _ _ => true
  | .pldmSensorRead _ => true
  | .getStatus => true
  | .readLog _ => true
  | .setCap _ => true
  | .resetModule => true
  | .setAnchor _ _ _ => true
  | .getCerts => true
  | .firmwareUpdate _ => true
  | .recoveryBegin _ => true
  | .recoveryChunk _ => true
  | .recoveryFinish _ => true
  | .beatInEdge _ => true
  | .symbolLockLost port lane => decide (port < np) && decide (lane < 18)
  | .registerRead bar _ off => barOk bar off
  | .supplyApplied => true
  | .checkpointExportDone pt => decide (pt < 4)
  | .graftEgressDone port _ => decide (port < np)
  | .traceEnable => true

end Sys2Proof
end

