-- ==== Sys2Proof/Machine/Ops.lean ====
section
/-!
DEFINITION. The named operations over the state that every family uses: unit counts and partition layout (00, 01),
getters and setters of the numbered records, event bits with their interrupts and log entries, what leaves the device,
and the time base as the other blocks read it.
-/

namespace Sys2Proof.Machine

/-! ## Units and layout (Table 0-1, Table 1-4, R16, R17, R30 to R34) -/

/-- Bough ports of the variant. -/
def Variant.ports : Variant → Nat
  | .a816 => 6
  | .a812 => 8

/-- HBM stacks of the variant. -/
def Variant.stacks : Variant → Nat
  | .a816 => 16
  | .a812 => 12

/-- The outcome of a command: its effect where it is well formed, the fault badOperand otherwise. -/
def checked (i : Instr) (s t : State) : Host.Outcome State Fault Refusal :=
  if i.wf s.variant.ports s.variant.stacks then .next t else .fault .badOperand

/-- ID_PART.PART (R5). -/
def Variant.part : Variant → Nat
  | .a816 => 0xA816
  | .a812 => 0xA812

/-- Groves of each partition in a row of Table 1-4. -/
def layoutRow : Nat → List Nat
  | 1 => [8]
  | 2 => [4, 4]
  | 3 => [6, 2]
  | 4 => [2, 6]
  | 5 => [4, 2, 2]
  | 6 => [2, 4, 2]
  | 7 => [2, 2, 4]
  | 8 => [2, 2, 2, 2]
  | _ => []

/-- Groves of partition p, 0 where the layout has no such partition. -/
def ptSize (s : State) (p : Nat) : Nat := (layoutRow s.cfg.layout).getD p 0

/-- The lowest grove of partition p. -/
def ptFirst (s : State) (p : Nat) : Nat := ((layoutRow s.cfg.layout).take p).sum

/-- The absolute groves of partition p, in ascending order (R78). -/
def ptGroves (s : State) (p : Nat) : List Nat := (List.range (ptSize s p)).map (ptFirst s p + ·)

/-- Ports that n groves receive (R32). -/
def portsFor (v : Variant) (n : Nat) : Nat :=
  match v with
  | .a816 => 6 * n / 8
  | .a812 => n

/-- The absolute ports of partition p in the order of R32. -/
def ptPorts (s : State) (p : Nat) : List Nat :=
  let before := (((layoutRow s.cfg.layout).take p).map (portsFor s.variant)).sum
  (List.range (portsFor s.variant (ptSize s p))).map (before + ·)

/-- The stacks that grove g owns (R16). -/
def groveStacks (v : Variant) (g : Nat) : List Nat :=
  match v with
  | .a816 => [2 * g, 2 * g + 1]
  | .a812 => [3 * (g / 2), 3 * (g / 2) + 1, 3 * (g / 2) + 2]

/-- The absolute stacks of partition p, in ascending order (R31, R78). -/
def ptStacks (s : State) (p : Nat) : List Nat :=
  match s.variant with
  | .a816 => (List.range (2 * ptSize s p)).map (2 * ptFirst s p + ·)
  | .a812 => (List.range (3 * ptSize s p / 2)).map (3 * (ptFirst s p / 2) + ·)

/-- The partitions of the layout. -/
def ptList (s : State) : List Nat := List.range (layoutRow s.cfg.layout).length

/-- The partition that holds grove g. -/
def ptOfGrove (s : State) (g : Nat) : Option Nat := (ptList s).find? fun p => (ptGroves s p).contains g

/-- The partition that owns port n; none for an unassigned port (R33). -/
def ptOfPort (s : State) (n : Nat) : Option Nat := (ptList s).find? fun p => (ptPorts s p).contains n

/-- The partition that owns stack h. -/
def ptOfStack (s : State) (h : Nat) : Option Nat := (ptList s).find? fun p => (ptStacks s p).contains h

/-- The absolute logical cluster of relative cluster c of partition p: grove × 100 + index (R78). -/
def absCluster (s : State) (p c : Nat) : Nat := 100 * ptFirst s p + c

/-! ## Numbered records -/

def State.part (s : State) (p : Nat) : Part := mget {} s.parts p
def State.setPart (s : State) (p : Nat) (x : Part) : State := { s with parts := mput {} s.parts p x }
def State.updPart (s : State) (p : Nat) (f : Part → Part) : State := s.setPart p (f (s.part p))
def State.tenancy (s : State) (p : Nat) : Tenancy := mget {} s.ten p
def State.setTen (s : State) (p : Nat) (x : Tenancy) : State := { s with ten := mput {} s.ten p x }
def State.updTen (s : State) (p : Nat) (f : Tenancy → Tenancy) : State := s.setTen p (f (s.tenancy p))
def State.queue (s : State) (q : Nat) : Queue := mget {} s.hif.queues q
def State.setQueue (s : State) (q : Nat) (x : Queue) : State :=
  { s with hif := { s.hif with queues := mput {} s.hif.queues q x } }
def State.updQueue (s : State) (q : Nat) (f : Queue → Queue) : State := s.setQueue q (f (s.queue q))
def State.ctx (s : State) (c : Nat) : Ctx := mget {} s.hif.ctxs c
def State.setCtx (s : State) (c : Nat) (x : Ctx) : State :=
  { s with hif := { s.hif with ctxs := mput {} s.hif.ctxs c x } }
def State.updCtx (s : State) (c : Nat) (f : Ctx → Ctx) : State := s.setCtx c (f (s.ctx c))
def State.fence (s : State) (i : Nat) : Fence := mget {} s.hif.fences i
def State.setFence (s : State) (i : Nat) (x : Fence) : State :=
  { s with hif := { s.hif with fences := mput {} s.hif.fences i x } }
def State.session (s : State) (i : Nat) : Session := mget {} s.sessions i
def State.setSession (s : State) (i : Nat) (x : Session) : State :=
  { s with sessions := mput {} s.sessions i x }
def State.port (s : State) (n : Nat) : Port := mget {} s.bgh.ports n
def State.setPort (s : State) (n : Nat) (x : Port) : State :=
  { s with bgh := { s.bgh with ports := mput {} s.bgh.ports n x } }
def State.updPort (s : State) (n : Nat) (f : Port → Port) : State := s.setPort n (f (s.port n))
def State.clock (s : State) (p : Nat) : PtClock := mget {} s.sap.pt p
def State.setClock (s : State) (p : Nat) (x : PtClock) : State :=
  { s with sap := { s.sap with pt := mput {} s.sap.pt p x } }
def State.cluster (s : State) (c : Nat) : Cluster := mget {} s.clusters c
def State.setCluster (s : State) (c : Nat) (x : Cluster) : State := { s with clusters := mput {} s.clusters c x }
def State.grove (s : State) (g : Nat) : GroveMap := mget {} s.flt.groves g
def State.setGrove (s : State) (g : Nat) (x : GroveMap) : State :=
  { s with flt := { s.flt with groves := mput {} s.flt.groves g x } }
def State.thermal (s : State) (g : Nat) : Thermal := mget {} s.sap.thermal g
def State.setThermal (s : State) (g : Nat) (x : Thermal) : State :=
  { s with sap := { s.sap with thermal := mput {} s.sap.thermal g x } }
def State.ptBufs (s : State) (p : Nat) : PtBufs := mget {} s.bufs p
def State.setBufs (s : State) (p : Nat) (x : PtBufs) : State := { s with bufs := mput {} s.bufs p x }

/-- Apply f to the state for each element in order. -/
def State.each {α : Type} (s : State) (l : List α) (f : State → α → State) : State := l.foldl f s

/-! ## The time base as the other blocks read it -/

/-- Cambium reports ALIGNED or FLYWHEEL. -/
def State.onGrid (s : State) : Bool := s.cmb.st == .aligned || s.cmb.st == .flywheel

/-- The local beat (R462): the hub's own count while UNLOCKED, Cambium's beat otherwise. -/
def State.nowBeat (s : State) : DWord := if s.cmb.st = .unlocked then s.cmb.localBeat else s.cmb.beat

/-! ## What leaves the device -/

def State.emit (s : State) (o : Out) : State := { s with outbox := s.outbox ++ [o] }

/-- Outgoing data enters the PCIe upstream release buffer (R29). -/
def State.emitPcie (s : State) (o : Out) : State :=
  { s with gates := { s.gates with pcie := s.gates.pcie ++ [o] } }

/-- Outgoing data enters the Bough transmit release buffer (R29). -/
def State.emitBough (s : State) (o : Out) : State :=
  { s with gates := { s.gates with bough := s.gates.bough ++ [o] } }

/-- Outgoing data enters the checkpoint release buffer (R29). -/
def State.emitCkpt (s : State) (o : Out) : State :=
  { s with gates := { s.gates with ckpt := s.gates.ckpt ++ [o] } }

/-- Raise an MSI-X vector: a write upstream, behind what entered the release buffer before it (R29), or held pending while
its table entry is masked (19, "BAR2"). -/
def State.raiseVec (s : State) (v : Nat) : State :=
  if (mget {} s.hif.msix v : MsixEntry).masked then
    { s with hif := { s.hif with msixPend := s.hif.msixPend ||| (1#64 <<< v) } }
  else s.emitPcie (.msix v)

/-! ## Event registers -/

def Events.get (e : Events) : EvtSrc → Word
  | .cmb => e.cmb
  | .sap => e.sap
  | .cfg => e.cfg
  | .hif => e.hif
  | .mem => e.mem
  | .bgh n => mget 0 e.bgh n
  | .red p => mget 0 e.red p
  | .flt => e.flt
  | .sec => e.sec
  | .cnp => e.cnp

def Events.set (e : Events) (src : EvtSrc) (v : Word) : Events :=
  match src with
  | .cmb => { e with cmb := v }
  | .sap => { e with sap := v }
  | .cfg => { e with cfg := v }
  | .hif => { e with hif := v }
  | .mem => { e with mem := v }
  | .bgh n => { e with bgh := mput 0 e.bgh n v }
  | .red p => { e with red := mput 0 e.red p v }
  | .flt => { e with flt := v }
  | .sec => { e with sec := v }
  | .cnp => { e with cnp := v }

/-- The MSI-X vector of a block's events (R409). -/
def EvtSrc.vector : EvtSrc → Nat
  | .cmb => 56
  | .mem => 57
  | .bgh _ => 58
  | .red _ => 59
  | .flt => 60
  | .sap => 61
  | .cfg => 61
  | .cnp => 61
  | .sec => 62
  | .hif => 63

/-- SOURCE of a log entry (Table 17-3). -/
def EvtSrc.code : EvtSrc → Half
  | .cmb => 0x001
  | .sap => 0x002
  | .cfg => 0x003
  | .hif => 0x004
  | .mem => 0x006
  | .bgh _ => 0x007
  | .red _ => 0x008
  | .flt => 0x00A
  | .sec => 0x00B
  | .cnp => 0x00D

/-- An entry that the full FIFO cannot take is counted (R471); the first count since LOG_LOST was cleared sets the bit
and raises its vector, and the entry of that event is lost as well. -/
def State.loseEntry (s : State) : State :=
  let s := { s with cnp := { s.cnp with logLost := satSucc s.cnp.logLost } }
  if s.evt.cnp.getLsbD 2 then s
  else
    let s := { s with evt := { s.evt with cnp := s.evt.cnp ||| 4 } }
    let s := { s with cnp := { s.cnp with logLost := satSucc s.cnp.logLost } }
    s.raiseVec 61

/-- Record an event for the Canopy log (R70 and the like): into the hub event FIFO of 1,024 entries (R471). -/
def State.logEvent (s : State) (src : EvtSrc) (event : Half) (pt : Nat) (detail : List Byte) : State :=
  if s.cnp.fifo.length < 1024 then
    { s with cnp := { s.cnp with fifo := s.cnp.fifo ++ [{
        beat := s.nowBeat, uptime := s.pwr.uptime, source := src.code, event, pt, aligned := s.onGrid,
        coreDown := s.cnp.coreDown, detail := padTo 32 detail }] } }
  else s.loseEntry

/-- Set an event bit; where it goes from 0 to 1, raise the block's vector and log the event (R70, R252, R316, R344,
R365, R445, R469, R488, R519, R520). -/
def State.event (s : State) (src : EvtSrc) (bit : Nat) (pt : Nat := 0xFF) (detail : List Byte := []) : State :=
  if (s.evt.get src).getLsbD bit then s
  else
    let s := { s with evt := s.evt.set src (s.evt.get src ||| (1#32 <<< bit)) }
    (s.raiseVec src.vector).logEvent src (BitVec.ofNat 16 bit) pt detail

/-- A write-1-to-clear access of an event register (Table 0-5). -/
def State.clearEvents (s : State) (src : EvtSrc) (v : Word) : State :=
  { s with evt := s.evt.set src (s.evt.get src &&& ~~~v) }

/-! ## Control records (R304, R306) -/

/-- A port that carries control slots: up, or swapping a lane (Table 11-3). -/
def Port.active (p : Port) : Bool := p.mode == 0 && (p.st == .up || p.st == .swap)

/-- Queue a control record for a port's next control slot, in take-in order (R306). -/
def State.queueRec (s : State) (n : Nat) (r : List Byte) : State :=
  s.updPort n fun p => { p with waiting := p.waiting ++ [padTo 32 r] }

/-- The active native ports of the device. -/
def activePorts (s : State) : List Nat := (List.range s.variant.ports).filter fun n => (s.port n).active

/-- Queue a record on every active native port (R65, R306, R349). -/
def State.queueAll (s : State) (r : List Byte) : State := s.each (activePorts s) fun s n => s.queueRec n r

/-! ## Random draws -/

/-- 256 bits of Heartwood's generator (R415). -/
def State.draw (s : State) : Key × State := (Config.trng s.trngCtr, { s with trngCtr := s.trngCtr + 1 })

/-- The key derivation of R414 with a counter of one or more HMAC blocks, cut to `bits` bits (a multiple of 8). -/
def kdf (key : List Byte) (label : String) (context : List Byte) (bits : Nat) : List Byte :=
  let block (i : Nat) : List Byte :=
    toBE 64 (Config.hmacSha512 key (toBE 4 i ++ ascii label ++ [0] ++ context ++ toBE 4 bits)).toNat
  ((List.range (ceilDiv bits 512)).flatMap fun i => block (i + 1)).take (bits / 8)

/-- The first 256 bits of a derivation, as a key. -/
def kdf256 (key : List Byte) (label : String) (context : List Byte) : Key :=
  BitVec.ofNat 256 (leNat (kdf key label context 256))

/-- A key's bytes. -/
def keyBytes (k : Key) : List Byte := toLE 32 k.toNat

end Sys2Proof.Machine
end

