-- ==== Sys2Proof/Machine/Access.lean ====
section
/-!
DEFINITION. The decisions about a host access before it reaches a register (R9, R507, R516), and the writes that have
a command of their own.
-/

namespace Sys2Proof.Machine

/-- BAR0 and BAR2 answer: the Rooted stage has been reached (R516, Table 16-4). -/
def State.rooted (s : State) : Bool := s.pwr.stage == .rooted || s.pwr.stage == .leafed || s.pwr.stage == .full

/-- The power-up has passed Dormant: PCIe answers at all. -/
def State.powered (s : State) : Bool := s.pwr.stage != .dormant

/-- An access before the Rooted stage: a Completer Abort, counted in SEED_ABORTS (R516). -/
def State.seedAbort (s : State) (bar off : Nat) (write : Bool) : State :=
  ({ s with pwr := { s.pwr with seedAborts := satSucc s.pwr.seedAborts } }).emit (.abort bar off write)

/-- WIDTH of FLT_ACC_INFO (Table 13-8). It has a code for four widths; R9 rejects and records every other width too, whose code
is a free value (DESIGN CHOICE, log entry 2). -/
def widthCode (s : State) (w : Nat) : Nat :=
  if w = 8 then 0 else if w = 16 then 1 else if w = 32 then 2 else if w = 64 then 3
  else (Config.freeWord s.freeCtr).toNat % 4

/-- A rejected access: Completer Abort, and the FLT access-error log (R9, Table 13-8). -/
def State.rejectAccess (s : State) (bar width off : Nat) (write gated : Bool) : State :=
  let s := { s with flt := { s.flt with
    accAddr := BitVec.ofNat 32 off, accCount := if s.flt.accCount < 255 then s.flt.accCount + 1 else 255,
    accValid := true, accWidth := widthCode s width, accWrite := write, accGated := gated } }
  let s := { s with freeCtr := s.freeCtr + 1 }
  (s.emit (.abort bar off write)).event .flt 6

/-- The width and alignment of R9. -/
def accessOk (width off : Nat) : Bool := (width == 32 && off % 4 == 0) || (width == 64 && off % 8 == 0)

/-- The CLK_EN bit that gates a BAR0 offset (Table 19-1; R459). -/
def gateBit (off : Nat) : Option Nat :=
  let blk := off / 0x100000
  if blk = 4 then some 1
  else if blk = 5 then some 2
  else if blk = 6 then some 3
  else if blk = 7 then some 4
  else if blk = 8 then some 5
  else if blk = 9 then some 6
  else if blk = 0xC then some 0
  else if off = 0x200110 ∨ off = 0x200114 ∨ off = 0x200118 then some 7
  else none

/-- The offset's block answers: it has no enable bit, or its bit is set (R459). -/
def State.ungated (s : State) (off : Nat) : Bool :=
  match gateBit off with
  | none => true
  | some b => s.sap.clkEn.getLsbD b

/-- A 32-bit host write to a field that has a command of its own: answered as R507 and R516 decide, and then f. -/
def State.hostField (s : State) (off : Nat) (f : State → State) : State :=
  if !s.powered then s
  else if !s.rooted then s.seedAbort 0 off true
  else if !s.ungated off then s.rejectAccess 0 32 off true true
  else f s

end Sys2Proof.Machine
end

