-- ==== Sys2Proof/Machine/Image.lean ====
section
/-!
DEFINITION. A schedule image is one byte string (03); the fields of its header, directory, manifest and shared
sections are read from the bytes where a rule needs them.
-/

namespace Sys2Proof.Machine

/-! ## Header (Table 3-2) -/

def imgVersion (b : List Byte) : Nat := getLE b 4 2
def imgVariant (b : List Byte) : Nat := getLE b 6 2
def imgGroves (b : List Byte) : Nat := getLE b 8 1
def imgTierMask (b : List Byte) : Nat := getLE b 9 1
def imgPorts (b : List Byte) : Nat := getLE b 10 1
def imgSections (b : List Byte) : Nat := getLE b 12 4
def imgStepBeats (b : List Byte) : Nat := getLE b 16 4
def imgLength (b : List Byte) : Nat := getLE b 24 8
def imgId (b : List Byte) : DWord := BitVec.ofNat 64 (getLE b 32 8)
def imgGrid (b : List Byte) : DWord := BitVec.ofNat 64 (getLE b 40 8)
def imgDigest (b : List Byte) : List Byte := (b.drop 64).take 64

/-- Tiers present in the image, ascending (TIER_MASK). -/
def imgTiers (b : List Byte) : List Nat := (List.range 4).filter fun t => bitAt (imgTierMask b) t

/-! ## Section directory (Table 3-3) -/

/-- A section directory entry. -/
structure SecEnt where
  type : Nat
  tier : Nat
  grove : Nat
  cluster : Nat
  stream : Nat
  off : Nat
  size : Nat
deriving DecidableEq, Repr

/-- The entry that 32 bytes spell. -/
def secEntOf (r : List Byte) : SecEnt :=
  { type := getLE r 0 2, tier := getLE r 2 1, grove := getLE r 3 1, cluster := getLE r 4 2, stream := getLE r 6 1,
    off := getLE r 8 8, size := getLE r 16 8 }

/-- Directory entry i. -/
def secEnt (b : List Byte) (i : Nat) : SecEnt := secEntOf (b.drop (256 + 32 * i))

/-- The first n entries that bytes spell. -/
def secEntsIn : Nat → List Byte → List SecEnt
  | 0, _ => []
  | n + 1, l => secEntOf l :: secEntsIn n (l.drop 32)

/-- The whole directory. -/
def secEnts (b : List Byte) : List SecEnt := secEntsIn (imgSections b) (b.drop 256)

/-- The bytes of a section. -/
def secBytes (b : List Byte) (e : SecEnt) : List Byte := (b.drop e.off).take e.size

/-- The bytes of the section with a key; none of its own where the image lacks it. -/
def secFind (b : List Byte) (type tier grove cluster stream : Nat) : List Byte :=
  match (secEnts b).find? fun e =>
      e.type = type ∧ e.tier = tier ∧ e.grove = grove ∧ e.cluster = cluster ∧ e.stream = stream with
  | some e => secBytes b e
  | none => []

/-- A shared section (Table 3-4). -/
def secShared (b : List Byte) (type : Nat) : List Byte := secFind b type 0xFF 0xFF 0xFFFF 0xFF

/-- The stream section of a tier, relative cluster and stream (0010h). -/
def secStream (b : List Byte) (tier cl st : Nat) : List Byte := secFind b 0x10 tier (cl / 100) (cl % 100) st

/-- The Pith program of relative stack j (0020h), empty where there is none. -/
def secPith (b : List Byte) (j : Nat) : List Byte := secFind b 0x20 0xFF j 0xFFFF 0xFF

/-- The power profile of a tier (0013h). -/
def secPower (b : List Byte) (tier : Nat) : List Byte := secFind b 0x13 tier 0xFF 0xFFFF 0xFF

/-! ## Resource manifest (Table 3-5) -/

def manifest (b : List Byte) : List Byte := secShared b 1
def manHbmUsed (b : List Byte) (j : Nat) : Nat := getLE (manifest b) (8 * j) 8
def manOuterUsed (b : List Byte) : Nat := getLE (manifest b) 0x80 8
def manCrownWays (b : List Byte) (k : Nat) : Nat := getLE (manifest b) (0x90 + 4 * k) 4
def manStashPeak (b : List Byte) : Nat := getLE (manifest b) 0xB0 8
def manStashCrown (b : List Byte) : Nat := getLE (manifest b) 0xB8 8
def manStashHbm (b : List Byte) : Nat := getLE (manifest b) 0xC0 8
def manStashOver (b : List Byte) : Nat := getLE (manifest b) 0xC8 8
def manStashRatio (b : List Byte) : Nat := getLE (manifest b) 0xD0 2
def manStashMode (b : List Byte) : Nat := getLE (manifest b) 0xD2 1
def manStashSlots (b : List Byte) : Nat := getLE (manifest b) 0xD4 2
def manLmax (b : List Byte) (p : Nat) : Nat := getLE (manifest b) (0xE0 + 2 * p) 2
def manPortMode (b : List Byte) (p : Nat) : Nat := getLE (manifest b) (0xF0 + p) 1
def manGraftBytes (b : List Byte) (p : Nat) : Nat := getLE (manifest b) (0xF8 + 4 * p) 4
def manGraftGrove (b : List Byte) (p : Nat) : Nat := getLE (manifest b) (0x118 + p) 1
def manOwned (b : List Byte) : Nat := getLE (manifest b) 0x120 8
def manCommitBeat (b : List Byte) : Nat := getLE (manifest b) 0x128 4

/-! ## Pith programs (Table 10-2) -/

/-- The Pith programs of an image with their relative stacks. -/
def pithPrograms (b : List Byte) : List (Nat × List Byte) :=
  (secEnts b).filterMap fun e => if e.type = 0x20 then some (e.grove, secBytes b e) else none

/-- HORIZON of the image: of its Pith programs, or 2 where it carries none (R257). -/
def imgHorizon (b : List Byte) : Nat :=
  match pithPrograms b with
  | [] => 2
  | (_, p) :: _ => getLE p 16 2

/-! ## External events (R83) -/

/-- An entry of the external event list. -/
structure ExtEvent where
  beat : Nat
  type : Nat
  object : Nat
  param : Nat
deriving DecidableEq, Repr

def extEvents (b : List Byte) : List ExtEvent :=
  let l := secShared b 3
  (List.range (l.length / 16)).map fun i =>
    { beat := getLE l (16 * i) 4, type := getLE l (16 * i + 4) 2, object := getLE l (16 * i + 6) 2,
      param := getLE l (16 * i + 8) 8 }

/-! ## Slot table (Tables 11-4, 11-5, 11-10) -/

/-- A slot record. -/
structure SlotRec where
  port : Nat
  dir : Nat
  type : Nat
  beat : Nat
  period : Nat
  count : Nat
  start : Nat
  length : Nat
  frames : Nat
deriving DecidableEq, Repr

/-- A segment record. -/
structure SegRec where
  slot : Nat
  graft : Bool
  offset : Nat
  lines : Nat
  cluster : Nat
deriving DecidableEq, Repr

/-- A graft record. -/
structure GraftRec where
  port : Nat
  dir : Nat
  kind : Nat
  fmt : Nat
  tensor : Nat
  tol : Nat
  deadline : Nat
  bufOff : Nat
  bufBytes : Nat
  elements : Nat
deriving DecidableEq, Repr

def slotTable (b : List Byte) : List Byte := secShared b 0x21
def slotCount (b : List Byte) : Nat := getLE (slotTable b) 0 4
def segCount (b : List Byte) : Nat := getLE (slotTable b) 4 4
def graftCount (b : List Byte) : Nat := getLE (slotTable b) 8 4
def graftBase (b : List Byte) (p : Nat) : Nat := getLE (slotTable b) (16 + 8 * p) 8

/-- Slot record i. -/
def slotRec (b : List Byte) (i : Nat) : SlotRec :=
  let t := slotTable b
  let o := 80 + 32 * i
  { port := getLE t o 1, dir := getLE t (o + 1) 1, type := getLE t (o + 2) 1, beat := getLE t (o + 4) 4,
    period := getLE t (o + 8) 4, count := getLE t (o + 12) 4, start := getLE t (o + 16) 4,
    length := getLE t (o + 20) 4, frames := getLE t (o + 24) 2 }

/-- Segment record i. -/
def segRec (b : List Byte) (i : Nat) : SegRec :=
  let t := slotTable b
  let o := 80 + 32 * slotCount b + 16 * i
  let w := getLE t o 4
  { slot := w % 2 ^ 31, graft := bitAt w 31, offset := getLE t (o + 4) 4, lines := getLE t (o + 8) 4,
    cluster := getLE t (o + 12) 2 }

/-- Graft record i. -/
def graftRec (b : List Byte) (i : Nat) : GraftRec :=
  let t := slotTable b
  let o := 80 + 32 * slotCount b + 16 * segCount b + 32 * i
  { port := getLE t o 1, dir := getLE t (o + 1) 1, kind := getLE t (o + 2) 1, fmt := getLE t (o + 3) 1,
    tensor := getLE t (o + 4) 2, tol := getLE t (o + 6) 1, deadline := getLE t (o + 8) 4,
    bufOff := getLE t (o + 12) 4, bufBytes := getLE t (o + 16) 4, elements := getLE t (o + 20) 4 }

def slotRecs (b : List Byte) : List SlotRec := (List.range (slotCount b)).map (slotRec b)
def segRecs (b : List Byte) : List SegRec := (List.range (segCount b)).map (segRec b)
def graftRecs (b : List Byte) : List GraftRec := (List.range (graftCount b)).map (graftRec b)

/-- Beat offset of occurrence k of a slot record. -/
def SlotRec.beatOf (r : SlotRec) (k : Nat) : Nat := r.beat + k * r.period

/-- frame_start of R286 as a fraction of 3,584ths of a nanosecond. -/
def frameStart (f : Nat) : Nat :=
  let p := 2176 * f
  15360 + 5440 * (p / 5140) + p % 5140

/-- A window bound in 1/64 ns against a frame start in 1/3,584 ns: 3,584 = 56 × 64. -/
def inWindow (r : SlotRec) (f : Nat) : Bool :=
  decide (r.start * 56 ≤ frameStart f) && decide (frameStart f < (r.start + r.length) * 56)

/-- The frame times of a slot's window (R298). -/
def slotFrames (r : SlotRec) : List Nat := (List.range 1549).filter (inWindow r)

/-- Payload bytes of a message: 256 × FRAMES − 32 (R298). -/
def SlotRec.payload (r : SlotRec) : Nat := 256 * r.frames - 32

/-- The deadline d of R58 in 1/64 ns from the occurrence's beat boundary, with l_max of the port. -/
def slotDeadline (r : SlotRec) (lmax : Nat) : Nat := r.start + r.length + 12 * 64 + lmax

/-! ## Steps and slots of a partition -/

/-- Image slot A or B of a partition. -/
def Part.slot (p : Part) (b : Bool) : Slot := if b then p.slotB else p.slotA
def Part.setSlot (p : Part) (b : Bool) (x : Slot) : Part := if b then { p with slotB := x } else { p with slotA := x }

/-- The step of a partition that runs (before or after its commit). -/
def Part.running (p : Part) : Option StepRun :=
  match p.cur with
  | some r => if r.ph = .running ∨ r.ph = .committed then some r else none
  | none => none

/-- ac per beat of a tier (R41). -/
def acPerBeat : Nat → Nat
  | 0 => 850
  | 1 => 680
  | 2 => 510
  | _ => 340

/-- A running step that does its work: not a replay of broadcasts (R278). -/
def Part.working (p : Part) : Option StepRun :=
  match p.running with
  | some r => if r.replay then none else some r
  | none => none

/-- The image that a step runs. -/
def Part.image (p : Part) (r : StepRun) : List Byte := (p.slot r.slot).image

/-- Apply f to a partition's running step. -/
def State.updRun (s : State) (p : Nat) (f : StepRun → StepRun) : State :=
  s.updPart p fun x => { x with cur := x.cur.map f }

/-- The beat offset of the current beat in a step. -/
def State.offset (s : State) (r : StepRun) : Nat := (s.cmb.beat - r.start).toNat

/-! ## Fields of a STEP body (Table 14-6) -/

def StepRun.swNorm (r : StepRun) : Bool := bitAt (getLE r.body 2 1) 0
def StepRun.startMin (r : StepRun) : DWord := BitVec.ofNat 64 (getLE r.body 8 8)
def StepRun.graftStep (r : StepRun) : DWord := BitVec.ofNat 64 (getLE r.body 24 8)
def StepRun.normQ (r : StepRun) : Word := BitVec.ofNat 32 (getLE r.body 32 4)
def StepRun.census (r : StepRun) : Nat := getLE r.body 36 4
def StepRun.censusOff (r : StepRun) : Nat := getLE r.body 40 8
def StepRun.exportObj (r : StepRun) : Nat := getLE r.body 48 4
def StepRun.exportOff (r : StepRun) : Nat := getLE r.body 56 8
def StepRun.timerFence (r : StepRun) : Nat := getLE r.body 64 4
def StepRun.timerGen (r : StepRun) : Nat := getLE r.body 68 4

end Sys2Proof.Machine
end

