-- ==== Sys2Proof/Machine/Faults.lean ====
section
/-!
DEFINITION. Faults (13): detecting a fault of a running step, suspects and the suspect table, fault notices, dropping a
step at a boundary, classification of suspects during a repeat.
-/

namespace Sys2Proof.Machine

/-! ## Cause codes and suspects (Tables 13-1, 13-2) -/

/-- The cause takes a repeat (Table 13-1, "Repeat" Yes). -/
def causeRepeats (c : Half) : Bool :=
  [0x0101, 0x0102, 0x0103, 0x0105, 0x0106, 0x010A, 0x0201, 0x0202, 0x0204].contains c.toNat

/-- The cause enters its suspect: a repeat or, for POISONED_READ, a memory test (R354, R359). -/
def causeEnters (c : Half) : Bool := causeRepeats c || c == 0x0401

/-- A suspect of Table 13-2: kind, location and the device's low 24 identity bits. -/
def suspectOf (kind loc : Nat) (dev : DWord) : DWord :=
  BitVec.ofNat 64 (atBits kind 60 4 + atBits loc 24 36 + field dev.toNat 0 24)

/-- A suspect that this device holds. -/
def State.suspect (s : State) (kind loc : Nat) : DWord := suspectOf kind loc s.shortId

/-- KIND of a suspect. -/
def suspKind (w : DWord) : Nat := field w.toNat 60 4

/-- LOCATION of a suspect. -/
def suspLoc (w : DWord) : Nat := field w.toNat 24 36

/-- DEVICE of a suspect. -/
def suspDev (w : DWord) : Nat := field w.toNat 0 24

/-- The physical cluster that serves index i of grove g (R24). -/
def physCluster (s : State) (g i : Nat) : Nat := mget i (s.grove g).remap i

/-- LOCATION of an absolute logical cluster (Table 13-2, CLUSTER). -/
def clusterLoc (s : State) (c : Nat) : Nat :=
  atBits (c / 100) 33 3 + atBits (physCluster s (c / 100) (c % 100)) 26 7 + atBits (c % 100) 19 7

/-- LOCATION of a burst of a stack (Table 13-2, HBM_PAGE; R210). -/
def hbmLoc (h a : Nat) : Nat :=
  atBits h 32 4 + atBits (field a 11 5) 27 5 + atBits (a / 2 ^ 16) 7 20 + atBits (field a 6 5) 2 5

/-- LOCATION of a device line of outer memory (Table 13-2, OM_LINE; R34). -/
def omLoc (line : Nat) : Nat :=
  let page := line / 64
  atBits (page % 8) 33 3 + atBits (page / 8) 8 25 + atBits (line % 64) 2 6

/-- A fault with no place in a stream: no ac, no cluster, no readiness point. -/
def plainFault (cause : Half) (suspect : DWord) : FaultInfo :=
  { cause, point := 0, suspect, ac := 0xFFFF, cluster := 0xFFFF, stream := 0xFF, word := 0xFFFFFFFF, detail := 0 }

/-! ## Notices (Table 11-8, R349, R350) -/

/-- A fault notice record. -/
def noticeRec (hops : Nat) (cause : Half) (count : Nat) (start origin suspect : DWord) : List Byte :=
  [1, BitVec.ofNat 8 hops] ++ toLE 2 cause.toNat ++ toLE 4 count ++ toLE 8 start.toNat ++ toLE 8 origin.toNat
    ++ toLE 8 suspect.toNat

/-- The DETAIL of a FLT log entry: partition, cause and suspect (R365). -/
def fltDetail (pt : Nat) (cause : Half) (suspect : DWord) : List Byte :=
  [BitVec.ofNat 8 pt, 0] ++ toLE 2 cause.toNat ++ toLE 4 0 ++ toLE 8 suspect.toNat

/-- Count a report for a known key, or make the key (R350, R353); says whether it was new. -/
def addKey (keys : List FKey) (k : FKey) : List FKey × Bool :=
  match keys with
  | [] => ([k], true)
  | x :: xs =>
    if x.cause = k.cause ∧ x.suspect = k.suspect then
      if k.loc && !x.loc then
        ({ k with count := x.count + 1, beatOff := x.beatOff, origin := x.origin, hops := x.hops, cls := x.cls } :: xs,
          false)
      else ({ x with count := x.count + 1 } :: xs, false)
    else
      let r := addKey xs k
      (x :: r.1, r.2)

/-- The key that a local detection makes (Table 13-4). -/
def localKey (s : State) (r : StepRun) (f : FaultInfo) : FKey :=
  { cause := f.cause, loc := true, cls := 0, point := f.point, count := 1, suspect := f.suspect, origin := s.shortId,
    beatOff := s.offset r, ac := f.ac, cluster := f.cluster, stream := f.stream, hops := 0, word := f.word,
    detail := f.detail }

/-- A fault of partition pt is detected (R348, R349). While a step runs it makes a key or adds to it, marks the step and
raises the notice; with no step running it is only logged. -/
def State.detect (s : State) (pt : Nat) (f : FaultInfo) : State :=
  match (s.part pt).running with
  | none => s.logEvent .flt 0 pt (fltDetail pt f.cause f.suspect)
  | some r =>
    let ks := addKey r.keys (localKey s r f)
    let s := s.updRun pt fun r => { r with keys := ks.1, faulted := r.faulted || r.ph == .running }
    s.queueAll (noticeRec 0 f.cause 1 r.start s.shortId f.suspect)

/-- Something expires at the end of the beat that runs, unless it comes before (Table 2-4, order 3). -/
def State.setDue (s : State) (pt : Nat) (x : Expiry) : State :=
  s.updPart pt fun p => { p with due := if p.due.contains x then p.due else p.due ++ [x] }

/-- A fault of the time base or of the package, in every partition (R346, R349). -/
def State.detectAll (s : State) (f : FaultInfo) : State := s.each (ptList s) fun s p => s.detect p f

/-- A time-base fault (Table 2-5, suspect TIME_BASE). -/
def State.timeFault (s : State) (cause : Half) : State := s.detectAll (plainFault cause (s.suspect 8 0))

/-! ## The suspect table (R354 to R360) -/

/-- Remove and add nothing but the beats within the last 1,000,000 (R358). -/
def recentEntries (l : List (DWord × DWord)) (now : DWord) : List (DWord × DWord) :=
  l.filter fun e => decide ((now - e.2).toNat < 1000000)

/-- The index at which a new entry goes: an empty slot, else the oldest replaceable one (R360). -/
def suspectSlot (t : FMap Suspect) : Option Nat :=
  match (List.range 32).find? fun i => (mget {} t i : Suspect).st = .empty with
  | some i => some i
  | none =>
    let cand := (List.range 32).filter fun i =>
      let e : Suspect := mget {} t i
      e.st = .transient || e.st = .unresolved || (e.st = .permanent && e.remedied)
    cand.foldl (fun b i =>
      match b with
      | none => some i
      | some j => if (mget {} t i : Suspect).age < (mget {} t j : Suspect).age then some i else some j) none

/-- The image named by a step's slot. -/
def stepImageId (s : State) (pt : Nat) (r : StepRun) : DWord := imgId ((s.part pt).image r)

/-- The entry for the same suspect that stands already, pending or awaiting its remedy. -/
def standing (s : State) (pt : Nat) (w : DWord) : Option Suspect :=
  (s.flt.suspects.find? fun e => (e.2.st == .pending || (e.2.st == .permanent && !e.2.remedied)) &&
    e.2.suspect == w && e.2.pt == pt).map (·.2)

/-- Enter the suspect of a key of a discarded step (R354, R358, R360); answers the CLASS for the summary. -/
def enterSuspect (s : State) (pt : Nat) (r : StepRun) (k : FKey) : State × Nat :=
  match standing s pt k.suspect with
  | some e => (s, if e.st = .permanent then 3 else 1)
  | none =>
    let ents := (k.suspect, s.cmb.beat) :: recentEntries s.flt.entries s.cmb.beat
    let n := (ents.filter fun e => e.1 = k.suspect).length
    let perm := decide (s.flt.recurLimit.toNat ≤ n)
    match suspectSlot s.flt.suspects with
    | none => (s.event .flt 5 pt (fltDetail pt k.cause k.suspect), 0)
    | some i =>
      let e : Suspect := {
        st := if perm then .permanent else .pending, suspect := k.suspect, pt, cause := k.cause, slot := r.slot,
        imageId := stepImageId s pt r, seed := r.seed, tier := r.tier, beatOff := k.beatOff,
        ac := if k.loc then some k.ac else none, remedied := false, age := s.flt.ageCtr }
      let s := { s with flt := { s.flt with
        suspects := mput {} s.flt.suspects i e, entries := ents, ageCtr := s.flt.ageCtr + 1 } }
      (if perm then s.event .flt 1 pt (fltDetail pt k.cause k.suspect) else s, if perm then 3 else 1)

/-- A key whose suspect this device enters: its own detection, or a notice that names this device (R354). -/
def keyEnters (s : State) (k : FKey) : Bool :=
  causeEnters k.cause && (k.loc || suspDev k.suspect = field s.shortId.toNat 0 24)

/-- Enter every suspect of a discarded step, writing each key's CLASS. -/
def enterAll (s : State) (pt : Nat) (r : StepRun) : List FKey → State × List FKey
  | [] => (s, [])
  | k :: ks =>
    let a := if keyEnters s k then enterSuspect s pt r k else (s, k.cls)
    let b := enterAll a.1 pt r ks
    (b.1, { k with cls := if k.cls = 0 then a.2 else k.cls } :: b.2)

/-- Change the entries of the suspect table. -/
def State.mapSuspects (s : State) (f : Suspect → Suspect) : State :=
  let t := (List.range 32).foldl (fun m i => mput {} m i (f (mget {} m i))) s.flt.suspects
  { s with flt := { s.flt with suspects := t } }

/-- The entry belongs to the repeat that runs: same partition, slot, image and seed (R355). -/
def entryMatches (s : State) (pt : Nat) (r : StepRun) (e : Suspect) : Bool :=
  e.st == .pending && e.pt == pt && e.slot == r.slot && e.seed == r.seed && e.imageId == stepImageId s pt r

/-- Classification of one pending entry at a boundary of an identical repeat (R356). -/
def classify (s : State) (pt : Nat) (r : StepRun) (e : Suspect) : SuspSt :=
  if entryMatches s pt r e && r.rep == 1 then
    if r.keys.any fun k => k.suspect == e.suspect then .permanent
    else if e.beatOff ≤ s.offset r then .transient
    else .pending
  else e.st

/-- CLASS of a key whose suspect a pending entry of the repeat names (Table 13-4). -/
def classOf (s : State) (pt : Nat) (r : StepRun) (k : FKey) : FKey :=
  match s.flt.suspects.find? (fun e => e.2.suspect == k.suspect && entryMatches s pt r e.2) with
  | none => k
  | some e =>
    match classify s pt r e.2 with
    | .permanent => { k with cls := 3 }
    | .transient => { k with cls := 2 }
    | _ => k

/-- SUSPECT_CLASSIFY at the boundary that ends the current beat, before drops (R356, R365). -/
def State.classifyAll (s : State) (pt : Nat) : State :=
  match (s.part pt).running with
  | none => s
  | some r =>
    let hits := (s.flt.suspects.map (·.2)).filter fun e => e.st == .pending && classify s pt r e == .permanent
    let t := s.mapSuspects fun e => { e with st := classify s pt r e }
    let t := t.updRun pt fun x => { x with keys := x.keys.map (classOf s pt r) }
    t.each hits fun s e => s.event .flt 1 pt (fltDetail pt e.cause e.suspect)

/-! ## Dropping a step (R348, R351) -/

/-- The cause code with REMOTE where the key came only from notices (R345). -/
def FKey.code (k : FKey) : Half := if k.loc then k.cause else k.cause ||| 0x8000

/-- a comes before b in the order of R351. -/
def FKey.before (a b : FKey) : Bool :=
  if a.beatOff ≠ b.beatOff then decide (a.beatOff < b.beatOff)
  else if a.loc ≠ b.loc then a.loc
  else decide (a.cause.toNat < b.cause.toNat)

/-- The earliest key (R351). -/
def earliest : List FKey → Option FKey
  | [] => none
  | k :: ks =>
    match earliest ks with
    | none => some k
    | some m => some (if m.before k then m else k)

/-- The outcome cause of a discarded step (R351). -/
def outcomeCause (ks : List FKey) : Half :=
  match earliest ks with
  | some k => k.code
  | none => 0

/-- A partition's slot buffers and grove vector engines hold nothing of a step. -/
def State.emptyBufs (s : State) (pt : Nat) : State :=
  let s := s.setBufs pt { s.ptBufs pt with
    tx := [], rx := [], graftOut := (s.ptBufs pt).graftOut.filter fun e => e.sending }
  s.each (ptGroves s pt) fun s g => { s with gve := merase s.gve g }

/-- The step's work ends (R175, R348): its words, windows and copies under way, its records in the stash engines, its slot
buffers and open keys; RED_PT_GVE_OPEN takes its count. -/
def State.endWork (s : State) (pt : Nat) : State :=
  let s := { s with mb := { s.mb with windows := s.mb.windows.filter fun w => w.pt ≠ pt,
                                      dma := s.mb.dma.filter fun d => d.pt ≠ pt } }
  let s := s.emptyBufs pt
  let s := s.each (s.clusters.filter fun e => (ptGroves s pt).contains (e.1 / 100)) fun s e =>
    s.setCluster e.1 { e.2 with stash := [] }
  let s := s.updRun pt fun r => { r with flights := [], emits := [] }
  match (s.part pt).cur with
  | some r => { s with red := mput {} s.red pt { (mget {} s.red pt : RedPt) with gveOpen := r.gveMax } }
  | none => s

/-- Drop a partition's running step at the boundary that ends the current beat (R348). -/
def State.dropStep (s : State) (pt : Nat) : State :=
  match (s.part pt).cur with
  | none => s
  | some r =>
    let cause := outcomeCause r.keys
    let susp := match earliest r.keys with
                | some k => k.suspect
                | none => 0
    let e := enterAll s pt r r.keys
    let s := e.1.updPart pt fun p => { p with
      cur := some { r with ph := .discarded, cause, endBeat := s.cmb.beat, faulted := false, noticed := false,
                           keys := e.2 },
      outBeat := some s.cmb.beat, outDisc := true, horizon := imgHorizon (p.image r), recovery := 0,
      recoveryDone := false }
    (s.endWork pt).event .flt 0 pt (fltDetail pt cause susp)

/-! ## Taking in a fault notice (R350, R274) -/

/-- A record's fields as a notice. -/
structure NoticeFields where
  hops : Nat
  cause : Half
  count : Nat
  start : DWord
  origin : DWord
  suspect : DWord
deriving DecidableEq, Repr

def noticeOf (rec : List Byte) : NoticeFields :=
  { hops := getLE rec 1 1, cause := BitVec.ofNat 16 (getLE rec 2 2), count := getLE rec 4 4,
    start := BitVec.ofNat 64 (getLE rec 8 8), origin := BitVec.ofNat 64 (getLE rec 16 8),
    suspect := BitVec.ofNat 64 (getLE rec 24 8) }

/-- The key that a taken-in notice makes (Table 13-4). -/
def remoteKey (s : State) (r : StepRun) (n : NoticeFields) : FKey :=
  { cause := n.cause, loc := false, cls := 0, point := 0, count := 1, suspect := n.suspect, origin := n.origin,
    beatOff := s.offset r, ac := 0xFFFF, cluster := 0xFFFF, stream := 0xFF, hops := n.hops, word := 0xFFFFFFFF,
    detail := 0 }

/-- Forward a notice whose key is new, with HOPS increased (R350). -/
def State.forward (s : State) (n : NoticeFields) : State :=
  if n.hops = 255 then s else s.queueAll (noticeRec (n.hops + 1) n.cause 1 n.start n.origin n.suspect)

/-- SPLIT of Table 10-6 is bit 2 of the commit flags. -/
def splitFlag : Byte := 4

/-- A notice for a committed step marks the split (R274): in its own completion while that is not written, later in the
log and in the partition's next completion. -/
def State.markSplit (s : State) (pt : Nat) (n : NoticeFields) : State :=
  match (s.part pt).cur with
  | some r =>
    if r.start = n.start ∧ r.ph = .committed then s.updRun pt fun r => { r with flags := r.flags ||| splitFlag }
    else (s.updPart pt fun p => { p with splitNext := true }).logEvent .flt 0 pt (fltDetail pt n.cause n.suspect)
  | none => (s.updPart pt fun p => { p with splitNext := true }).logEvent .flt 0 pt (fltDetail pt n.cause n.suspect)

/-- A notice not taken in (R350). -/
def State.lateNotice (s : State) (pt : Nat) (n : NoticeFields) : State :=
  let s := { s with flt := { s.flt with late := satSucc s.flt.late } }
  s.event .flt 8 pt (fltDetail pt n.cause n.suspect)

/-- A notice that names a corrupt broadcast of a committed step (R278): a running step is discarded, and the broadcasts
run again in place of the next one. -/
def State.takeReplay (s : State) (pt : Nat) (n : NoticeFields) : State :=
  if !(s.part pt).committedStarts.contains n.start then s.lateNotice pt n
  else
    match (s.part pt).cur with
    | none => (s.updPart pt fun p => { p with replayNext := true }).forward n
    | some r =>
      let ks := addKey r.keys (remoteKey s r n)
      let s := s.updRun pt fun r => { r with keys := ks.1, noticed := r.noticed || r.ph == .running }
      if ks.2 then (s.updPart pt fun p => { p with replayNext := true }).forward n else s

/-- A new key of a step that has been dropped enters its suspect too, until the next step starts (R350, R354). -/
def State.enterLate (s : State) (pt : Nat) (k : FKey) : State :=
  match (s.part pt).cur with
  | some r =>
    if r.ph = .discarded ∧ keyEnters s k then
      let e := enterSuspect s pt r k
      e.1.updRun pt fun r => { r with
        keys := r.keys.map fun x => if x.cause = k.cause ∧ x.suspect = k.suspect then { x with cls := e.2 } else x }
    else s
  | none => s

/-- Take in a notice on a port of partition pt (R350). -/
def State.takeNotice (s : State) (pt : Nat) (n : NoticeFields) : State :=
  if n.cause = 0x0504 then s.takeReplay pt n else
  match (s.part pt).cur with
  | some r =>
    if r.start = n.start then
      let ks := addKey r.keys (remoteKey s r n)
      let s := s.updRun pt fun r => { r with keys := ks.1, noticed := r.noticed || r.ph == .running }
      let s := if ks.2 then (s.enterLate pt (remoteKey s r n)).forward n else s
      if (s.part pt).committedStarts.contains n.start then s.markSplit pt n else s
    else if (s.part pt).committedStarts.contains n.start then s.markSplit pt n
    else s.lateNotice pt n
  | none => if (s.part pt).committedStarts.contains n.start then s.markSplit pt n else s.lateNotice pt n

/-! ## Refused slots outside a load (R89, R96, R97, Table 13-5) -/

/-- A slot moves to REFUSED with a code, and the LDR_PT registers record it (R89). -/
def State.refuseSlot (s : State) (pt : Nat) (slot : Bool) (code : Half) : State :=
  s.updPart pt fun p => { (p.setSlot slot { p.slot slot with st := .refused, code }) with
    rsnSlot := slot, rsnCode := code, detSec := 0xFFFFFFFF, detPos := 0 }

/-- Every accepted slot of a partition whose image satisfies f moves to REFUSED, A before B. -/
def State.refuseSlots (s : State) (pt : Nat) (code : Half) (f : List Byte → Bool) : State :=
  s.each [false, true] fun s b =>
    let x := (s.part pt).slot b
    if x.st = .accepted ∧ f x.image then s.refuseSlot pt b code else s

end Sys2Proof.Machine
end

