-- ==== Sys2Proof/Machine/TimeBase.lean ====
section
/-!
DEFINITION. Cambium (02): the reference, the beat source, acquisition and correction, the time-base conditions.
-/

namespace Sys2Proof.Machine

/-! ## State changes -/

/-- A pending commit with a named beat is cancelled when Cambium leaves ALIGNED and FLYWHEEL (R463). -/
def State.cancelNamed (s : State) : State :=
  if s.cfg.pending ∧ s.cfg.remain = none then
    ({ s with cfg := { s.cfg with pending := false, reason := 0x06 } }).event .cfg 1 0xFF [0x06]
  else s

/-- Move Cambium to a state. HOPS and ERR_BOUND read 0 in UNLOCKED, FREQ_LOCKED and at the start of ACQUIRING (R51);
leaving ALIGNED and FLYWHEEL cancels a commit with a named beat (R463). -/
def State.setCmb (s : State) (st : CmbSt) : State :=
  let was := s.onGrid
  let c := s.cmb
  let c := match st with
    | .unlocked =>
      { c with st, hops := 0, errBound := 0, good := 0, stepped := false, residue := 0, localBeat := c.beat }
    | .freqLocked => { c with st, hops := 0, errBound := 0, good := 0, stepped := false, residue := 0 }
    | .acquiring =>
      { c with st, hops := 0, errBound := 0, good := 0, stepped := false, residue := 0, framesOff := false }
    | .aligned => { c with st, good := 0, badCrc := 0, flyBeats := 0, framesOff := false }
    | .flywheel => { c with st, flyBeats := 0 }
    | .holdover => { c with st, holdBeats := 0, residue := 0 }
  let s := { s with cmb := c }
  if was && !s.onGrid then s.cancelNamed else s

/-- Loss of TREF or of a PLL's lock (R64, R66, R67): HOLDOVER from every locked state; UNLOCKED stays and starts its
100 µs count again. -/
def State.loseReference (s : State) : State :=
  let s := s.event .cmb 0
  match s.cmb.st with
  | .unlocked => { s with cmb := { s.cmb with lockStarted := false } }
  | .holdover => s
  | _ => (s.timeFault 0x0301).setCmb .holdover

/-- TREF is missing or off frequency (Table 2-5). -/
def trefLostEffect (s : State) : State :=
  ({ s with cmb := { s.cmb with tref := false }, pwr := { s.pwr with trefAt := none } }).loseReference

/-- A PLL loses lock while TREF is present (Table 2-5). -/
def pllLockLostEffect (s : State) : State := ({ s with cmb := { s.cmb with pllLocked := false } }).loseReference

/-- After the 64th beat of HOLDOVER the ports stop sending frames and Cambium enters UNLOCKED: HOLDOVER entered in beat k
lasts to the end of beat k + 64 (R66, Table 2-6). -/
def holdoverEndEffect (s : State) : State :=
  if s.cmb.st = .holdover ∧ 65 ≤ s.cmb.holdBeats then
    ({ s with cmb := { s.cmb with framesOff := true, pllLocked := false, lockStarted := false } }).setCmb .unlocked
  else s

/-- TREF has been valid for 100 µs: in UNLOCKED the lock of every TREF-locked PLL starts (R67); the bounds of Leafed and Full
count from this moment where it is the later one (R465). -/
def trefStableEffect (s : State) : State :=
  let s := { s with cmb := { s.cmb with tref := true }, pwr := { s.pwr with trefAt := some (s.pwr.trefAt.getD s.pwr.uptime) } }
  if s.cmb.st = .unlocked then { s with cmb := { s.cmb with lockStarted := true } } else s

/-- Every TREF-locked PLL has locked: FREQ_LOCKED (R67). -/
def pllLockDoneEffect (s : State) : State :=
  if s.cmb.st = .unlocked ∧ s.cmb.lockStarted then
    ({ s with cmb := { s.cmb with pllLocked := true, lockStarted := false } }).setCmb .freqLocked
  else s

/-! ## The alignment error bound (R51) -/

/-- Write HOPS and ERR_BOUND, and set DEPTH_EXCEEDED where the bound exceeds 2.0 ns = 128/64 ns. -/
def State.boundUpdate (s : State) (base hops : Nat) : State :=
  let b := base + 16 * hops
  let s := { s with cmb := { s.cmb with hops, errBound := b } }
  if 128 < b then s.event .cmb 6 else s

/-- The bound admits alignment (R51). -/
def boundOk (base hops : Nat) : Bool := decide (base + 16 * hops ≤ 128)

/-! ## Correction, acquisition and the alignment faults (R52, R53, R64, R521) -/

/-- ±2 ns in 1/64 ns (Table 2-5). -/
def withinTwo (e : Int) : Bool := decide (-128 ≤ e) && decide (e ≤ 128)

/-- ±0.5 ns in 1/64 ns (R53). -/
def withinHalf (e : Int) : Bool := decide (-32 ≤ e) && decide (e ≤ 32)

/-- ALIGN_FAULT: discard the running steps and acquire anew (Table 2-5). -/
def State.alignFault (s : State) : State := ((s.event .cmb 3).timeFault 0x0302).setCmb .acquiring

/-- NUMBER_FAULT: discard the running steps (Table 2-5). -/
def State.numberMark (s : State) : State := (s.event .cmb 4).timeFault 0x0303

/-- NUMBER_FAULT, and acquire anew (Table 2-5). -/
def State.numberFault (s : State) : State := s.numberMark.setCmb .acquiring

/-- The last measured phase error, in 1/64 ns (Table 2-7). -/
def State.phaseErr (s : State) : Int := s.cmb.phaseErr.toInt

def State.setPhase (s : State) (e : Int) : State := { s with cmb := { s.cmb with phaseErr := BitVec.ofInt 32 e } }

/-- A frame or marker of an acquisition broke the row of good ones (R53). -/
def State.breakRow (s : State) : State := { s with cmb := { s.cmb with good := 0 } }

/-- Take in a frame or marker that passed its check: num is the beat number it carries, diff how far that lies from the
local count, e the phase error, ok whether the bound admits alignment (R53, R64, R521). The first good one of an
acquisition sets phase and number and counts as the first of the two; they are consecutive where their numbers lie one
frame apart, and one beyond ±0.5 ns starts the step of phase anew. A bound beyond 2.0 ns holds back an acquisition only
(DESIGN CHOICE, log entry 6). A wrong number counts before a phase error beyond ±2 ns, which Table 2-5 does not order: such a
frame or marker sets NUMBER_FAULT alone (DESIGN CHOICE, log entry 6). HOLDOVER ends in UNLOCKED alone (R67), so a wrong number
there sets the bit and discards without an acquisition. -/
def State.takeSource (s : State) (num : DWord) (diff : Int) (e : Int) (ok : Bool) : State :=
  match s.cmb.st with
  | .acquiring =>
    if s.cmb.stepped && diff != 0 then s.numberFault
    else if !ok then s.breakRow
    else if !s.cmb.stepped then
      { s with cmb := { s.cmb with
          beat := s.cmb.beat + BitVec.ofInt 64 diff, phase := s.cmb.phase + 1000 * e,
          stepped := true, good := 1, lastGood := num } }
    else if withinHalf e then
      if 1 ≤ s.cmb.good ∧ num = s.cmb.lastGood + 128 then s.setCmb .aligned
      else { s with cmb := { s.cmb with good := 1, lastGood := num } }
    else { s with cmb := { s.cmb with stepped := false, good := 0 } }
  | .aligned =>
    if diff ≠ 0 then s.numberFault
    else if withinTwo e then { s with cmb := { s.cmb with residue := 1000 * e } }
    else s.alignFault
  | .flywheel =>
    if diff ≠ 0 then s.numberFault
    else if withinTwo e then ({ s with cmb := { s.cmb with residue := 1000 * e } }).setCmb .aligned
    else s.alignFault
  | .holdover => if diff ≠ 0 then s.numberMark else s
  | _ => s

/-! ## BEAT_IN (R45, R46, Table 2-2) -/

/-- The symbol of a pulse width: 2 a frame marker, 0 and 1 bits; none within ±50 ns is a symbol error. -/
def pulseSymbol (w : Nat) : Option Nat :=
  if 550 ≤ w ∧ w ≤ 650 then some 2
  else if 350 ≤ w ∧ w ≤ 450 then some 1
  else if 150 ≤ w ∧ w ≤ 250 then some 0
  else none

/-- Bits, most significant first, as a number. -/
def bitsNat (bits : List Bool) : Nat := bits.foldl (fun n b => 2 * n + b2n b) 0

/-- The beat number of a frame whose symbols and CRC are good (R45). -/
def frameNumber (widths : List Nat) : Option Nat :=
  let syms := widths.map pulseSymbol
  let bits := (syms.drop 1).take 80
  let fill := syms.drop 81
  if syms.head? = some (some 2) ∧ bits.all (fun x => x == some 0 || x == some 1) ∧
      fill.all (fun x => x == some 0) ∧ widths.length = 128 then
    let bs := bits.map fun x => x == some 1
    if crc16Bits (bs.take 64) = bitsNat (bs.drop 64) then some (bitsNat (bs.take 64)) else none
  else none

/-- The source that Cambium follows is lost: an aligned device enters FLYWHEEL (Table 2-5), and the row of good frames of
an acquisition ends (R53). A device that acquires has no alignment to hold, since R521 lets a device in FLYWHEEL return to
ALIGNED: it stays in ACQUIRING (DEDUCED, log entry 6). -/
def State.loseSource (s : State) (bit : Nat) : State :=
  let s := s.event .cmb bit
  match s.cmb.st with
  | .aligned => s.setCmb .flywheel
  | .acquiring => s.breakRow
  | _ => s

/-- BEAT_IN is lost (Table 2-5). -/
def State.beatInLost (s : State) : State := s.loseSource 1

/-- Cambium takes frames and markers of a source in: it acquires or counts beats from it, or holds over (R51 to R53). -/
def State.following (s : State) (src : Nat) : Bool :=
  s.cmb.src == src && (s.cmb.st == .acquiring || s.cmb.st == .holdover || s.onGrid)

/-- A BEAT_IN frame ends: the beat that runs is the frame's 128th (R45, R53, R64). A symbol error anywhere in the frame
makes it one that fails its CRC; R45 names the error and not its effect (DESIGN CHOICE, log entry 6). -/
def beatInFrameEffect (widths : List Nat) (s : State) : State :=
  if !s.following 1 then s
  else
    match frameNumber widths with
    | none =>
      let s := { s.breakRow with cmb := { s.breakRow.cmb with badCrc := s.cmb.badCrc + 1 } }
      if s.cmb.badCrc = 3 then ({ s with cmb := { s.cmb with badCrc := 0 } }).beatInLost else s
    | some n =>
      let s := { s with cmb := { s.cmb with badCrc := 0 } }
      let s := s.boundUpdate 80 0
      let d : DWord := BitVec.ofNat 64 (n + 127) - s.cmb.beat
      s.takeSource (BitVec.ofNat 64 n) d.toInt s.phaseErr (boundOk 80 0)

/-- No valid BEAT_IN pulse for 3 beats (Table 2-5). -/
def beatInLostEffect (s : State) : State := if s.following 1 then s.beatInLost else s

/-- A BEAT_IN edge, offset in 1/64 ns from the local beat boundary, less CMB_BEAT_IN_DELAY (R46, R52). -/
def beatInEdgeEffect (offset : Int) (s : State) : State :=
  if !s.following 1 then s
  else
    let e := offset - s.cmb.inDelay.toInt
    let s := s.setPhase e
    if !s.onGrid then s
    else if withinTwo e then { s with cmb := { s.cmb with residue := 1000 * e } }
    else s.alignFault

/-! ## Markers and delay records (R49 to R51, R307, Table 11-8) -/

/-- An instant as 64,000 × beat + offset, in 1/64 ns (R307). -/
def stamp (beat : DWord) (off : Int) : Int := 64000 * (beat.toNat : Int) + off

/-- The start of the control slot from the beat boundary, in 1/64 ns (R286, R307): 3,573,480 / 56. -/
def controlStamp : Nat := 63812

/-- The beat number nearest to an instant's distance. -/
def nearestBeat (d : Int) : Int := (d + 32000).fdiv 64000

/-- A beat marker from the beat parent port (R50 to R53). -/
def beatMarkerEffect (port : Nat) (rec : List Byte) (rxBeat : DWord) (rxOff : Int) (s : State) : State :=
  let flags := getLE rec 1 1
  if !s.following 2 ∨ port ≠ s.cmb.parent ∨ (s.port port).mode ≠ 0 ∨ !bitAt flags 0 then s
  else
    let origin := bitAt flags 1
    let base := if origin then 80 else 0
    let hops := getLE rec 2 1 + 1
    let tx := stamp (BitVec.ofNat 64 (getLE rec 8 8)) (getLE rec 4 4)
    let src := tx + ((mget 0 s.cmb.portDelay port : Word).toInt)
    let d := src - stamp rxBeat rxOff
    let diff := nearestBeat d
    let e := 64000 * diff - d
    let s := { s with cmb := { s.cmb with origin } }
    let s := s.boundUpdate base hops
    (s.setPhase e).takeSource (BitVec.ofNat 64 (getLE rec 8 8)) diff e (boundOk base hops)

/-- No valid marker for 4 marker frames (Table 2-5). -/
def markerLostEffect (s : State) : State :=
  if s.following 2 then s.loseSource 2 else s

/-- FLYWHEEL has lasted CMB_FLYWHEEL_LIMIT beats (Table 2-5). -/
def flywheelLimitEffect (s : State) : State :=
  if s.cmb.st = .flywheel ∧ s.cmb.flyLimit.toNat ≤ s.cmb.flyBeats then s.alignFault else s

/-- A delay request: the reply goes out in the control slot of the beat of its receive stamp (R307). -/
def delayRequestEffect (port : Nat) (rec : List Byte) (rxBeat : DWord) (rxOff : Int) (s : State) : State :=
  if (s.port port).active then
    s.queueRec port ([4, 0, 0, 0] ++ (rec.drop 4).take 12 ++ toLE 4 (BitVec.ofInt 32 rxOff).toNat ++
      toLE 4 controlStamp ++ toLE 8 rxBeat.toNat)
  else s

/-- The one-way delay of the four stamps (02, "Beat markers"), in 1/64 ns; half of an odd difference is rounded down, which
the formula leaves open (DESIGN CHOICE, log entry 6). -/
def delayOf (rec : List Byte) (rxBeat : DWord) (rxOff : Int) : Int :=
  let t1 := stamp (BitVec.ofNat 64 (getLE rec 8 8)) (getLE rec 4 4)
  let b := BitVec.ofNat 64 (getLE rec 24 8)
  let t2 := stamp b (BitVec.ofNat 32 (getLE rec 16 4)).toInt
  let t3 := stamp b (BitVec.ofNat 32 (getLE rec 20 4)).toInt
  ((stamp rxBeat rxOff - t1) - (t3 - t2)).fdiv 2

/-- The relative index of an absolute port in its partition (R78). -/
def relPort (s : State) (pt n : Nat) : Nat := (ptPorts s pt).idxOf n

/-- A re-measurement that exceeds a running image's l_max (R60). -/
def State.checkLmax (s : State) (port : Nat) (d : Int) : State :=
  match ptOfPort s port with
  | none => s
  | some pt =>
    match (s.part pt).running with
    | none => s
    | some r =>
      let img := (s.part pt).image r
      let p := relPort s pt port
      if manPortMode img p ≠ 0 ∧ (manLmax img p : Int) < d then
        (s.event .cmb 7 pt).detect pt (plainFault 0x0304 (s.suspect 8 0))
      else s

/-- A delay reply: the port's delay is computed and stored; beyond 500 ns the port fails (R50, R60, R283). -/
def delayReplyEffect (port : Nat) (rec : List Byte) (rxBeat : DWord) (rxOff : Int) (s : State) : State :=
  if (s.port port).active then
    let d := delayOf rec rxBeat rxOff
    let s := { s with cmb := { s.cmb with portDelay := mput 0 s.cmb.portDelay port (BitVec.ofInt 32 d) } }
    let s := if 32000 < d then (s.updPort port fun p => { p with st := .failed }).event (.bgh port) 8 ((ptOfPort s port).getD 0xFF)
      [BitVec.ofNat 8 port] else s
    s.checkLmax port d
  else s

/-! ## The beat root and trace (R54, R48) -/

/-- A write of 1 to ROOT_START (R54). -/
def rootStartEffect (s : State) : State :=
  s.hostField 0x100000 fun s =>
    if s.cmb.st = .freqLocked ∧ s.cmb.src = 0 then { s with cmb := { s.cmb with rootPending := true } } else s

/-- An accepted image of a partition owns a resource bit of Table 3-6; a scrub releases it (R441). -/
def imageOwns (s : State) (pt bit : Nat) : Bool :=
  (s.tenancy pt).st != .scrubbing && [false, true].any fun b =>
    let x := (s.part pt).slot b
    x.st == .accepted && bitAt (manOwned x.image) bit

/-- Some accepted image owns a resource bit. -/
def anyOwns (s : State) (bit : Nat) : Bool := (ptList s).any fun p => imageOwns s p bit

/-- The life-cycle state: the target of the last transition whose DONE mark is set (R419). -/
def lcState (h : Heartwood) : LcState :=
  if h.lcDone.getLsbD 4 then .scrapped
  else if h.lcDone.getLsbD 3 then .returned
  else if h.lcDone.getLsbD 2 then .deployed
  else if h.lcDone.getLsbD 1 then .provisioned
  else if h.lcDone.getLsbD 0 then .assembled
  else .wafer

/-- The rights that a life-cycle state grants at J6 (Table 15-3), by the bit of a token's scope (R426). -/
inductive J6Right where
  | debug | trace | scan
deriving DecidableEq, Repr

/-- The bit of a debug token's scope byte. -/
def J6Right.bit : J6Right → Nat
  | .debug => 0
  | .trace => 1
  | .scan => 2

/-- A J6 right is open: in PROVISIONED and DEPLOYED by a token, else always, but closed from the ASSEMBLED to PROVISIONED
transition to the next module reset (Tables 15-3, 15-4, R426). -/
def j6Open (h : Heartwood) (r : J6Right) : Bool :=
  match lcState h with
  | .provisioned => h.debugOpen && h.scope.getLsbD r.bit
  | .deployed => h.debugOpen && h.scope.getLsbD r.bit
  | .wafer => !h.scanClosed
  | .assembled => !h.scanClosed
  | .returned => !h.scanClosed
  | .scrapped => !h.scanClosed

/-- The boundary-scan instructions that J6 takes. -/
inductive BoundaryScan where
  | all | sample | idcode
deriving DecidableEq, Repr

/-- The Boundary scan column of Table 15-3: all instructions; in PROVISIONED and DEPLOYED IDCODE and BYPASS, with SAMPLE/PRELOAD
and EXTEST in the Seedling stage only. -/
def boundaryScan (s : State) : BoundaryScan :=
  match lcState s.hw with
  | .provisioned => if s.pwr.stage = .seedling then .sample else .idcode
  | .deployed => if s.pwr.stage = .seedling then .sample else .idcode
  | .wafer => .all
  | .assembled => .all
  | .returned => .all
  | .scrapped => .all

/-- J6 trace is open (R501). -/
def traceOpen (s : State) : Bool := j6Open s.hw .trace

/-- TRACE_CLK and the trace data pins toggle; at all other times they hold low (R501). -/
def State.traceToggles (s : State) : Bool := s.powered && s.cmb.trace && traceOpen s

/-- A grant of trace that has ended ends the trace (R501). -/
def State.endTrace (s : State) : State := { s with cmb := { s.cmb with trace := s.cmb.trace && traceOpen s } }

/-- Enabling TRACE_CLK through J6: ignored with PIN_CONFLICT where BEAT_OUT owns the pins, and refused alike where an image owns
either function of the pins (R48, Table 18-9). -/
def traceEnableEffect (s : State) : State :=
  if !s.powered || !traceOpen s then s
  else if s.cmb.beatOut || anyOwns s 1 || anyOwns s 2 then s.event .cmb 5
  else { s with cmb := { s.cmb with trace := true } }

/-! ## Meanings -/

def execTrefLost (s : State) := checked .trefLost s (trefLostEffect s)
def execPllLockLost (s : State) := checked .pllLockLost s (pllLockLostEffect s)
def execHoldoverEnd (s : State) := checked .holdoverEnd s (holdoverEndEffect s)
def execTrefStable (s : State) := checked .trefStable s (trefStableEffect s)
def execPllLockDone (s : State) := checked .pllLockDone s (pllLockDoneEffect s)
def execBeatInFrame (w : List Nat) (s : State) := checked (.beatInFrame w) s (beatInFrameEffect w s)
def execBeatInLost (s : State) := checked .beatInLost s (beatInLostEffect s)
def execBeatMarker (n : Nat) (r : List Byte) (b : DWord) (o : Int) (s : State) :=
  checked (.beatMarker n r b o) s (beatMarkerEffect n r b o s)
def execMarkerLost (s : State) := checked .markerLost s (markerLostEffect s)
def execFlywheelLimit (s : State) := checked .flywheelLimit s (flywheelLimitEffect s)
def execDelayRequest (n : Nat) (r : List Byte) (b : DWord) (o : Int) (s : State) :=
  checked (.delayRequest n r b o) s (delayRequestEffect n r b o s)
def execDelayReply (n : Nat) (r : List Byte) (b : DWord) (o : Int) (s : State) :=
  checked (.delayReply n r b o) s (delayReplyEffect n r b o s)
def execRootStart (s : State) := checked .rootStart s (rootStartEffect s)
def execBeatInEdge (o : Int) (s : State) := checked (.beatInEdge o) s (beatInEdgeEffect o s)
def execTraceEnable (s : State) := checked .traceEnable s (traceEnableEffect s)

end Sys2Proof.Machine
end

