-- ==== Sys2Proof/Machine/Sessions.lean ====
section
/-!
DEFINITION. SPDM sessions and Heartwood's answers (14, 15): what a session holds, what its end does, measurements;
the key regions and the close of a tenancy that a session's end brings about.
-/

namespace Sys2Proof.Machine

/-! ## Keys of outer memory (R237, R248, Table 15-2) -/

/-- A key ID that no region holds, the lowest. -/
def freeKid (s : State) : Nat :=
  ((List.range 256).find? fun k => !(s.mb.kids.any fun e => e.1 == k)).getD 255

/-- A free key ID whose bit 0 differs from that of k (R249). -/
def freeKidOpposite (s : State) (k : Nat) : Nat :=
  ((List.range 256).find? fun i => i % 2 ≠ k % 2 && !(s.mb.kids.any fun e => e.1 == i)).getD 255

/-- Derive the 768-bit key of a key ID: kdf(BK, "QZ OUTER", k ‖ N, 768) (Table 15-2). -/
def State.newKid (s : State) (k : Nat) : State :=
  let d := s.draw
  let key := kdf (keyBytes (s.hw.bk.getD 0)) "QZ OUTER" (BitVec.ofNat 8 k :: keyBytes d.1) 768
  { d.2 with mb := { d.2.mb with kids := minsert d.2.mb.kids k (BitVec.ofNat 768 (leNat key)) } }

/-- Retire a key ID: its key is destroyed (R416). -/
def State.retireKid (s : State) (k : Nat) : State :=
  { s with mb := { s.mb with kids := merase s.mb.kids k } }

def State.region (s : State) (r : Nat) : Region := mget {} s.mb.regions r
def State.setRegion (s : State) (r : Nat) (x : Region) : State :=
  { s with mb := { s.mb with regions := mput {} s.mb.regions r x } }

/-- A region with no prior contents gets a fresh key ID and enters INIT (Table 9-7). -/
def State.initRegion (s : State) (r : Nat) : State :=
  let k := freeKid s
  let s := s.newKid k
  let x := s.region r
  s.setRegion r { x with st := .init, kid := k, prev := k, progress := 0, defMajor := 0, defMinor := 0,
                         wasExhausted := false, rotate := false, sweeping := false }

/-- The key-region numbers of a partition (Table 9-8). -/
def regionsOf (p : Nat) : List Nat := (List.range 16).map (16 * p + ·)

/-- A party's regions are retired and pass through INIT again under fresh key IDs (R434). -/
def State.rekeyParty (s : State) (p party : Nat) : State :=
  s.each (regionsOf p) fun s r =>
    let x := s.region r
    if x.st ≠ .unused ∧ x.party = party then ((s.retireKid x.kid).retireKid x.prev).initRegion r else s

/-! ## The end of a session (R374) -/

/-- Advance a handle's tag: FFFFh is followed by 0001h (14, "Contexts"). -/
def nextTag (t : Nat) : Nat := if t = 0xFFFF then 1 else t + 1

/-! ## The context and fence tables in host memory (R381, R401; the private formats: DESIGN CHOICE, log entry 40) -/

/-- The nonce of a table entry: its index and its on-die version. -/
def tableNonce (i ver : Nat) : List Byte := toLE 4 i ++ toLE 8 ver

/-- The context-table entry of an index as its current version stands in host memory: 112 bytes and the tag. -/
def ctxSealed (s : State) (i : Nat) : Sealed :=
  let x := s.ctx i
  Config.gcmSeal (s.hw.ctxKey.getD 0) (tableNonce i (mget 0 s.hif.ctxVer i)) []
    (padTo 112 (Config.ctxEntry [b2n x.live, x.tag, x.session.toNat, x.pt, x.objTable, x.saveBase]))

/-- The fence-table entry of an index: 16 bytes and the tag. -/
def fenceSealed (s : State) (i : Nat) : Sealed :=
  let f := s.fence i
  Config.gcmSeal (s.hw.fenceKey.getD 0) (tableNonce i (mget 0 s.hif.fenceVer i)) []
    (padTo 16 (Config.fenceEntry [b2n f.live, f.tag, f.session.toNat, f.gen.toNat, b2n f.signalled, f.dropped.toNat]))

/-- Write an entry to its table under its next version (R381). -/
def State.storeCtx (s : State) (i : Nat) : State :=
  let s := { s with hif := { s.hif with ctxVer := mput 0 s.hif.ctxVer i (mget 0 s.hif.ctxVer i + 1) } }
  let c := ctxSealed s i
  s.emitPcie (.hostWrite ((s.hif.ctxBaseHi ++ s.hif.ctxBaseLo).toNat + 128 * i) (c.1 ++ toBE 16 c.2.toNat))

def State.storeFence (s : State) (i : Nat) : State :=
  let s := { s with hif := { s.hif with fenceVer := mput 0 s.hif.fenceVer i (mget 0 s.hif.fenceVer i + 1) } }
  let c := fenceSealed s i
  s.emitPcie (.hostWrite ((s.hif.fenceBaseHi ++ s.hif.fenceBaseLo).toNat + 32 * i) (c.1 ++ toBE 16 c.2.toNat))

/-- Destroy a context and every object of it (R374, R386). -/
def State.destroyCtx (s : State) (c : Nat) : State :=
  let x := s.ctx c
  let s := s.setCtx c { tag := nextTag x.tag, pt := x.pt, freedAt := s.hif.tick }
  ({ s with hif := { s.hif with tick := s.hif.tick + 1 } }).storeCtx c

/-- Destroy a fence (R374, R402). -/
def State.destroyFence (s : State) (i : Nat) : State :=
  let x := s.fence i
  let s := s.setFence i { tag := nextTag x.tag, freedAt := s.hif.tick }
  ({ s with hif := { s.hif with tick := s.hif.tick + 1 } }).storeFence i

/-- Abandon what a queue has fetched and move it to DISABLED (R368, R374). A running step goes on without completion; a
step only selected and a load under way are dropped. -/
def State.stopQueue (s : State) (q : Nat) : State :=
  let x := s.queue q
  let s := s.setQueue q { x with st := .disabled, cmd := none, held := none, notices := [], lost := 0, err := 0 }
  s.each (List.range 4) fun s p => s.updPart p fun y =>
    { y with cur := y.cur.map fun r => if r.queue = q then { r with silent := true } else r,
             sel := y.sel.filter fun r => r.queue ≠ q,
             load := y.load.filter fun l => l.queue ≠ q,
             slotA := match y.load with
                      | some l => if l.queue = q ∧ !l.slot then {} else y.slotA
                      | none => y.slotA,
             slotB := match y.load with
                      | some l => if l.queue = q ∧ l.slot then {} else y.slotB
                      | none => y.slotB }

/-- The queues that HIF_QS_SESSION binds to a session. -/
def sessionQueues (s : State) (id : Nat) : List Nat :=
  (List.range 48).filter fun q => (s.queue q).session.toNat = id ∧ (s.queue q).st ≠ .disabled

/-- The session that a queue's register names has ended: the next one is another, the slot's last SEQ is zero, and the queue
is no session's notice queue (R377, R404). -/
def Queue.forget (x : Queue) (id : Nat) : Queue :=
  if x.session.toNat = id then { x with lastSeq := 0, anySeq := true, notice := false, notices := [], lost := 0 } else x

/-- A session ends: its keys, contexts, objects and fences are destroyed, its queues stop; the log entry names the partition of
a bound session (R374, R377, R520). -/
def State.endSessionRaw (s : State) (id : Nat) : State :=
  let pt := ((s.session id).pt).getD 0xFF
  if !(s.session id).live then s
  else
    let s := s.each (sessionQueues s id) State.stopQueue
    let s := s.each (List.range 48) fun s q => s.updQueue q fun x => x.forget id
    let s := s.each ((s.hif.ctxs.filter fun e => e.2.live && e.2.session.toNat == id).map (·.1)) State.destroyCtx
    let s := s.each ((s.hif.fences.filter fun e => e.2.live && e.2.session.toNat == id).map (·.1)) State.destroyFence
    let s := s.setSession id {}
    let s := { s with hw := { s.hw with msgs := s.hw.msgs.filter fun m => m.1 ≠ id } }
    s.event .hif 1 pt

/-- Bind or unbind a party's session in its tenancy. -/
def State.setParty (s : State) (p i : Nat) (f : PartyRec → PartyRec) : State :=
  s.updTen p fun t => { t with parties := mput {} t.parties i (f (mget {} t.parties i)) }

/-- The sessions bound to a partition's tenancy. -/
def tenantSessions (s : State) (p : Nat) : List Nat :=
  (s.sessions.filter fun e => e.2.live && e.2.pt == some p).map (·.1)

/-- Close a tenancy: every session of it ends and the partition enters CLOSING (R439, Table 15-5). A selected step that
has not started is dropped without an outcome. -/
def State.closeTenancy (s : State) (p : Nat) : State :=
  if (s.tenancy p).st = .opened then
    let s := s.each (tenantSessions s p) State.endSessionRaw
    let s := s.updPart p fun y => { y with sel := none }
    s.updTen p fun t => { t with
      st := .closing, parties := t.parties.map fun e => (e.1, { e.2 with session := none }) }
  else s

/-- A session ends, with what that does to its tenancy: party 0's end closes it (R435), another party leaves (R434). -/
def State.endSession (s : State) (id : Nat) : State :=
  let x := s.session id
  if !x.live then s
  else
    match x.pt with
    | none => s.endSessionRaw id
    | some p =>
      if x.party = 0 then s.closeTenancy p
      else
        let s := (s.endSessionRaw id).setParty p x.party fun r => { r with session := none }
        s.rekeyParty p x.party

/-- Every session ends (R368, R426). -/
def State.endAllSessions (s : State) : State := s.each ((s.sessions.filter fun e => e.2.live).map (·.1)) State.endSession

/-! ## Function level reset (R368, R435) -/

/-- FLR: every session ends, every tenancy closes, every queue is DISABLED; running steps go on silently. -/
def functionLevelResetEffect (s : State) : State :=
  if !s.powered then s
  else
    let s := s.endAllSessions
    let s := s.each (List.range 4) State.closeTenancy
    s.each (List.range 48) State.stopQueue

/-! ## Measurements (R437, Table 15-6) -/

/-- LC_STATE's code (Table 15-10). -/
def LcState.code : LcState → Nat
  | .wafer => 0
  | .assembled => 1
  | .provisioned => 2
  | .deployed => 3
  | .returned => 4
  | .scrapped => 5

/-- SEC_PT_STATE.STATE's code (Table 15-14). -/
def TenSt.code : TenSt → Nat
  | .none => 0
  | .opened => 1
  | .closing => 2
  | .scrubbing => 3

/-- DS_BANK (Table 15-10). -/
def dsBank (h : Heartwood) : Nat :=
  if h.bankA.allOnes && h.bankB.allOnes then 3
  else if h.bankA.valid then 1
  else if h.bankB.valid then 2
  else 0

/-- The bits of a list of numbers. -/
def maskOf (l : List Nat) : Nat := l.foldl (fun m i => Nat.lor m (2 ^ i)) 0

/-- Mask of declared parties, bit 0 while a tenancy is open (Table 15-14). -/
def declaredMask (t : Tenancy) : Nat :=
  if t.st = .none ∨ t.st = .scrubbing then 0
  else Nat.lor 1 (maskOf ((List.range 8).filter fun i => (mget {} t.parties i : PartyRec).declared))

/-- Mask of bound parties (Table 15-14). -/
def joinedMask (t : Tenancy) : Nat :=
  if t.st = .none ∨ t.st = .scrubbing then 0
  else maskOf ((List.range 8).filter fun i => (mget {} t.parties i : PartyRec).session.isSome)

/-- Job fingerprint: the first 16 bytes of kdf(job key, "QZ JOB FPR", empty, 256) (Table 15-2). -/
def jobFingerprint (t : Tenancy) : List Byte :=
  match t.jobKey with
  | some k => (kdf (keyBytes k) "QZ JOB FPR" [] 256).take 16
  | none => zeros 16

/-- Mode of an absolute port in a partition's measurement: 0 unused, 1 native, 2 Pucor, 3 Yelger. -/
def portModeByte (s : State) (p n : Nat) : Byte :=
  if (ptPorts s p).contains n then BitVec.ofNat 8 ((s.port n).mode + 1) else 0

/-- Blocks 8 to 11 (Table 15-6). -/
def ptMeasurement (s : State) (p : Nat) : List Byte :=
  let t := s.tenancy p
  let hash (i : Nat) : List Byte :=
    if i ≠ 0 ∧ (mget {} t.parties i : PartyRec).declared then
      (toBE 64 (mget {} t.parties i : PartyRec).keyHash.toNat).take 16
    else zeros 16
  toLE 1 (maskOf (ptGroves s p)) ++ toLE 2 (maskOf (ptStacks s p)) ++ toLE 1 (maskOf (ptPorts s p)) ++
    (List.range 8).map (portModeByte s p) ++ toLE 1 t.st.code ++ toLE 1 (declaredMask t) ++ toLE 1 (joinedMask t) ++
    [0] ++ jobFingerprint t ++ (List.range 8).flatMap hash

/-- Measurement block i (Table 15-6). -/
def measurement (s : State) (i : Nat) : List Byte :=
  match i with
  | 1 => toBE 64 Config.bootRomDigest.toNat
  | 2 => toBE 64 s.hw.bundle.toNat
  | 3 => toLE 1 s.hw.svnFuses
  | 4 => toLE 1 (b2n s.hw.locked) ++ toBE 64 s.hw.lockDigest.toNat
  | 5 => toLE 1 (b2n s.hw.testRoot) ++ toLE 1 (b2n s.hw.debugOpen) ++ [s.hw.scope] ++ toLE 1 (dsBank s.hw) ++
      toLE 1 s.hw.tamperFuses ++ zeros 3
  | 6 => toLE 1 (lcState s.hw).code ++ toLE 2 (s.hw.lcBegin.toNat + 32 * s.hw.lcDone.toNat) ++ [0]
  | 7 => toLE 1 s.cfg.layout ++ toLE 2 s.variant.part ++ [0]
  | 8 => ptMeasurement s 0
  | 9 => ptMeasurement s 1
  | 10 => ptMeasurement s 2
  | 11 => ptMeasurement s 3
  | _ => []

/-- The alias certificate: the bundle's digest, the security version and AK's public key, signed with IK (R436). -/
def aliasCert (s : State) : List Byte :=
  let body := toBE 64 s.hw.bundle.toNat ++ toLE 1 s.hw.bundleSvn ++ Config.p521Public (s.hw.ak.getD 0)
  body ++ Config.ecdsaSign (s.hw.ik.getD 0) (Config.sha512 body)

/-- The identity certificate of module flash, where Heartwood takes it: its public key is that of the IK now derived, and in
DEPLOYED its SHA-512 is the fused value (R436). -/
def identityCert (s : State) : Option IdCert :=
  s.cnp.idCert.filter fun c => c.key == s.ikPub &&
    (lcState s.hw != .deployed || s.hw.certFuse == some (Config.sha512 c.der))

/-- The chain of slot 0; without a matching certificate the identity position is left out (R436). -/
def certChain (s : State) : List Byte :=
  Config.certChain s.hw.testRoot ++
    (match identityCert s with
      | some c => c.der
      | none => []) ++ aliasCert s

/-- No identity certificate matches in PROVISIONED: DIGESTS, CERTIFICATE and KEY_EXCHANGE answer Unspecified (R436). -/
def noCert (s : State) : Bool := lcState s.hw == .provisioned && (identityCert s).isNone

/-- An answer of AK over a nonce and a body (R436). -/
def akSigned (s : State) (nonce : Key) (body : List Byte) : List Byte :=
  let b := body ++ keyBytes nonce
  b ++ Config.ecdsaSign (s.hw.ak.getD 0) (Config.sha512 b)

/-! ## SPDM requests (R369 to R371; the wire codes are those of SPDM 1.2, PRESUMED, log entry 22) -/

/-- An SPDM ERROR response with a code. -/
def State.spdmError (s : State) (code : Byte) : State := s.emitPcie (.spdm 0x7F [code])

/-- Heartwood has booted and answers. -/
def State.spdm (s : State) (f : State → State) : State := if s.rooted && s.hw.booted then f s else s

def getVersionEffect (s : State) : State := s.spdm fun s => s.emitPcie (.spdm 0x04 [0x00, 0x12])
def getCapabilitiesEffect (s : State) : State := s.spdm fun s => s.emitPcie (.spdm 0x61 [])

/-- The one algorithm set (R369). -/
def algorithmSet : List Byte :=
  ascii "ECDSA-P521" ++ [0] ++ ascii "SHA-512" ++ [0] ++ ascii "SECP521R1" ++ [0] ++ ascii "AES-256-GCM" ++ [0] ++
    ascii "SPDM"

def negotiateAlgorithmsEffect (s : State) : State := s.spdm fun s => s.emitPcie (.spdm 0x63 algorithmSet)

def getDigestsEffect (s : State) : State :=
  s.spdm fun s =>
    if noCert s then s.spdmError 0x05 else s.emitPcie (.spdm 0x01 (toBE 64 (Config.sha512 (certChain s)).toNat))

def getCertificateEffect (slot offset length : Nat) (s : State) : State :=
  s.spdm fun s =>
    if slot ≠ 0 then s.spdmError 0x01
    else if noCert s then s.spdmError 0x05
    else s.emitPcie (.spdm 0x02 (((certChain s).drop offset).take length))

def challengeEffect (nonce : Key) (s : State) : State :=
  s.spdm fun s => s.emitPcie (.spdm 0x03 (akSigned s nonce (toBE 64 (Config.sha512 (certChain s)).toNat)))

/-- GET_MEASUREMENTS of one block, or of all for index FFh, signed with AK (R436, R437). -/
def getMeasurementsEffect (index : Nat) (nonce : Key) (s : State) : State :=
  s.spdm fun s =>
    if index = 0 then s.emitPcie (.spdm 0x60 [11])
    else if index = 0xFF then
      s.emitPcie (.spdm 0x60 (akSigned s nonce ((List.range 11).flatMap fun i => measurement s (i + 1))))
    else if index ≤ 11 then s.emitPcie (.spdm 0x60 (akSigned s nonce (measurement s index)))
    else s.spdmError 0x01

/-- Sessions that Heartwood holds (R370). -/
def openSessions (s : State) : Nat := (s.sessions.filter fun e => e.2.live).length

/-- KEY_EXCHANGE: at most 32 sessions (R370). -/
def keyExchangeEffect (id : Nat) (s : State) : State :=
  s.spdm fun s =>
    if noCert s then s.spdmError 0x05
    else if 32 ≤ openSessions s then s.spdmError 0x0A
    else if (s.session id).live then s.spdmError 0x01
    else (s.setSession id { live := true }).emitPcie (.spdm 0x64 (toLE 4 id))

/-- FINISH: the four host-path keys from the export master secret (R371). -/
def finishEffect (id : Nat) (ok : Bool) (secret transcript : Digest) (s : State) : State :=
  s.spdm fun s =>
    let x := s.session id
    if !x.live || x.finished then s.spdmError 0x01
    else if !ok then (s.setSession id {}).spdmError 0x06
    else
      let m := toBE 64 secret.toNat
      let s := s.setSession id { x with
        finished := true, transcript, h2dRing := kdf256 m "QZ H2D RING" [], h2dData := kdf256 m "QZ H2D DATA" [],
        d2hRing := kdf256 m "QZ D2H RING" [], d2hData := kdf256 m "QZ D2H DATA" [], outCtr := 0 }
      s.emitPcie (.spdm 0x65 [])

def heartbeatEffect (id : Nat) (s : State) : State :=
  s.spdm fun s => if (s.session id).finished then s.emitPcie (.spdm 0x68 []) else s.spdmError 0x01

/-- KEY_UPDATE changes only the keys of secured messages, none of the four (R371). -/
def keyUpdateEffect (id : Nat) (s : State) : State :=
  s.spdm fun s => if (s.session id).finished then s.emitPcie (.spdm 0x69 []) else s.spdmError 0x01

def endSessionEffect (id : Nat) (s : State) : State :=
  s.spdm fun s =>
    if (s.session id).live then (s.endSession id).emitPcie (.spdm 0x6C []) else s.spdmError 0x01

def unsupportedRequestEffect (s : State) : State := s.spdm fun s => s.spdmError 0x07

/-! ## Meanings -/

def execFunctionLevelReset (s : State) := checked .functionLevelReset s (functionLevelResetEffect s)
def execGetVersion (s : State) := checked .getVersion s (getVersionEffect s)
def execGetCapabilities (s : State) := checked .getCapabilities s (getCapabilitiesEffect s)
def execNegotiateAlgorithms (s : State) := checked .negotiateAlgorithms s (negotiateAlgorithmsEffect s)
def execGetDigests (s : State) := checked .getDigests s (getDigestsEffect s)
def execGetCertificate (a b c : Nat) (s : State) := checked (.getCertificate a b c) s (getCertificateEffect a b c s)
def execChallenge (n : Key) (s : State) := checked (.challenge n) s (challengeEffect n s)
def execGetMeasurements (i : Nat) (n : Key) (s : State) :=
  checked (.getMeasurements i n) s (getMeasurementsEffect i n s)
def execKeyExchange (i : Nat) (s : State) := checked (.keyExchange i) s (keyExchangeEffect i s)
def execFinish (i : Nat) (ok : Bool) (k t : Digest) (s : State) :=
  checked (.finish i ok k t) s (finishEffect i ok k t s)
def execHeartbeat (i : Nat) (s : State) := checked (.heartbeat i) s (heartbeatEffect i s)
def execKeyUpdate (i : Nat) (s : State) := checked (.keyUpdate i) s (keyUpdateEffect i s)
def execEndSession (i : Nat) (s : State) := checked (.endSession i) s (endSessionEffect i s)
def execUnsupportedRequest (c : Nat) (s : State) := checked (.unsupportedRequest c) s (unsupportedRequestEffect s)

end Sys2Proof.Machine
end

