-- ==== Sys2Proof/Machine/Queues.lean ====
section
/-!
DEFINITION. Rings, doorbells, handles, fences, completions and notices (14): the machinery that every ring command
uses, and the commands that touch queues, contexts, objects and fences alone.
-/

namespace Sys2Proof.Machine

/-! ## Fields of a command body (R379, Table 14-6) -/

def opOf (b : List Byte) : Nat := getLE b 0 1
def flagsOf (b : List Byte) : Nat := getLE b 1 1
def opflagsOf (b : List Byte) : Nat := getLE b 2 1
def sigFenceOf (b : List Byte) : Nat := getLE b 88 4
def sigGenOf (b : List Byte) : Nat := getLE b 92 4

/-- The device is halted (R244, R412). -/
def State.isHalted (s : State) : Bool := s.mb.halted || s.hw.halted

/-- The live context to which a queue is bound: one destroyed since, or one made since at its index, is none (R374,
R388). -/
def liveCtx (s : State) (q : Nat) : Option Nat :=
  (s.queue q).ctx.filter fun c => (s.ctx c).live && (s.ctx c).tag == (s.queue q).ctxTag

/-- The partition of the context to which BIND bound a queue, also once that context is destroyed (R408). -/
def queuePt (s : State) (q : Nat) : Option Nat := (s.queue q).ctx.map fun _ => (s.queue q).ctxPt

/-- The partition of the queue's context is scrubbing (R408, R515). -/
def queueScrubs (s : State) (q : Nat) : Bool :=
  match queuePt s q with
  | some p => (s.tenancy p).st == .scrubbing
  | none => false

/-- Entries of a ring (R375). -/
def ringSize (k : Nat) : Nat := 2 ^ (k + 6)

/-- A queue's MSI-X vector (Table 14-14: reset q). -/
def vectorOf (s : State) (q : Nat) : Nat := (s.queue q).vector.getD q

/-! ## Completions (R378, R380, Table 14-8) -/

/-- A completion body of 40 bytes (Table 14-8). -/
def compBody (kind status code flags tier op xflags : Nat) (subSeq : DWord) (v0 v1 : Nat) (iv : DWord) : List Byte :=
  toLE 1 kind ++ toLE 1 status ++ toLE 2 code ++ toLE 1 flags ++ toLE 1 tier ++ toLE 1 op ++ toLE 1 xflags ++
    toLE 8 subSeq.toNat ++ toLE 8 v0 ++ toLE 8 v1 ++ toLE 8 iv.toNat

/-- Hold a queue's completion until it is written; ok says whether it signals without SIG_ANY (R379). -/
def State.hold (s : State) (q : Nat) (body : List Byte) (ok : Bool) : State :=
  s.updQueue q fun x =>
    let cmd := match x.cmd with
               | some c => c.body
               | none => []
    { x with held := some {
        body, irq := bitAt (flagsOf cmd) 1, signals := ok || bitAt (flagsOf cmd) 0,
        sigFence := BitVec.ofNat 32 (sigFenceOf cmd), sigGen := BitVec.ofNat 32 (sigGenOf cmd),
        session := x.session } }

/-- A status of 10h or above: an ENABLED or STOPPING queue goes to ERROR, with ERR, the event and the vector (R380). -/
def State.queueError (s : State) (q : Nat) (status : Byte) : State :=
  if (s.queue q).st = .enabled ∨ (s.queue q).st = .stopping then
    let s := s.updQueue q fun x => { x with st := .error, err := status }
    (s.event .hif 0 0xFF [BitVec.ofNat 8 q, status]).raiseVec (vectorOf s q)
  else s

/-- A command completes with a status and two values (R380, Table 14-7). -/
def State.finishCmd (s : State) (q : Nat) (status : Nat) (v0 : Nat := 0) (v1 : Nat := 0) (iv : DWord := 0) : State :=
  let c := (s.queue q).cmd
  let seq := match c with
             | some c => c.seq
             | none => 0
  let op := match c with
            | some c => opOf c.body
            | none => 0
  let s := s.hold q (compBody 3 status 0 0 0 op 0 seq v0 v1 iv) (status == 0)
  let s := if status = 0x13 ∨ status = 0x14 then
      { s with hif := { s.hif with denied := satSucc s.hif.denied } } else s
  if 0x10 ≤ status then s.queueError q (BitVec.ofNat 8 status) else s

/-- The completion ring has room: the position after the next entry differs from the CQ_HEAD by which the device acts (R378,
R514). -/
def ringRoom (x : Queue) : Bool := (x.ctail + 1) % ringSize x.cqK != x.cqSeen % ringSize x.cqK

/-- The nonce of a ring entry: SEQ in bytes 0–7, the slot number in byte 8 (Table 14-2). -/
def ringNonce (seq : DWord) (q : Nat) : List Byte := toLE 8 seq.toNat ++ toLE 1 q ++ zeros 3

/-- Write one completion entry of 64 bytes at the completion tail (R378, Table 14-5). -/
def State.writeEntry (s : State) (q : Nat) (key : Key) (body : List Byte) : State :=
  let x := s.queue q
  let seq := x.compNo + 1
  let header := toLE 8 (seq.toNat % 2 ^ 63 + b2n x.phase * 2 ^ 63)
  let sealed := Config.gcmSeal key (ringNonce seq q) header body
  let size := ringSize x.cqK
  let next := (x.ctail + 1) % size
  let s := s.emitPcie (.hostWrite (x.cqBase.toNat + 64 * x.ctail) (header ++ sealed.1 ++ toBE 16 sealed.2.toNat))
  s.setQueue q { x with compNo := seq, ctail := next, phase := if next = 0 then !x.phase else x.phase }

/-! ## Fences (R396 to R400) -/

/-- Generation a is newer than b (R396). -/
def newer (a b : Word) : Bool :=
  let d := (a - b).toNat
  decide (1 ≤ d) && decide (d ≤ 2 ^ 31 - 1)

/-- A signal of generation g: the fence after it, and whether it was dropped (R397). -/
def Fence.signal (f : Fence) (g : Word) : Fence × Bool :=
  if newer g f.gen then ({ f with gen := g, signalled := true }, false)
  else if g = f.gen ∧ !f.signalled then ({ f with signalled := true }, false)
  else ({ f with dropped := satSucc f.dropped }, true)

/-- An ARM of generation g (R398). -/
def Fence.armed (f : Fence) (g : Word) : Fence × Bool :=
  if newer g f.gen then ({ f with gen := g, signalled := false }, false)
  else ({ f with dropped := satSucc f.dropped }, true)

/-- A WAIT for generation g is satisfied (R399). -/
def Fence.satisfies (f : Fence) (g : Word) : Bool :=
  (g == f.gen && f.signalled) || (g != f.gen && !newer g f.gen)

/-- a applies before b at one fence in one beat: older generation first, an ARM before a SIGNAL (R400). -/
def FenceArr.before (a b : FenceArr) : Bool :=
  if a.gen = b.gen then a.arm && !b.arm else newer b.gen a.gen

/-- Arrivals in the order in which they apply; those of different fences do not meet. -/
def insertArr (a : FenceArr) : List FenceArr → List FenceArr
  | [] => [a]
  | b :: bs => if b.fence = a.fence ∧ a.before b then a :: b :: bs else b :: insertArr a bs

/-- Arrivals sorted at each fence (R400). -/
def sortArr (l : List FenceArr) : List FenceArr := l.foldl (fun acc a => insertArr a acc) []

/-- Apply one arrival; a FENCE_OP completes with OK, or STALE_SIGNAL for a dropped SIGNAL (R397). -/
def State.applyArr (s : State) (a : FenceArr) : State :=
  let f := s.fence a.fence
  if !f.live then s
  else
    let r := if a.arm then f.armed a.gen else f.signal a.gen
    let s := (s.setFence a.fence r.1).storeFence a.fence
    match a.op with
    | some q => if (s.queue q).cmd.isSome then s.finishCmd q (if r.2 && !a.arm then 2 else 0) else s
    | none => s

/-- Order 2: every arrival of the beat takes effect (R400). -/
def State.applyFences (s : State) : State :=
  let l := sortArr s.hif.arrivals
  ({ s with hif := { s.hif with arrivals := [] } }).each l State.applyArr

/-- A signal of a fence handle becomes visible in this beat; handle zero names nothing. -/
def State.signalFence (s : State) (handle : Nat) (gen : Word) : State :=
  if handle = 0 ∨ (s.fence (field handle 0 12)).tag ≠ field handle 16 16 ∨ !(s.fence (field handle 0 12)).live then s
  else { s with hif := { s.hif with
    arrivals := s.hif.arrivals ++ [{ fence := field handle 0 12, arm := false, gen, op := none }] } }

/-- A WAIT in a queue: fence index and generation. -/
def waitOf (x : Queue) : Option (Nat × Word) :=
  match x.cmd with
  | some c => if opOf c.body = 4 ∧ c.busy ∧ x.held = none then
      some (getLE c.body 4 4 % 4096, BitVec.ofNat 32 (getLE c.body 8 4)) else none
  | none => none

/-- Order 2, after the arrivals: satisfied WAITs complete with OK, in the beat after (R399). -/
def State.satisfyWaits (s : State) : State :=
  s.each (List.range 48) fun s q =>
    match waitOf (s.queue q) with
    | some w => if (s.fence w.1).satisfies w.2 then s.finishCmd q 0 else s
    | none => s

/-! ## Notices (R404, R405, Table 14-10) -/

/-- Body of a notice entry. -/
def Notice.body (n : Notice) : List Byte :=
  [5] ++ toLE 1 n.kind ++ toLE 2 n.tensor ++ toLE 1 n.stack ++ zeros 3 ++ toLE 8 n.first ++ toLE 8 n.count ++
    toLE 8 n.step.toNat ++ zeros 8

/-- Queue a notice for one session's notice queue: at most 16 wait, further ones are counted (R405). -/
def State.noticeTo (s : State) (session : Nat) (n : Notice) : State :=
  match (List.range 48).find? (fun q => (s.queue q).notice && (s.queue q).session.toNat == session) with
  | some q => s.updQueue q fun x =>
      if x.notices.length < 16 then { x with notices := x.notices ++ [n] } else { x with lost := x.lost + 1 }
  | none => s

/-- A notice for every party of a partition (R217, R342, R404). -/
def State.notify (s : State) (pt : Nat) (n : Notice) : State :=
  s.each (tenantSessions s pt) fun s id => s.noticeTo id n

/-! ## Handles (R389) -/

/-- A context handle names a live context of the session. -/
def ctxHandle (s : State) (session : Word) (h : Nat) : Option Nat :=
  let i := field h 0 12
  let c := s.ctx i
  if h ≠ 0 ∧ field h 12 4 = 0 ∧ c.live ∧ c.tag = field h 16 16 ∧ c.session = session then some i else none

/-- A fence handle names a live fence of the session. -/
def fenceHandle (s : State) (session : Word) (h : Nat) : Option Nat :=
  let i := field h 0 12
  let f := s.fence i
  if h ≠ 0 ∧ field h 12 4 = 0 ∧ f.live ∧ f.tag = field h 16 16 ∧ f.session = session then some i else none

/-- The object at an index of a context. -/
def objAt (s : State) (c i : Nat) : Obj := mget {} (s.ctx c).objs i

def State.setObj (s : State) (c i : Nat) (o : Obj) : State :=
  s.updCtx c fun x => { x with objs := mput {} x.objs i o }

/-- An object handle names a live object of the queue's context; an index that an OBJ_FREE still holds back is none (R390). -/
def objHandle (s : State) (q h : Nat) : Option Obj :=
  match (s.queue q).ctx with
  | none => none
  | some c =>
    let o := objAt s c (field h 0 16)
    if h ≠ 0 ∧ o.live ∧ o.freeing = none ∧ o.tag = field h 16 16 then some o else none

/-- Object handles that a body names (Table 14-6); an optional handle of zero names nothing. -/
def objHandles (b : List Byte) : List Nat :=
  match opOf b with
  | 0x01 => [getLE b 36 4] ++ (if getLE b 48 4 = 0 then [] else [getLE b 48 4])
  | 0x02 => [getLE b 16 4]
  | 0x03 => [getLE b 4 4, getLE b 8 4]
  | 0x14 => [getLE b 4 4]
  | _ => []

/-- Fence handles that a body names, SIG_FENCE and TIMER_FENCE among them. -/
def fenceHandles (b : List Byte) : List Nat :=
  let own := match opOf b with
    | 0x04 => [getLE b 4 4]
    | 0x05 => [getLE b 4 4]
    | 0x06 => [getLE b 4 4]
    | 0x16 => [getLE b 4 4]
    | 0x01 => if getLE b 64 4 = 0 then [] else [getLE b 64 4]
    | _ => []
  own ++ (if sigFenceOf b = 0 then [] else [sigFenceOf b])

/-- Context handles that a body names. -/
def ctxHandles (b : List Byte) : List Nat :=
  match opOf b with
  | 0x11 => [getLE b 4 4]
  | 0x12 => [getLE b 4 4]
  | _ => []

/-- Every handle of the body matches its entry's tag (R389). -/
def handlesOk (s : State) (q : Nat) (b : List Byte) : Bool :=
  (objHandles b).all (fun h => (objHandle s q h).isSome) &&
    (fenceHandles b).all (fun h => (fenceHandle s (s.queue q).session h).isSome) &&
    (ctxHandles b).all (fun h => (ctxHandle s (s.queue q).session h).isSome)

/-! ## Admission of a command (R377, R379, R388, R430) -/

/-- The bytes of the body that Table 14-6 names for an OP, as (offset, size). -/
def bodyFields (op : Nat) : List (Nat × Nat) :=
  match op with
  | 0x01 => [(4, 1), (8, 8), (16, 8), (24, 8), (32, 4), (36, 4), (40, 8), (48, 4), (56, 8), (64, 4), (68, 4)]
  | 0x02 => [(4, 1), (8, 8), (16, 4), (24, 8), (32, 8)]
  | 0x03 => [(4, 4), (8, 4), (16, 8), (24, 8), (32, 8), (40, 8)]
  | 0x04 => [(4, 4), (8, 4), (16, 8)]
  | 0x05 => [(4, 4), (8, 4)]
  | 0x06 => [(4, 4)]
  | 0x10 => [(8, 8), (16, 8)]
  | 0x11 => [(4, 4), (8, 1)]
  | 0x12 => [(4, 4)]
  | 0x13 => [(4, 1), (5, 1), (8, 8), (16, 8), (24, 8)]
  | 0x14 => [(4, 4)]
  | 0x15 => [(8, 4)]
  | 0x16 => [(4, 4)]
  | 0x17 => [(4, 1)]
  | _ => []

/-- OPs of Table 14-6. -/
def knownOp (op : Nat) : Bool := decide (op ≤ 6) || (decide (0x10 ≤ op) && decide (op ≤ 0x17))

/-- OPFLAGS bit 0 is defined for the OP. -/
def opflagOp (op : Nat) : Bool := [0x01, 0x03, 0x05, 0x11, 0x15].contains op

/-- Every byte of bytes 3 to 87 that the table does not name is zero. -/
def reservedZero (b : List Byte) : Bool :=
  (List.range 85).all fun i =>
    let o := i + 3
    (bodyFields (opOf b)).any (fun f => decide (f.1 ≤ o) && decide (o < f.1 + f.2)) || getLE b o 1 == 0

/-- OPs that carry SIG_FENCE zero (R379). -/
def sigFree (op : Nat) : Bool := [0x04, 0x05, 0x06, 0x15, 0x16].contains op

/-- OPs that a queue bound to no context accepts (R379). -/
def unboundOp (op : Nat) : Bool := [0x00, 0x10, 0x11, 0x15, 0x16, 0x05, 0x06].contains op

/-- Ranges and alignments of single fields (Table 14-6, R375, R391, R394, Table 14-9). -/
def fieldsOk (b : List Byte) : Bool :=
  match opOf b with
  | 0x01 => decide (getLE b 4 1 ≤ 1) && getLE b 40 8 % 4096 == 0
  | 0x02 => decide (getLE b 4 1 ≤ 1) && getLE b 24 8 % 4096 == 0
  | 0x03 =>
    let toHost := bitAt (opflagsOf b) 0
    let hostOff := if toHost then getLE b 24 8 else getLE b 16 8
    let devOff := if toHost then getLE b 16 8 else getLE b 24 8
    hostOff % 4096 == 0 && devOff % 64 == 0 && getLE b 32 8 % 4096 == 0 && (!toHost || getLE b 40 8 == 0)
  | 0x10 => getLE b 8 8 % 4096 == 0 && getLE b 16 8 % 0x200000 == 0
  | 0x11 => decide (getLE b 8 1 ≤ 3)
  | 0x13 =>
    decide (getLE b 5 1 < 4) &&
      ((getLE b 4 1 == 1 && getLE b 8 8 % 4096 == 0 && getLE b 16 8 % 4096 == 0) ||
       (getLE b 4 1 == 2 && getLE b 8 8 % 64 == 0 && getLE b 24 8 == 0))
  | 0x17 => decide (getLE b 4 1 ≤ 15)
  | _ => true

/-- Only party 0's contexts accept LOAD and STEP (R430). -/
def partyOk (s : State) (q op : Nat) : Bool :=
  (op != 1 && op != 2) || (s.session (s.queue q).session.toNat).party == 0

/-- The command is accepted in the queue's state, else BAD_COMMAND (Table 14-7, 12h). -/
def bodyOk (s : State) (q : Nat) (b : List Byte) : Bool :=
  knownOp (opOf b) && decide (flagsOf b < 4) &&
    (if opflagOp (opOf b) then decide (opflagsOf b < 2) else opflagsOf b == 0) && reservedZero b &&
    (!sigFree (opOf b) || sigFenceOf b == 0) && ((liveCtx s q).isSome || unboundOp (opOf b)) &&
    fieldsOk b && partyOk s q (opOf b)

/-- An object serves a range with a right and a kind (R388); bit 0 device reads, bit 1 device writes. -/
def objGives (o : Obj) (kind bit off len : Nat) : Bool :=
  o.kind == kind && bitAt o.access bit && decide (off + len ≤ o.length)

/-- The handle's object gives what the command needs. -/
def handleGives (s : State) (q h kind bit off len : Nat) : Bool :=
  match objHandle s q h with
  | some o => objGives o kind bit off len
  | none => false

/-- Rights and ranges of a STEP and of a LOAD (R388, R394, R395). -/
def accessOkBody (s : State) (q : Nat) (b : List Byte) : Bool :=
  match opOf b with
  | 0x01 => handleGives s q (getLE b 36 4) 1 1 (getLE b 40 8) 139264 &&
      (getLE b 48 4 == 0 || handleGives s q (getLE b 48 4) 1 1 (getLE b 56 8) 0)
  | 0x02 => handleGives s q (getLE b 16 4) 1 0 (getLE b 24 8) (getLE b 32 8)
  | 0x03 =>
    if bitAt (opflagsOf b) 0 then
      handleGives s q (getLE b 4 4) 2 0 (getLE b 16 8) (getLE b 32 8) &&
        handleGives s q (getLE b 8 4) 1 1 (getLE b 24 8) (getLE b 32 8)
    else
      handleGives s q (getLE b 4 4) 1 0 (getLE b 16 8) (getLE b 32 8) &&
        handleGives s q (getLE b 8 4) 2 1 (getLE b 24 8) (getLE b 32 8)
  | _ => true

/-! ## Fetching an entry (R376, R377) -/

/-- The queue has an entry that it may fetch (R376, R378, R408; Table 16-4: only at Full). -/
def canFetch (s : State) (q : Nat) : Bool :=
  let x := s.queue q
  s.pwr.stage == .full && !s.isHalted && x.st == .enabled && x.cmd.isNone && x.held.isNone && ringRoom x &&
    x.head % ringSize x.sqK != x.sqTail % ringSize x.sqK && !queueScrubs s q

/-- The partition in whose name a queue is served: its session's; 4 stands for the sessions of no partition. -/
def servePt (s : State) (q : Nat) : Nat := ((s.session (s.queue q).session.toNat).pt).getD 4

/-- The queues of a partition that may fetch. -/
def wantServe (s : State) (p : Nat) : List Nat := (List.range 48).filter fun q => servePt s q == p && canFetch s q

/-- The partition that is served next: the one served last while its weight lasts, else the next that has an entry (R35;
the exact form of the round robin: DESIGN CHOICE, log entry 19). -/
def servedPt (s : State) : Option Nat :=
  let l := (List.range 5).map fun i => (s.hif.rrPt + 1 + i) % 5
  let again := if s.hif.rrLeft = 0 then l else s.hif.rrPt :: l
  again.find? fun p => !(wantServe s p).isEmpty

/-- The queue of a partition that is served next: the first after the one served last. -/
def servedQueue (s : State) (p : Nat) : Option Nat :=
  let last := mget 47 s.hif.rrLast p
  ((List.range 48).map fun i => (last + 1 + i) % 48).find? fun q => (wantServe s p).contains q

/-- It is the queue's turn to fetch (R35, R376). -/
def mayFetch (s : State) (q : Nat) : Bool :=
  canFetch s q && servedPt s == some (servePt s q) && servedQueue s (servePt s q) == some q

/-- A queue is served: its partition has one fetch less of its weight, the number of its groves (R35). -/
def State.serve (s : State) (q : Nat) : State :=
  let p := servePt s q
  let left := if s.hif.rrPt = p ∧ 0 < s.hif.rrLeft then s.hif.rrLeft - 1 else ptSize s p - 1
  { s with hif := { s.hif with rrPt := p, rrLeft := left, rrLast := mput 47 s.hif.rrLast p q } }

/-! ## Fences that a command names (R401, R402, R410) -/

/-- Fence indices that a step names (R401). -/
def stepFences (r : StepRun) : List Nat :=
  (if sigFenceOf r.body = 0 then [] else [sigFenceOf r.body % 4096]) ++
    (if r.timerFence = 0 then [] else [r.timerFence % 4096])

/-- The fence that a FENCE_CREATE has made, while its completion is held. -/
def createdFence (x : Queue) : List Nat :=
  match x.cmd, x.held with
  | some c, some h => if opOf c.body = 0x15 ∧ getLE h.body 1 1 = 0 then [getLE h.body 16 4 % 4096] else []
  | _, _ => []

/-- A queue's fetched command names a fence: its own or its SIG_FENCE; a STEP's TIMER_FENCE is named from the selection on
(R401). -/
def cmdNamesFence (s : State) (i q : Nat) : Bool :=
  match (s.queue q).cmd with
  | some c =>
    (if opOf c.body = 1 then decide (sigFenceOf c.body ≠ 0 ∧ sigFenceOf c.body % 4096 = i)
     else (fenceHandles c.body).any fun h => h % 4096 == i) || (createdFence (s.queue q)).contains i
  | none => false

/-- The fence is resident for a command other than queue q's (R401, R402). -/
def fenceResident (s : State) (i q : Nat) : Bool :=
  ((List.range 48).any fun j => j != q && cmdNamesFence s i j) ||
    (List.range 4).any fun p =>
      (match (s.part p).running with
       | some r => (stepFences r).contains i
       | none => false) ||
      (match (s.part p).sel with
       | some r => (stepFences r).contains i
       | none => false)

/-- A queue goes to ERROR with DATA_AUTH from any other state, since its context or fence was destroyed (R410); its command
completes with it. -/
def State.tableError (s : State) (q : Nat) : State :=
  let s := if (s.queue q).cmd.isSome ∧ (s.queue q).held = none then s.finishCmd q 0x15 else s
  if (s.queue q).st = .error then s.updQueue q fun x => { x with err := 0x15 }
  else (s.updQueue q fun x => { x with st := .enabled }).queueError q 0x15

/-- HIF_FENCE_BASE and HIF_CTX_BASE. -/
def fenceBase (s : State) : Nat := (s.hif.fenceBaseHi ++ s.hif.fenceBaseLo).toNat
def ctxBase (s : State) : Nat := (s.hif.ctxBaseHi ++ s.hif.ctxBaseLo).toNat

/-- A queue's fetched command names a fence in any field (R410). -/
def cmdHoldsFence (s : State) (i q : Nat) : Bool :=
  match (s.queue q).cmd with
  | some c => (fenceHandles c.body).any fun h => h % 4096 == i
  | none => false

/-- A fence becomes resident for queue q: its entry is read back unless it is resident already, and one that fails its tag
destroys the fence, which the log entry names by queue slot and partition (R401, R410, R520). -/
def State.readFence (s : State) (q i : Nat) (x : Sealed) : State :=
  if fenceResident s i q then s
  else
    let s := s.emitPcie (.hostRead (fenceBase s + 32 * i) 32)
    if x = fenceSealed s i then s
    else
      let qs := (List.range 48).filter (cmdHoldsFence s i)
      ((s.destroyFence i).event .hif 2 ((queuePt s q).getD 0xFF) [BitVec.ofNat 8 q]).each qs State.tableError

/-- The fence that a command names at its fetch; a STEP names its TIMER_FENCE from the selection on (R401). -/
def fetchFences (b : List Byte) : List Nat :=
  (if opOf b = 1 then (if sigFenceOf b = 0 then [] else [sigFenceOf b]) else fenceHandles b).map fun h => field h 0 12

/-- SEQ is the one that R377 expects. -/
def seqOk (x : Queue) (seq : DWord) : Bool :=
  if x.anySeq then decide (x.lastSeq.toNat < seq.toNat) else seq == x.lastSeq + 1

/-- The submission entry is authentic: the body gives its ciphertext and tag under the H2D RING key, with SEQ and eight zero
bytes as associated data (R372, R377, Tables 14-2 and 14-4). -/
def entryOk (s : State) (q : Nat) (seq : DWord) (body : List Byte) (x : Sealed) : Bool :=
  let y := s.session (s.queue q).session.toNat
  y.finished && decide (Config.gcmSeal y.h2dRing (ringNonce seq q) (toLE 8 seq.toNat ++ zeros 8) (padTo 96 body) = x)

/-- Fetch: authenticate, check SEQ, the body, its handles and its rights, in this order (R377, R379, R388, R389); then the
command's fence is read (R401). -/
def entryFetchEffect (q : Nat) (seq : DWord) (e : EntryRead) (s : State) : State :=
  if !mayFetch s q then s
  else
    let x := s.queue q
    let s := (s.serve q).emitPcie (.hostRead (x.sqBase.toNat + 128 * (x.head % ringSize x.sqK)) 128)
    let ok := entryOk s q seq e.body e.sealed
    let b := if ok then padTo 96 e.body else zeros 96
    let cmd : Fetched := { seq, body := b, order := s.hif.tick, busy := false }
    let s := { s with hif := { s.hif with tick := s.hif.tick + 1 } }
    let s := s.setQueue q { x with head := (x.head + 1) % ringSize x.sqK, cmd := some cmd }
    if !ok then s.finishCmd q 0x10
    else if !seqOk x seq then s.finishCmd q 0x11
    else
      let s := s.updQueue q fun y => { y with lastSeq := seq, anySeq := false }
      if !bodyOk s q b then s.finishCmd q 0x12
      else if !handlesOk s q b then s.finishCmd q 0x13
      else if !accessOkBody s q b then s.finishCmd q 0x14
      else s.each (fetchFences b) fun s i => s.readFence q i e.fence

/-! ## Running a fetched command -/

/-- The body of the queue's command when it can run now: fetched with this OP, not yet under way, its context resident
(R382). -/
def ready (s : State) (q op : Nat) : Option (List Byte) :=
  let x := s.queue q
  match x.cmd with
  | none => none
  | some c =>
    let res : Bool := match liveCtx s q with
               | some i => (s.ctx i).resident
               | none => true
    if opOf c.body = op ∧ !c.busy ∧ x.held = none ∧ res ∧ !s.isHalted then some c.body else none

/-- Run f on the body of a ready command; nothing happens where none is. -/
def State.onCmd (s : State) (q op : Nat) (f : List Byte → State → State) : State :=
  match ready s q op with
  | some b => f b s
  | none => s

/-- The command is under way and waits for an event. -/
def State.setBusy (s : State) (q : Nat) : State :=
  s.updQueue q fun x => { x with cmd := x.cmd.map fun c => { c with busy := true } }

def nopCommandEffect (q : Nat) (s : State) : State := s.onCmd q 0x00 fun _ s => s.finishCmd q 0

/-- A STEP waits for its selection (R384). -/
def stepEffect (q : Nat) (s : State) : State := s.onCmd q 0x01 fun _ s => s.setBusy q

/-- A WAIT waits for its fence (R399). -/
def waitEffect (q : Nat) (s : State) : State := s.onCmd q 0x04 fun _ s => s.setBusy q

/-- The WAIT of a queue has a TIMEOUT_BEAT that has begun (R399). -/
def waitEnds (s : State) (q : Nat) : Bool :=
  match (s.queue q).cmd with
  | some c =>
    let t := getLE c.body 16 8
    (waitOf (s.queue q)).isSome && decide (t ≠ 0) && decide (t ≤ s.cmb.beat.toNat)
  | none => false

/-- WAIT_TIMEOUT, in TIMEOUT_BEAT or, for a WAIT that runs after it, in a later beat: the WAIT expires at the end of the beat,
unless it is satisfied before (R399, Table 2-4). -/
def waitTimeoutEffect (q : Nat) (s : State) : State :=
  if waitEnds s q ∧ q ∉ s.hif.ending then { s with hif := { s.hif with ending := s.hif.ending ++ [q] } } else s

/-- Order 3: a WAIT that ends with the beat and is still unsatisfied completes with TIMEOUT (R399). -/
def State.expireWaits (s : State) : State :=
  let l := s.hif.ending
  ({ s with hif := { s.hif with ending := [] } }).each l fun s q =>
    if (waitOf (s.queue q)).isSome then s.finishCmd q 0x01 else s

/-- A FENCE_OP becomes visible in this beat (R400). -/
def State.fenceOp (s : State) (q : Nat) (arm : Bool) : State :=
  s.onCmd q 0x05 fun b s =>
    if bitAt (opflagsOf b) 0 = arm then
      let s := s.setBusy q
      { s with hif := { s.hif with arrivals := s.hif.arrivals ++ [{
          fence := getLE b 4 4 % 4096, arm, gen := BitVec.ofNat 32 (getLE b 8 4), op := some q }] } }
    else s

def fenceOpSignalEffect (q : Nat) (s : State) : State := s.fenceOp q false
def fenceOpArmEffect (q : Nat) (s : State) : State := s.fenceOp q true

/-- QUERY: generation and state in VALUE0, dropped signals in VALUE1 (Table 14-8). -/
def queryEffect (q : Nat) (s : State) : State :=
  s.onCmd q 0x06 fun b s =>
    let f := s.fence (getLE b 4 4 % 4096)
    s.finishCmd q 0 (f.gen.toNat + b2n f.signalled * 2 ^ 32) f.dropped.toNat

/-! ## Free indices (14, "Contexts") -/

/-- The free index that was freed longest ago, never-used ones first in ascending order; n indices in all. -/
def oldestFree {α : Type} (m : FMap α) (d : α) (live : α → Bool) (freedAt : α → Nat) (n : Nat) : Option Nat :=
  let used := m.map (·.1)
  match (List.range (m.length + 1)).find? fun i => !used.contains i && decide (i < n) with
  | some i => some i
  | none =>
    ((m.filter fun e => !live e.2).foldl (fun b e =>
      match b with
      | none => some e.1
      | some j => if freedAt e.2 < freedAt (mget d m j) then some e.1 else some j) none)

/-! ## Contexts (R381 to R386) -/

/-- SAVE_LEN (R383). -/
def saveLen (v : Variant) : Nat :=
  match v with
  | .a816 => 185597952
  | .a812 => 247988224

/-- Usable bytes of a stack: 23,436,988 pages of 2 KiB (Table 9-8). -/
def stackBytes : Nat := 23436988 * 2048

/-- Outer-memory pages of a partition (R34). -/
def ptPages (s : State) (p : Nat) : Nat := 27343750 * ptSize s p

/-- A partition byte address range lies in the outer-memory pages of the partition (Table 9-1). -/
def outerRange (s : State) (p a len : Nat) : Bool :=
  decide (0x20000000000 ≤ a) && decide (a + len ≤ 0x20000000000 + 4096 * ptPages s p)

/-- Two ranges meet. -/
def overlap (a n b m : Nat) : Bool := decide (a < b + m) && decide (b < a + n)

/-- The areas of a new context lie in the partition and meet no other context's (R383). -/
def areasOk (s : State) (p tbl save : Nat) : Bool :=
  outerRange s p tbl 0x200000 && decide (save + saveLen s.variant ≤ stackBytes) &&
    s.hif.ctxs.all fun e => !(e.2.live && e.2.pt == p &&
      (overlap tbl 0x200000 e.2.objTable 0x200000 ||
        overlap save (saveLen s.variant) e.2.saveBase (saveLen s.variant)))

/-- The queue of a context lets it go: the context is unpinned from now on, as far as no other queue or step holds it (R382). -/
def State.unpin (s : State) (c : Option Nat) : State :=
  match c with
  | some c => { (s.updCtx c fun z => { z with unpinned := s.hif.tick }) with
      hif := { (s.updCtx c fun z => { z with unpinned := s.hif.tick }).hif with tick := s.hif.tick + 1 } }
  | none => s

/-- BIND fixes context and PRIO and, with OPFLAGS bit 0, makes the queue its session's notice queue (R404, R406). A context
destroyed since the fetch makes the handle stale (DESIGN CHOICE, log entry 39). -/
def bindEffect (q : Nat) (s : State) : State :=
  s.onCmd q 0x11 fun b s =>
    let ses := (s.queue q).session
    let n := bitAt (opflagsOf b) 0
    if (ctxHandle s ses (getLE b 4 4)).isNone then s.finishCmd q 0x13
    else
      let s := if n then s.each (List.range 48) fun s i =>
          if i ≠ q ∧ (s.queue i).notice ∧ (s.queue i).session = ses then
            s.updQueue i fun x => { x with notice := false, notices := [], lost := 0 } else s
        else s
      let s := s.unpin (liveCtx s q)
      let pt := (s.ctx (getLE b 4 4 % 4096)).pt
      let s := s.updQueue q fun x =>
        { x with ctx := some (getLE b 4 4 % 4096), ctxTag := field (getLE b 4 4) 16 16, ctxPt := pt, prio := getLE b 8 1,
                 notice := x.notice || n }
      s.finishCmd q 0

/-- A step of the context is selected or running (R386). -/
def ctxInStep (s : State) (c : Nat) : Bool :=
  (List.range 4).any fun p =>
    (match (s.part p).running with
     | some r => r.ctx == c
     | none => false) ||
    (match (s.part p).sel with
     | some r => r.ctx == c
     | none => false)

/-- CTX_DESTROY (R386). -/
def ctxDestroyEffect (q : Nat) (s : State) : State :=
  s.onCmd q 0x12 fun b s =>
    let c := getLE b 4 4 % 4096
    if (ctxHandle s (s.queue q).session (getLE b 4 4)).isNone then s.finishCmd q 0x13
    else if ((List.range 48).any fun i => liveCtx s i == some c) || ctxInStep s c then s.finishCmd q 0x03
    else (s.destroyCtx c).finishCmd q 0

/-- A context is pinned: a queue bound to it holds a fetched command, or a step of it runs (R382). -/
def ctxPinned (s : State) (c : Nat) : Bool :=
  ((List.range 48).any fun i => liveCtx s i == some c && (s.queue i).cmd.isSome) ||
    (List.range 4).any fun p => match (s.part p).running with
      | some r => r.ctx == c
      | none => false

/-- The resident contexts. -/
def residentCtxs (s : State) : List Nat := (s.hif.ctxs.filter fun e => e.2.live && e.2.resident).map (·.1)

/-- The unpinned resident context that was unpinned longest ago. -/
def evictable (s : State) : Option Nat :=
  (residentCtxs s).foldl (fun b c =>
    if ctxPinned s c then b
    else match b with
      | none => some c
      | some d => if (s.ctx c).unpinned < (s.ctx d).unpinned then some c else some d) none

/-- CONTEXT_LOAD (R382); an entry that fails its tag destroys the context (R410). -/
def contextLoadEffect (c : Nat) (entry : Sealed) (s : State) : State :=
  let x := s.ctx c
  let wanted := (List.range 48).any fun i => liveCtx s i == some c && (s.queue i).cmd.isSome
  let room := decide ((residentCtxs s).length < 32)
  let old := if room then none else evictable s
  if !x.live || x.resident || !wanted || !(room || old.isSome) then s
  else
    let s := match old with
      | some e => (s.setCtx e { s.ctx e with resident := false }).storeCtx e
      | none => s
    let s := s.emitPcie (.hostRead (ctxBase s + 128 * c) 128)
    if entry ≠ ctxSealed s c then
      let qs := (List.range 48).filter fun i => liveCtx s i == some c
      let s := s.destroyCtx c
      let s := s.event .hif 2 x.pt
      s.each qs State.tableError
    else s.setCtx c { x with resident := true }

/-! ## Objects (R387 to R390, R431) -/

/-- The range lies wholly in one space of the partition; its groves' Crown ways follow one another (Table 9-1). -/
def inPartition (s : State) (p a len : Nat) : Bool :=
  if a < 0x10000000000 then
    decide (a / 2 ^ 36 < (ptStacks s p).length) && decide (a % 2 ^ 36 + len ≤ stackBytes)
  else if a < 0x20000000000 then
    let o := a - 0x10000000000
    decide (o < ptSize s p * 2 ^ 31) && decide (o + len ≤ ptSize s p * 2 ^ 31)
  else outerRange s p a len

/-- The outer-memory pages that a range touches all belong to regions that satisfy f. -/
def pagesIn (s : State) (p a len : Nat) (f : Region → Bool) : Bool :=
  let first := (a - 0x20000000000) / 4096
  let last := (a - 0x20000000000 + (len - 1)) / 4096
  (regionsOf p).all fun r =>
    let x := s.region r
    !(decide (x.st ≠ .unused) && decide (first < x.base + x.pages) && decide (x.base ≤ last)) || f x

/-- The regions of the partition are defined; they cover all its pages (R432). -/
def regionsDefined (s : State) (p : Nat) : Bool := (regionsOf p).any fun r => (s.region r).st != .unused

/-- The party's key domain grants the range (R431): party 0 all but the pages of others, another party the pages of its own
regions. -/
def granted (s : State) (p party a len : Nat) : Bool :=
  if party = 0 then decide (a < 0x20000000000) || pagesIn s p a len fun x => x.party == 0
  else decide (0x20000000000 ≤ a) && regionsDefined s p && pagesIn s p a len fun x => x.party == party

/-- Way w of relative grove k is a scratchpad way: an image that an ACCEPTED slot holds makes it one, or no slot holds an image
(R208, R228; DESIGN CHOICE, log entry 40). -/
def wayOpen (s : State) (p k w : Nat) : Bool :=
  let x := s.part p
  let imgs := ([x.slotA, x.slotB].filter fun y => y.st == .accepted).map fun y => y.image
  imgs.isEmpty || imgs.any fun b => bitAt (manCrownWays b k) w

/-- Every Crown way that a range touches is a scratchpad way (Table 9-1). -/
def waysOpen (s : State) (p a len : Nat) : Bool :=
  if 0x10000000000 ≤ a ∧ a < 0x20000000000 then
    let first := (a - 0x10000000000) / 2 ^ 26
    let last := (a - 0x10000000000 + (len - 1)) / 2 ^ 26
    (List.range (last + 1 - first)).all fun i => wayOpen s p ((first + i) / 32) ((first + i) % 32)
  else true

/-! ## Fence objects (R401, R402) -/

/-- FENCE_CREATE (R396). -/
def fenceCreateEffect (q : Nat) (s : State) : State :=
  s.onCmd q 0x15 fun b s =>
    match oldestFree s.hif.fences {} Fence.live Fence.freedAt 4096 with
    | none => s.finishCmd q 0x04
    | some i =>
      let f := s.fence i
      let s := s.setFence i { live := true, tag := f.tag, session := (s.queue q).session,
                              gen := BitVec.ofNat 32 (getLE b 8 4), signalled := bitAt (opflagsOf b) 0 }
      (s.storeFence i).finishCmd q 0 (f.tag * 65536 + i)

/-- FENCE_FREE (R402). -/
def fenceFreeEffect (q : Nat) (s : State) : State :=
  s.onCmd q 0x16 fun b s =>
    let i := getLE b 4 4 % 4096
    if fenceResident s i q then s.finishCmd q 0x03 else (s.destroyFence i).finishCmd q 0

/-- KEY_ROTATE: refused in INIT, ROTATING, FLUSHING and UNUSED, else it takes effect at the next step boundary
(R249). -/
def keyRotateEffect (q : Nat) (s : State) : State :=
  s.onCmd q 0x17 fun b s =>
    match queuePt s q with
    | none => s.finishCmd q 0x12
    | some p =>
      let r := 16 * p + getLE b 4 1
      let x := s.region r
      if (x.st = .active ∨ x.st = .exhausted) ∧ !x.sweeping ∧ x.prev = x.kid then
        (s.setRegion r { x with rotate := true }).finishCmd q 0
      else s.finishCmd q 0x05

/-! ## Writing entries (R378, R400, R405) -/

/-- COMPLETION_WRITE: the held completion is written when the ring has room (R378). -/
def completionWriteEffect (q : Nat) (s : State) : State :=
  let x := s.queue q
  match x.held with
  | none => s
  | some h =>
    let ses := s.session h.session.toNat
    if s.isHalted || !ses.finished || !ringRoom x then s
    else
      let s := s.writeEntry q ses.d2hRing h.body
      let s := if h.signals then s.signalFence h.sigFence.toNat h.sigGen else s
      let s := s.updQueue q fun y => { y with
        held := none, cmd := none, st := if y.st = .stopping then .disabled else y.st }
      let s := s.unpin (liveCtx s q)
      if h.irq then s.raiseVec (vectorOf s q) else s

/-- NOTICE_WRITE: the oldest waiting notice is written when the ring has room; when none waits and some were dropped,
one entry of KIND 6 tells how many (R405). -/
def noticeWriteEffect (q : Nat) (s : State) : State :=
  let x := s.queue q
  let ses := s.session x.session.toNat
  if !x.notice || s.isHalted || !ses.finished || x.st == .disabled || !ringRoom x then s
  else
    match x.notices with
    | n :: ns =>
      let s := s.writeEntry q ses.d2hRing n.body
      (s.updQueue q fun y => { y with notices := ns }).raiseVec (vectorOf s q)
    | [] =>
      if x.lost = 0 then s
      else
        let s := s.writeEntry q ses.d2hRing ([6] ++ zeros 15 ++ toLE 8 x.lost ++ zeros 16)
        (s.updQueue q fun y => { y with lost := 0 }).raiseVec (vectorOf s q)

/-! ## Doorbells and queue control (R375, R406, R407, R513 to R515) -/

/-- A BAR2 doorbell write: f on 32-bit accesses, g on 64-bit ones; widths and alignments as R9 (R367, R515). -/
def State.doorbell (s : State) (q off width : Nat) (f : State → State) : State :=
  if !s.powered then s
  else if !s.rooted then s.seedAbort 2 off true
  else if !accessOk width off then s.rejectAccess 2 width off true false
  else if queueScrubs s q then s
  else f s

/-- CQ_HEAD is stored in any state, and acted on only while ENABLED (R514). -/
def Queue.putHead (x : Queue) (n : Nat) : Queue :=
  { x with cqHead := n, cqSeen := if x.st = .enabled then n else x.cqSeen }

def sqTailWriteEffect (q width : Nat) (val : DWord) (s : State) : State :=
  s.doorbell q (0x1000 * q) width fun s => s.updQueue q fun x =>
    let x := { x with sqTail := field val.toNat 0 16 }
    if width = 64 then x.putHead (field val.toNat 32 16) else x

def cqHeadWriteEffect (q width : Nat) (val : DWord) (s : State) : State :=
  s.doorbell q (0x1000 * q + 4) width fun s => s.updQueue q fun x => x.putHead (field val.toNat 0 16)

/-- A write to a HIF_QS register of queue q; ignored while the bound partition scrubs (R408, R513). -/
def State.qsField (s : State) (q reg : Nat) (f : State → State) : State :=
  s.hostField (0x401000 + 0x40 * q + reg) fun s => if queueScrubs s q then s else f s

/-- ENABLE: from DISABLED, with the pointers at zero and PHASE 1 (R514). -/
def queueEnableEffect (q : Nat) (s : State) : State :=
  s.qsField q 0x18 fun s => s.updQueue q fun x =>
    if x.st = .disabled then
      { x with st := .enabled, sqTail := 0, cqHead := 0, cqSeen := 0, head := 0, ctail := 0, phase := true }
    else x

/-- DISABLE (Table 14-12). -/
def queueDisableEffect (q : Nat) (s : State) : State :=
  s.qsField q 0x18 fun s => s.updQueue q fun x =>
    match x.st with
    | .enabled => { x with st := if x.cmd.isSome then .stopping else .disabled }
    | .error => { x with st := .disabled }
    | _ => x

/-- RESET acts only in ERROR (R407). -/
def queueResetEffect (q : Nat) (s : State) : State :=
  s.qsField q 0x18 fun s => s.updQueue q fun x =>
    if x.st = .error then
      { x with st := .enabled, head := x.sqTail % ringSize x.sqK, cqSeen := x.cqHead, err := 0, anySeq := true }
    else x

/-- A write to a ring base, HIF_QS_CFG or HIF_QS_SESSION: another session starts from SEQ zero and has not made the queue its
notice queue (R377, R404, R406, Table 14-14). -/
def Queue.config (x : Queue) (reg : Nat) (v : Nat) : Queue :=
  let dis := x.st = .disabled
  match reg with
  | 0x00 => if dis then { x with sqBase := BitVec.ofNat 64 (x.sqBase.toNat / 2 ^ 32 * 2 ^ 32 + v) } else x
  | 0x04 => if dis then { x with sqBase := BitVec.ofNat 64 (x.sqBase.toNat % 2 ^ 32 + v * 2 ^ 32) } else x
  | 0x08 => if dis then { x with cqBase := BitVec.ofNat 64 (x.cqBase.toNat / 2 ^ 32 * 2 ^ 32 + v) } else x
  | 0x0C => if dis then { x with cqBase := BitVec.ofNat 64 (x.cqBase.toNat % 2 ^ 32 + v * 2 ^ 32) } else x
  | 0x10 =>
    let vec := field v 8 6
    let ck := field v 4 4
    let sk := field v 0 4
    let x := if vec ≤ 55 then { x with vector := some vec } else x
    let x := if dis ∧ ck ≤ 10 then { x with cqK := ck } else x
    if dis ∧ sk ≤ 10 then { x with sqK := sk } else x
  | 0x14 =>
    if !dis then x
    else if x.session.toNat = v % 2 ^ 32 then { x with anySeq := true }
    else { (x.forget x.session.toNat) with session := BitVec.ofNat 32 v }
  | _ => x

def queueConfigWriteEffect (q reg : Nat) (val : Word) (s : State) : State :=
  s.qsField q reg fun s => s.updQueue q fun x => x.config reg val.toNat

/-! ## Meanings -/

def execSqTailWrite (q w : Nat) (v : DWord) (s : State) := checked (.sqTailWrite q w v) s (sqTailWriteEffect q w v s)
def execCqHeadWrite (q w : Nat) (v : DWord) (s : State) := checked (.cqHeadWrite q w v) s (cqHeadWriteEffect q w v s)
def execEntryFetch (q : Nat) (n : DWord) (e : EntryRead) (s : State) :=
  checked (.entryFetch q n e) s (entryFetchEffect q n e s)
def execNopCommand (q : Nat) (s : State) := checked (.nopCommand q) s (nopCommandEffect q s)
def execStep (q : Nat) (s : State) := checked (.step q) s (stepEffect q s)
def execWait (q : Nat) (s : State) := checked (.wait q) s (waitEffect q s)
def execWaitTimeout (q : Nat) (s : State) := checked (.waitTimeout q) s (waitTimeoutEffect q s)
def execFenceOpSignal (q : Nat) (s : State) := checked (.fenceOpSignal q) s (fenceOpSignalEffect q s)
def execFenceOpArm (q : Nat) (s : State) := checked (.fenceOpArm q) s (fenceOpArmEffect q s)
def execQuery (q : Nat) (s : State) := checked (.query q) s (queryEffect q s)
def execBind (q : Nat) (s : State) := checked (.bind q) s (bindEffect q s)
def execCtxDestroy (q : Nat) (s : State) := checked (.ctxDestroy q) s (ctxDestroyEffect q s)
def execContextLoad (c : Nat) (x : Sealed) (s : State) := checked (.contextLoad c x) s (contextLoadEffect c x s)
def execFenceCreate (q : Nat) (s : State) := checked (.fenceCreate q) s (fenceCreateEffect q s)
def execFenceFree (q : Nat) (s : State) := checked (.fenceFree q) s (fenceFreeEffect q s)
def execKeyRotate (q : Nat) (s : State) := checked (.keyRotate q) s (keyRotateEffect q s)
def execCompletionWrite (q : Nat) (s : State) := checked (.completionWrite q) s (completionWriteEffect q s)
def execNoticeWrite (q : Nat) (s : State) := checked (.noticeWrite q) s (noticeWriteEffect q s)
def execQueueEnable (q : Nat) (s : State) := checked (.queueEnable q) s (queueEnableEffect q s)
def execQueueDisable (q : Nat) (s : State) := checked (.queueDisable q) s (queueDisableEffect q s)
def execQueueReset (q : Nat) (s : State) := checked (.queueReset q) s (queueResetEffect q s)
def execQueueConfigWrite (q r : Nat) (v : Word) (s : State) :=
  checked (.queueConfigWrite q r v) s (queueConfigWriteEffect q r v s)

end Sys2Proof.Machine
end

