-- ==== Sys2Proof/Machine/Mem.lean ====
section
/-!
DEFINITION. Memory (09): the one byte store and its address ranges, HBM bursts with the keyed scramble and the
side-band code, outer-memory lines with write combining, counters and key regions, and the partition address space.
-/

namespace Sys2Proof.Machine

/-! ## The byte store -/

/-- Device address of a cluster's scratchpad: 3,145,728 bytes (R99). -/
def spadBase (c : Nat) : Nat := c * 2 ^ 22

/-- Device address of a cluster's accumulators: 524,288 bytes (R130). -/
def accBase (c : Nat) : Nat := 2 ^ 40 + c * 2 ^ 20

/-- Device address of a grove's Crown: 32 ways of 64 MiB. -/
def crownBase (g : Nat) : Nat := 2 ^ 41 + g * 2 ^ 31

/-- Device address of a stack's raw bytes. -/
def hbmBase (h : Nat) : Nat := 2 ^ 45 + h * 2 ^ 36

/-- Device address of the first outer-memory page; the plain contents of the lines. -/
def outerBase : Nat := 2 ^ 50

/-- The cluster whose scratchpad or accumulators hold a device address. -/
def clusterOf (a : Nat) : Option Nat :=
  if a < 800 * 2 ^ 22 then some (a / 2 ^ 22)
  else if 2 ^ 40 ≤ a ∧ a < 2 ^ 40 + 800 * 2 ^ 20 then some ((a - 2 ^ 40) / 2 ^ 20)
  else none

/-- The draw of a cluster's undefined contents, 0 where they are defined. -/
def havocOf (s : State) (a : Nat) : Nat :=
  match clusterOf a with
  | some c => mget 0 s.havoc c
  | none => 0

/-- A listed byte. -/
def listed : List Host.Cell → Nat → Option Byte
  | [], _ => none
  | (k, v) :: m, a => if a = k then some v else listed m a

/-- What an unlisted address reads as: zero, or a free byte of an undefined array (R454). -/
def unlisted (s : State) (a : Nat) : Byte := if havocOf s a = 0 then 0 else Config.freeByte (havocOf s a) a

/-- The byte at a device address. -/
def readB (s : State) (a : Nat) : Byte := (listed s.mem a).getD (unlisted s a)

/-- Write one byte, keeping the canonical form: in a defined array a zero is not listed. -/
def writeB (s : State) (a : Nat) (v : Byte) : State :=
  { s with mem := if havocOf s a = 0 then mput 0 s.mem a v else minsert s.mem a v }

/-- n bytes from a device address. -/
def readN (s : State) (a n : Nat) : List Byte := (List.range n).map fun i => readB s (a + i)

/-- Write bytes from a device address up. -/
def writeN (s : State) (a : Nat) : List Byte → State
  | [] => s
  | b :: bs => writeN (writeB s a b) (a + 1) bs

/-- Every byte of a range reads as an unlisted one. -/
def clearRange (s : State) (a n : Nat) : State :=
  { s with mem := s.mem.filter fun e => !(decide (a ≤ e.1) && decide (e.1 < a + n)) }

/-- The memory form: addresses strictly rising, and no zero listed in a defined array. -/
def Memory.wf (s : State) : Bool :=
  mrising s.mem && s.mem.all fun e => decide (havocOf s e.1 ≠ 0) || decide (e.2 ≠ 0)

/-- A cluster's scratchpad and accumulators read zero, and its buffers, registers and stash are empty (R440). -/
def zeroCluster (s : State) (c : Nat) : State :=
  let s := clearRange (clearRange s (spadBase c) (2 ^ 22)) (accBase c) (2 ^ 20)
  { s with havoc := merase s.havoc c, clusters := merase s.clusters c }

/-- A cluster's scratchpad and accumulators become undefined (R454). -/
def undefineCluster (s : State) (c : Nat) : State :=
  let s := clearRange (clearRange s (spadBase c) (2 ^ 22)) (accBase c) (2 ^ 20)
  { s with havoc := minsert s.havoc c (s.freeCtr + 1), freeCtr := s.freeCtr + 1 }

/-- A grove's Crown reads zero. -/
def zeroCrown (s : State) (g : Nat) : State := clearRange s (crownBase g) (2 ^ 31)

/-- Every scratchpad, accumulator, Crown way, port buffer and grove vector engine reads zero (R412, R418). -/
def State.clearSram (s : State) : State :=
  { s with mem := s.mem.filter fun e => decide (2 ^ 45 ≤ e.1), havoc := [], clusters := [], bufs := [], gve := [] }

/-! ## The keyed scramble (R212) -/

/-- A burst as eight 64-bit words. -/
structure Burst where
  w0 : DWord
  w1 : DWord
  w2 : DWord
  w3 : DWord
  w4 : DWord
  w5 : DWord
  w6 : DWord
  w7 : DWord
deriving DecidableEq, Repr

/-- The rotation of round r, pair j. -/
def scrRot (r j : Nat) : Nat :=
  match r, j with
  | 0, 0 => 13 | 0, 1 => 41 | 0, 2 => 29 | 0, _ => 53
  | 1, 0 => 7 | 1, 1 => 37 | 1, 2 => 23 | 1, _ => 61
  | 2, 0 => 19 | 2, 1 => 47 | 2, 2 => 31 | 2, _ => 5
  | _, 0 => 43 | _, 1 => 11 | _, 2 => 59 | _, _ => 17

/-- Word i of a 256-bit key. -/
def keyWord (k : Key) (i : Nat) : DWord := k.extractLsb' (64 * i) 64

/-- What is added to a pair: K[(r + j) mod 4] + t + r. -/
def scrAdd (k : Key) (t : DWord) (r j : Nat) : DWord := keyWord k ((r + j) % 4) + t + BitVec.ofNat 64 r

/-- One pair of the scramble. -/
def mix (n : Nat) (c a b : DWord) : DWord × DWord :=
  let a' := a + b + c
  (a', b.rotateLeft n ^^^ a')

/-- The pair undone. -/
def unmix (n : Nat) (c a b : DWord) : DWord × DWord :=
  let b' := (b ^^^ a).rotateRight n
  (a - (b' + c), b')

/-- One round: the four pairs, then the permutation. -/
def scrRound (k : Key) (t : DWord) (r : Nat) (w : Burst) : Burst :=
  let p0 := mix (scrRot r 0) (scrAdd k t r 0) w.w0 w.w1
  let p1 := mix (scrRot r 1) (scrAdd k t r 1) w.w2 w.w3
  let p2 := mix (scrRot r 2) (scrAdd k t r 2) w.w4 w.w5
  let p3 := mix (scrRot r 3) (scrAdd k t r 3) w.w6 w.w7
  ⟨p0.1, p1.2, p1.1, p2.2, p2.1, p3.2, p3.1, p0.2⟩

/-- One round undone. -/
def unscrRound (k : Key) (t : DWord) (r : Nat) (v : Burst) : Burst :=
  let p0 := unmix (scrRot r 0) (scrAdd k t r 0) v.w0 v.w7
  let p1 := unmix (scrRot r 1) (scrAdd k t r 1) v.w2 v.w1
  let p2 := unmix (scrRot r 2) (scrAdd k t r 2) v.w4 v.w3
  let p3 := unmix (scrRot r 3) (scrAdd k t r 3) v.w6 v.w5
  ⟨p0.1, p0.2, p1.1, p1.2, p2.1, p2.2, p3.1, p3.2⟩

/-- The scramble of a burst (R212). -/
def scramble (k : Key) (t : DWord) (w : Burst) : Burst :=
  scrRound k t 3 (scrRound k t 2 (scrRound k t 1 (scrRound k t 0 w)))

/-- The scramble undone: rounds from 3 down to 0 (R212). -/
def unscramble (k : Key) (t : DWord) (w : Burst) : Burst :=
  unscrRound k t 0 (unscrRound k t 1 (unscrRound k t 2 (unscrRound k t 3 w)))

/-- Word i of a burst's bytes, little-endian. -/
def burstWord (bs : List Byte) (i : Nat) : DWord := BitVec.ofNat 64 (getLE bs (8 * i) 8)

def burstOf (bs : List Byte) : Burst :=
  ⟨burstWord bs 0, burstWord bs 1, burstWord bs 2, burstWord bs 3, burstWord bs 4, burstWord bs 5, burstWord bs 6,
    burstWord bs 7⟩

def Burst.bytes (w : Burst) : List Byte :=
  toLE 8 w.w0.toNat ++ toLE 8 w.w1.toNat ++ toLE 8 w.w2.toNat ++ toLE 8 w.w3.toNat ++ toLE 8 w.w4.toNat ++
    toLE 8 w.w5.toNat ++ toLE 8 w.w6.toNat ++ toLE 8 w.w7.toNat

/-- t of R212 for stack h and byte address a. -/
def scrT (h a : Nat) : DWord := BitVec.ofNat 64 (h * 2 ^ 48 + a)

/-- The scramble key that the base die of stack h holds (R213). -/
def hbmKey (s : State) (h : Nat) : Option Key :=
  match ptOfStack s h with
  | some p => (s.tenancy p).hbmKey
  | none => none

/-- The plain bytes of a 64-byte burst; with no key the base die delivers nothing but zeros (R416), and there is no burst
beyond the stack's capacity (R17, R208). -/
def hbmRead (s : State) (h a : Nat) : List Byte :=
  match hbmKey s h with
  | some k =>
    if a < stackBytes then (unscramble k (scrT h a) (burstOf (readN s (hbmBase h + a) 64))).bytes else zeros 64
  | none => zeros 64

/-- Burst number for the poison map. -/
def burstKey (h a : Nat) : Nat := h * 2 ^ 30 + a / 64

/-- The burst carries the poison syndrome (R215). -/
def poisoned (s : State) (h a : Nat) : Bool := mget false s.mb.poison (burstKey h a)

def State.setPoison (s : State) (h a : Nat) (b : Bool) : State :=
  { s with mb := { s.mb with poison := mput false s.mb.poison (burstKey h a) b } }

/-- Write a whole burst, which clears its poison (R212, R215); with no key nothing is written (R416). -/
def hbmWrite (s : State) (h a : Nat) (bs : List Byte) : State :=
  match hbmKey s h with
  | some k =>
    if stackBytes ≤ a then s
    else (writeN s (hbmBase h + a) ((scramble k (scrT h a) (burstOf (padTo 64 bs))).bytes)).setPoison h a false
  | none => s

/-! ## The side-band code (R214, R215, R223) -/

/-- A DRAM row is a device page of 2 KiB: stack and page (R210, R224). -/
def rowKey (h a : Nat) : Nat := h * 2 ^ 25 + a / 2048

/-- MEM_STACK counters. -/
def State.countCe (s : State) (h : Nat) : State :=
  { s with mb := { s.mb with ce := mput 0 s.mb.ce h (satSucc (mget 0 s.mb.ce h)) } }
def State.countUe (s : State) (h : Nat) : State :=
  { s with mb := { s.mb with ue := mput 0 s.mb.ue h (satSucc (mget 0 s.mb.ue h)) } }

/-- DETAIL of a MEM log entry: stack, PC and page (R252). -/
def memDetail (h a : Nat) : List Byte := toLE 1 h ++ toLE 1 (field a 11 5) ++ toLE 2 0 ++ toLE 8 (a / 2 ^ 16)

/-- A corrected burst: counted, and its row marked for repair at MEM_CE_THRESH corrections within 1,000,000 beats
(R214, R223). -/
def State.correct (s : State) (h a : Nat) : State :=
  let s := s.countCe h
  let k := rowKey h a
  let old := ((mget ⟨[]⟩ s.mb.rowCe k : RowCe).beats).filter fun b => decide ((s.cmb.beat - b).toNat < 1000000)
  let now := s.cmb.beat :: old
  let s := { s with mb := { s.mb with rowCe := mput ⟨[]⟩ s.mb.rowCe k ⟨now⟩ } }
  if s.mb.ceThresh.toNat ≤ now.length then
    let s := { s with mb := { s.mb with
      marked := if s.mb.marked.contains k then s.mb.marked else s.mb.marked ++ [k] } }
    s.event .mem 0 0xFF (memDetail h a)
  else s

/-- POISON_WRITE: an uncorrectable burst is written back with the poison syndrome (R215). -/
def State.uncorrect (s : State) (h a : Nat) : State :=
  let s := (s.countUe h).event .mem 1 0xFF (memDetail h a)
  (s.setPoison h a true).event .mem 2 0xFF (memDetail h a)

/-- What a read of a burst gave: its bytes, the state after it, and whether it was poisoned. -/
structure BurstRead where
  s : State
  bytes : List Byte
  bad : Bool

/-- Read a burst with what the DRAM returned (R214 to R216): a poisoned burst is bad; up to 2 symbols are corrected; up
to 6 are detected and poison the burst; beyond, the code's answer is open (Config.eccBeyond), and where it notices
nothing the bytes are free, and the burst reads as them from then on (DESIGN CHOICE, log entry 2). -/
def readBurst (s : State) (h a : Nat) (ecc : List EccObs) : BurstRead :=
  let free : List Byte := (List.range 64).map fun i => Config.freeByte s.freeCtr (a + i)
  if poisoned s h a then ⟨{ s with freeCtr := s.freeCtr + 1 }, free, true⟩
  else
    match ecc.find? (fun e => e.stack == h && e.addr == a) with
    | none => ⟨s, hbmRead s h a, false⟩
    | some e =>
      if e.symbols = 0 then ⟨s, hbmRead s h a, false⟩
      else if e.symbols ≤ 2 then ⟨s.correct h a, hbmRead s h a, false⟩
      else if e.symbols ≤ 6 ∨ Config.eccBeyond a e.symbols then
        ⟨{ s.uncorrect h a with freeCtr := s.freeCtr + 1 }, free, true⟩
      else ⟨hbmWrite { s with freeCtr := s.freeCtr + 1 } h a free, free, false⟩

/-! ## Outer-memory layout (R19, R34, R236) -/

/-- The bus of a device page (R34). -/
def pageBus (page : Nat) : Nat := page % 8

/-- Bus-local raw line index of a device line: page p lies in group p / 7 at position p mod 7 (R236). -/
def rawLine (line : Nat) : Nat :=
  let p := line / 64 / 8
  (8 * (p / 7) + p % 7) * 64 + line % 64

/-- The device page of a bus's raw line (R34, R236). -/
def rawPage (bus line : Nat) : Nat := bus + 8 * (7 * (line / 64 / 8) + line / 64 % 8)

/-- The partition that owns a device page (R34). -/
def pageOwner (s : State) (page : Nat) : Option Nat := ptOfGrove s (page / 27343750)

/-- The first device page of a partition (R34). -/
def firstPage (s : State) (p : Nat) : Nat := 27343750 * ptFirst s p

/-- The key region that holds a device page (R248). -/
def pageRegion (s : State) (page : Nat) : Option Nat :=
  match pageOwner s page with
  | none => none
  | some p =>
    let q := page - firstPage s p
    (regionsOf p).find? fun r =>
      let x := s.region r
      x.st != .unused && decide (x.base ≤ q) && decide (q < x.base + x.pages)

/-- A page's counters; a page that no write has reached has its region's defaults (R239). -/
def omPage (s : State) (page : Nat) : OmPage :=
  match s.mb.om.find? (fun e => e.1 == page) with
  | some e => e.2
  | none =>
    match pageRegion s page with
    | some r =>
      { major := (s.region r).defMajor, defMinor := (s.region r).defMinor, minors := [], kids := [], tracker := none }
    | none => { major := 0, defMinor := 0, minors := [], kids := [], tracker := none }

def State.setOmPage (s : State) (page : Nat) (x : OmPage) : State :=
  { s with mb := { s.mb with om := (page, x) :: s.mb.om.filter fun e => e.1 ≠ page } }

/-- The counters under which a line is encrypted: (major, minor) (R239). -/
def lineCounters (s : State) (line : Nat) : Nat × Nat :=
  let x := omPage s (line / 64)
  let marked := match x.tracker with
    | some t => t.marked.contains (line % 64)
    | none => false
  (if marked then x.major + 1 else x.major, mget x.defMinor x.minors (line % 64))

/-- The key ID under which a line was written (R248). -/
def lineKid (s : State) (line : Nat) : Nat :=
  match pageRegion s (line / 64) with
  | none => 0
  | some r =>
    let x := s.region r
    mget (if x.sweeping then x.prev else x.kid) (omPage s (line / 64)).kids (line % 64)

/-- The XTS tweak of a line (R237). -/
def omTweak (s : State) (line : Nat) : BitVec 128 :=
  let c := lineCounters s line
  BitVec.ofNat 128 (atBits c.1 64 64 + atBits c.2 57 7 + atBits (pageBus (line / 64)) 54 3 + atBits (rawLine line) 0 54)

/-- A line's 64 plain bytes. -/
def omPlain (s : State) (line : Nat) : List Byte := readN s (outerBase + 64 * line) 64

/-- The ciphertext that stands in the LPDDR5X device (R237). -/
def omCipher (s : State) (line : Nat) : List Byte :=
  Config.xts ((mget 0 s.mb.kids (lineKid s line)).extractLsb' 0 512) (omTweak s line) (omPlain s line)

/-- The line's MAC: the 64 most significant bits of the CMAC over the 80-byte message (R238). -/
def omMac (s : State) (line : Nat) : DWord :=
  let c := lineCounters s line
  let addr := atBits (pageBus (line / 64)) 45 3 + atBits (rawLine line) 0 45
  let msg := omCipher s line ++ toLE 6 addr ++ toLE 1 (lineKid s line) ++ toLE 1 c.2 ++ toLE 8 c.1
  (Config.cmac ((mget 0 s.mb.kids (lineKid s line)).extractLsb' 512 256) msg).extractLsb' 64 64

/-- The metadata entry of a line: MAC, KID0 and MINOR (Table 9-5). -/
def omEntry (s : State) (line : Nat) : List Byte :=
  toLE 8 (omMac s line).toNat ++ toLE 1 (atBits (lineKid s line) 7 1 + atBits (lineCounters s line).2 0 7)

/-- The metadata page of group n of a bus, raw page 7 of the group: 8 zero bytes and seven records of a page's major counter
and its 64 line entries (R236). -/
def metaPage (s : State) (bus n : Nat) : List Byte :=
  zeros 8 ++ (List.range 7).flatMap fun i =>
    let page := bus + 8 * (7 * n + i)
    toLE 8 (omPage s page).major ++ (List.range 64).flatMap fun j => omEntry s (64 * page + j)

/-! ## The halt (R242 to R244, R412) -/

/-- Every key in the outer-memory, scrambler, link and host engines is destroyed, the keys of the context and fence tables and
the base keys of the digests among them (R244, R412, Table 15-2). -/
def State.destroyEngineKeys (s : State) : State :=
  let s := s.endAllSessions
  let s := s.each (List.range 4) fun s p => (s.closeTenancy p).updTen p fun t => { t with
    hbmKey := none, jobKey := none, jobKeyNext := none, ckptKey := none, ckptKeyNext := none, rho := none }
  let s := { s with hw := { s.hw with ctxKey := none, fenceKey := none } }
  let s := s.each (List.range 8) fun s n => s.updPort n fun p =>
    { p with keyTx := none, keyRx := none, nextTx := none, nextRx := none, secret := none, level1 := false }
  { s with mb := { s.mb with kids := [] } }

/-- The egress gates close (R243). -/
def State.closeGates (s : State) : State := { s with gates := { s.gates with closed := true } }

/-- The MEM interrupt of a halt leaves although the gates have closed: it carries no data (R243, R244; DESIGN CHOICE, log
entry 10). -/
def State.signalHalt (s : State) : State :=
  if (mget {} s.hif.msix 57 : MsixEntry).masked then s.raiseVec 57 else s.emit (.msix 57)

/-- DEVICE_HALT (R244): cause of Table 9-9, bus and raw line. -/
def State.haltDevice (s : State) (cause bus line : Nat) : State :=
  let page := rawPage bus line
  let s := s.closeGates
  let s := s.detectAll (plainFault 0x0404 (s.suspect 7 (omLoc (64 * page + line % 64))))
  let s := s.destroyEngineKeys
  let s := { s with mb := { s.mb with halted := true, haltCause := cause, haltBus := bus, haltAddr := line } }
  s.signalHalt.logEvent .mem 31 0xFF (toLE 1 bus ++ zeros 7 ++ toLE 8 line)

/-! ## Reads and writes of lines (R239 to R246) -/

/-- A line is delivered before its MAC has been checked (R242): the check is outstanding. -/
def State.expectCheck (s : State) (line cause : Nat) : State :=
  { s with mb := { s.mb with checks := s.mb.checks ++ [(pageBus (line / 64), rawLine line, cause)] } }

/-- Bytes that the write-combining entries of a line hold over its stored bytes (R245, R246). -/
def mergeWc (s : State) (line : Nat) (bs : List Byte) : List Byte :=
  let es := s.mb.wc.filter fun e => e.line == line
  (List.range 64).map fun i =>
    es.foldl (fun v e => match e.data.find? (fun x => x.1 == i) with
      | some x => x.2
      | none => v) (bs.getD i 0)

/-- A requester's read of a line: the stored bytes with the writes that wait to be combined (R242, R246). -/
def omRead (s : State) (line : Nat) : List Byte := mergeWc s line (omPlain s line)

/-- Re-encryption trackers in use on a bus (R239). -/
def trackersOn (s : State) (bus : Nat) : Nat :=
  (s.mb.om.filter fun e => pageBus e.1 == bus && e.2.tracker.isSome).length

/-- Add a page to the watch list of 1,024 pages per bus (R240). -/
def State.watchPage (s : State) (page : Nat) : State :=
  if s.mb.watch.contains page ∨ 1024 ≤ (s.mb.watch.filter fun p => pageBus p == pageBus page).length then s
  else { s with mb := { s.mb with watch := s.mb.watch ++ [page] } }

/-- The region of a line accepts no write: it is EXHAUSTED, or was when the rotation that runs began (R241, Table 9-7). -/
def lineExhausted (s : State) (line : Nat) : Bool :=
  match pageRegion s (line / 64) with
  | some r => (s.region r).st == .exhausted || (s.region r).wasExhausted
  | none => false

/-- The line's region is in INIT: reads and writes wait (Table 9-7). -/
def inInit (s : State) (line : Nat) : Bool :=
  match pageRegion s (line / 64) with
  | some r => (s.region r).st == .init
  | none => false

/-- DETAIL of a MEM log entry that names an outer-memory line: bus and raw line (R252). -/
def omDetail (line : Nat) : List Byte := toLE 1 (pageBus (line / 64)) ++ zeros 7 ++ toLE 8 (rawLine line)

/-- What became of a line write. -/
inductive LineWrite where
  | done (s : State)
  | waits (s : State)
  | exhausted (s : State)

/-- Write a whole line under its next counter (R239 to R241): it waits for a tracker or for the region's INIT, or the region
is EXHAUSTED. A line that the page's tracker has marked waits for the tracker's end before it can overflow again. -/
def writeLine (s : State) (line : Nat) (bs : List Byte) : LineWrite :=
  let page := line / 64
  let i := line % 64
  let x := omPage s page
  let m := mget x.defMinor x.minors i
  let kid := match pageRegion s page with
    | some r => (s.region r).kid
    | none => 0
  let put (s : State) (x : OmPage) : State := writeN (s.setOmPage page { x with kids := minsert x.kids i kid })
      (outerBase + 64 * line) (padTo 64 bs)
  if lineExhausted s line then .exhausted s
  else if inInit s line then .waits s
  else if m < 127 then
    let s := put s { x with minors := minsert x.minors i (m + 1) }
    .done (if 112 ≤ m + 1 then s.watchPage page else s)
  else if x.major + 1 = 2 ^ 64 - 1 then
    match pageRegion s page with
    | some r =>
      let s := s.setRegion r { s.region r with st := .exhausted, wasExhausted := (s.region r).sweeping }
      .exhausted (s.event .mem 8 (r / 16) (omDetail line))
    | none => .exhausted s
  else
    match x.tracker with
    | some t =>
      if t.marked.contains i then .waits (s.event .mem 7 0xFF (omDetail line))
      else .done (put s { x with minors := minsert x.minors i 0, tracker := some ⟨i :: t.marked⟩ })
    | none =>
      if 16 ≤ trackersOn s (pageBus page) then .waits (s.event .mem 7 0xFF (omDetail line))
      else .done (put s { x with minors := minsert x.minors i 0, tracker := some ⟨[i]⟩ })

/-- Entries of the write-combining buffers that a partition uses on a bus (R245). -/
def wcUsed (s : State) (pt bus : Nat) (host : Bool) : Nat :=
  (s.mb.wc.filter fun e => e.pt == pt && e.host == host && pageBus (e.line / 64) == bus).length

/-- Entries that a partition owns on each bus (R245). -/
def wcOwned (s : State) (pt : Nat) (host : Bool) : Nat := (if host then 4 else 12) * ptSize s pt

/-- The line that an entry writes: its masked bytes over those that stand there (R245). -/
def mergedLine (s : State) (e : WcEntry) : List Byte :=
  let base := if e.data.length = 64 then [] else omPlain s e.line
  (List.range 64).map fun i => mget (base.getD i 0) e.data i

/-- An entry writes its line, merged with what stands there, and leaves the buffer, or stays while it waits for a tracker or for
the region's INIT; a scheduled write to an EXHAUSTED region fails and discards its step (R241, R245). -/
def State.drainEntry (s : State) (e : WcEntry) : State :=
  match writeLine s e.line (mergedLine s e) with
  | .done s => { s with mb := { s.mb with wc := s.mb.wc.filter fun x => x ≠ e } }
  | .waits s => { s with mb := { s.mb with wc := s.mb.wc.map fun x => if x = e then { x with waits := true } else x } }
  | .exhausted s =>
    let s := { s with mb := { s.mb with wc := s.mb.wc.filter fun x => x ≠ e } }
    if e.host then s else s.detect e.pt (plainFault 0x0403 (s.suspect 0 0))

/-- Gather bytes at an offset of a line into its entry, or into a new one (R245, R246); none where no entry is free. -/
def wcWrite (s : State) (pt : Nat) (host : Bool) (line off : Nat) (bs : List Byte) : Option State :=
  let add (d : FMap Byte) : FMap Byte :=
    (List.range bs.length).foldl (fun m i => minsert m (off + i) (bs.getD i 0)) d
  match s.mb.wc.find? (fun e => e.line == line && e.host == host) with
  | some e =>
    let e' := { e with data := add e.data }
    let s := { s with mb := { s.mb with wc := s.mb.wc.map fun x => if x = e then e' else x } }
    some (if e'.data.length = 64 then s.drainEntry e' else s)
  | none =>
    if wcOwned s pt host ≤ wcUsed s pt (pageBus (line / 64)) host then none
    else
      let e : WcEntry := { pt, host, line, data := add [], first := s.cmb.beat, waits := false }
      let s := { s with mb := { s.mb with wc := s.mb.wc ++ [e] } }
      some (if e.data.length = 64 then s.drainEntry e else s)

/-! ## The partition address space (R208, R209, Table 9-1) -/

/-- Where a partition byte address lies. -/
inductive Loc where
  | hbm (h off : Nat)
  | crown (g off : Nat)
  | outer (line off : Nat)
  | none
deriving DecidableEq, Repr

/-- Resolve a partition byte address (Table 9-1). -/
def resolve (s : State) (p a : Nat) : Loc :=
  if !inPartition s p a 1 then .none
  else if a < 0x10000000000 then .hbm ((ptStacks s p).getD (a / 2 ^ 36) 0) (a % 2 ^ 36)
  else if a < 0x20000000000 then
    let o := a - 0x10000000000
    .crown (ptFirst s p + o / 2 ^ 31) (o % 2 ^ 31)
  else
    let d := 4096 * firstPage s p + (a - 0x20000000000)
    .outer (d / 64) (d % 64)

/-- The 64 bytes of the line at a partition address (which is a multiple of 64), as a requester sees them. -/
def readLine (s : State) (p a : Nat) : List Byte :=
  match resolve s p a with
  | .hbm h off => hbmRead s h off
  | .crown g off => readN s (crownBase g + off) 64
  | .outer line _ => omRead s line
  | .none => zeros 64

/-- n lines from a partition address. -/
def readLines (s : State) (p a n : Nat) : List (List Byte) := (List.range n).map fun i => readLine s p (a + 64 * i)

/-- Write a line at a partition address other than outer memory. -/
def writeNear (s : State) (p a : Nat) (bs : List Byte) : State :=
  match resolve s p a with
  | .hbm h off => hbmWrite s h off bs
  | .crown g off => writeN s (crownBase g + off) (padTo 64 bs)
  | .outer _ _ => s
  | .none => s

/-- The device page of a partition's address is retired or belongs to an INIT region: host DMA waits (R250). -/
def lineInit (s : State) (p a : Nat) : Bool :=
  match resolve s p a with
  | .outer line _ => inInit s line
  | _ => false

/-! ## Rows (R223 to R225) -/

/-- A row's stack, PC and page within the PC. -/
def rowStack (row : Nat) : Nat := row / 2 ^ 25
def rowPc (row : Nat) : Nat := row % 32
def rowPage (row : Nat) : Nat := row % 2 ^ 25 / 32

/-- Page-retirement entries of a PC. -/
def retiredIn (s : State) (row : Nat) : Nat :=
  (s.mb.retired.filter fun x => x.1 == rowStack row && x.2.1 == rowPc row).length

end Sys2Proof.Machine
end

