-- ==== Sys2Proof/Machine/Outer.lean ====
section
/-!
DEFINITION. The events of outer memory and of the release window (09): write-combining timeouts, trackers, MAC checks,
key regions from INIT to FLUSHING, the refresh watchdog.
-/

namespace Sys2Proof.Machine

/-- A line's MAC can be good: the key under its key ID is there (R416). -/
def keyLive (s : State) (line : Nat) : Bool := s.mb.kids.any fun k => k.1 == lineKid s line

/-- Two beats after an entry's first write the device reads the line and checks its MAC, then merges the masked bytes and writes
the whole line; a mismatch is an integrity alarm, and nothing is written (R244, R245). While the region is in INIT the read
waits (Table 9-7). -/
def wcEntryTimeoutEffect (bus line : Nat) (s : State) (macOk : Bool) : State :=
  match s.mb.wc.find? (fun e => e.line == line && !e.waits) with
  | none => s
  | some e =>
    if pageBus (line / 64) = bus ∧ 2 ≤ (s.cmb.beat - e.first).toNat ∧ !inInit s line then
      if macOk && keyLive s line then s.drainEntry e
      else if s.isHalted then s else s.haltDevice 2 bus (rawLine line)
    else s

/-- A watched page that no tracker works on has been re-encrypted early: every line is under (M + 1, 0) (R240). -/
def State.earlyDone (s : State) (page : Nat) : State :=
  let x := omPage s page
  if s.mb.watch.contains page ∧ x.major + 1 < 2 ^ 64 - 1 then
    let s := s.setOmPage page { x with major := x.major + 1, defMinor := 0, minors := [] }
    { s with mb := { s.mb with watch := s.mb.watch.filter fun p => p ≠ page } }
  else s

/-- A write that waited runs, or waits on. -/
def State.resumeWrite (s : State) (e : WcEntry) : State :=
  let e' := { e with waits := false }
  ({ s with mb := { s.mb with wc := s.mb.wc.map fun y => if y = e then e' else y } }).drainEntry e'

/-- A tracker of a bus has become free: the writes that wait on the bus run in the order of the buffer, as far as the trackers
reach; R240 names no order (DESIGN CHOICE, log entry 33). -/
def State.resumeBus (s : State) (bus : Nat) : State :=
  s.each (s.mb.wc.filter fun e => e.waits && pageBus (e.line / 64) == bus) fun s e => s.resumeWrite e

/-- A page is watched no more (R240). -/
def State.unwatch (s : State) (page : Nat) : State :=
  { s with mb := { s.mb with watch := s.mb.watch.filter fun p => p ≠ page } }

/-- A page whose lines are all marked: its major counter is M + 1 and its tracker free (R239). -/
def OmPage.finish (x : OmPage) (t : Tracker) : OmPage :=
  { x with major := x.major + 1, defMinor := 0, minors := x.minors.filter fun e => t.marked.contains e.1, tracker := none }

/-- Every line of the page is marked: the page's major counter becomes M + 1 and the tracker is free; writes that
waited for one on the bus take it (R239, R240). -/
def trackerDoneEffect (page : Nat) (s : State) : State :=
  let x := omPage s page
  match x.tracker with
  | none => s.earlyDone page
  | some t => ((s.setOmPage page (x.finish t)).unwatch page).resumeBus (pageBus page)

/-- HALT_CAUSE of a failed check that no requester's read awaits: the read of a tracker, the watch list or a sweep, or of
an initialisation (R244, Table 9-9). -/
def maintenanceCause (s : State) (page : Nat) : Option Nat :=
  let st := (pageRegion s page).map fun r => (s.region r).st
  let sweeps := (pageRegion s page).any fun r => (s.region r).sweeping
  if (omPage s page).tracker.isSome || s.mb.watch.contains page || sweeps then some 3
  else if st == some .init then some 4
  else none

/-- A MAC check completes; a mismatch is an integrity alarm, and a line whose key has been destroyed never matches (R242 to
R244, R416). -/
def macCheckCompleteEffect (bus line : Nat) (found : Bool) (s : State) : State :=
  let ok := found && keyLive s (64 * rawPage bus line + line % 64)
  match s.mb.checks.find? (fun e => e.1 == bus && e.2.1 == line) with
  | none =>
    match maintenanceCause s (rawPage bus line) with
    | some c => if ok || s.isHalted then s else s.haltDevice c bus line
    | none => s
  | some e =>
    let s := { s with mb := { s.mb with checks := s.mb.checks.erase e } }
    if ok || s.isHalted then s else s.haltDevice e.2.2 bus line

/-- 256 ns after outgoing data entered a release buffer it leaves, where the gate is open (R29, R243). -/
def releaseWindowExpiryEffect (gate : Egress) (s : State) : State :=
  if s.gates.closed then s
  else
    match gate with
    | .bough => match s.gates.bough with
      | o :: os => ({ s with gates := { s.gates with bough := os } }).emit o
      | [] => s
    | .pcie => match s.gates.pcie with
      | o :: os => ({ s with gates := { s.gates with pcie := os } }).emit o
      | [] => s
    | .checkpoint => match s.gates.ckpt with
      | o :: os => ({ s with gates := { s.gates with ckpt := os } }).emit o
      | [] => s

/-! ## Refresh (R219 to R222) -/

/-- A stack's counts of beats since each PC's last refresh. -/
def refreshOf (s : State) (h : Nat) : List Nat :=
  let l := mget [] s.mb.refresh h
  (List.range 32).map fun p => l.getD p 0

/-- An image's refresh plan (R218). -/
def refreshPlan (img : List Byte) : List Byte := secShared img 0x22

/-- The PC mask that a refresh plan gives a relative stack at a beat offset (R218). -/
def maskIn (t : List Byte) (off j : Nat) : Nat :=
  let period := getLE t 0 4
  let count := getLE t 4 1
  getLE t (16 + 4 * (count * (off % period) + j)) 4

/-- The beat that runs is the last one of the partition's step gap (R220). -/
def gapEnds (s : State) (pt : Nat) : Bool :=
  match (s.part pt).sel with
  | some x => x.named && x.start == s.cmb.beat + 1
  | none => false

/-- The PCs of a stack whose next refresh may not wait: after a completion beat the controller's own timetable keeps the 4-beat
spacing (R221). After a discard it may not have taken over yet, which the watchdog catches (R222). -/
def spacingMask (s : State) (pt h : Nat) : Nat :=
  match (s.part pt).cur with
  | some r => if r.ph = .discarded then 0 else maskOf ((List.range 32).filter fun p => decide (3 ≤ (refreshOf s h).getD p 0))
  | none => maskOf ((List.range 32).filter fun p => decide (3 ≤ (refreshOf s h).getD p 0))

/-- The PCs that a partition's stacks refresh in the beat that runs: those of the step's plan; every PC in the last beat of
a step gap; else those of the controller's own timetable (R219 to R221). -/
def refreshMasks (s : State) (pt : Nat) : List (Nat × Nat) :=
  match (s.part pt).running with
  | some r =>
    let plan := refreshPlan ((s.part pt).image r)
    (ptStacks s pt).mapIdx fun j h => (h, maskIn plan (s.offset r) j)
  | none => (ptStacks s pt).map fun h =>
    (h, if gapEnds s pt then 2 ^ 32 - 1 else Nat.lor (spacingMask s pt h) (Config.idleRefresh s.nowBeat.toNat h).toNat)

/-- One beat of refresh for a partition: PCs of the mask start at 0, the others count on (R219, R222). -/
def State.refreshBeat (s : State) (pt : Nat) : State :=
  s.each (refreshMasks s pt) fun s m =>
    let l := (refreshOf s m.1).mapIdx fun p n => if bitAt m.2 p then 0 else n + 1
    { s with mb := { s.mb with refresh := mput [] s.mb.refresh m.1 (if l.all (· == 0) then [] else l) } }

/-- The watchdog: a count of 5 forces a refresh, sets REFRESH_WD and discards the running step; with none it is only
logged (R222). -/
def refreshWatchdogEffect (stack pc : Nat) (s : State) : State :=
  match ptOfStack s stack with
  | none => s
  | some pt =>
    if (refreshOf s stack).getD pc 0 < 5 then s
    else
      let l := (refreshOf s stack).mapIdx fun p n => if p = pc then 0 else n
      let s := { s with mb := { s.mb with refresh := mput [] s.mb.refresh stack (if l.all (· == 0) then [] else l) } }
      (s.event .mem 6 pt (toLE 1 stack ++ toLE 1 pc)).detect pt (plainFault 0x0109 (s.suspect 0 0))

/-! ## Key regions (R248 to R250, Table 9-7) -/

/-- The device address and size of a region's plain lines. -/
def regionBytes (s : State) (r : Nat) : Nat × Nat :=
  let x := s.region r
  (outerBase + 4096 * (firstPage s (r / 16) + x.base), 4096 * x.pages)

/-- A page lies in region r. -/
def inRegion (s : State) (r page : Nat) : Bool := pageRegion s page == some r

/-- INIT ends: every line is zero plaintext under major 0, minor 0; the region is ACTIVE (Table 9-7). -/
def regionInitDoneEffect (r : Nat) (s : State) : State :=
  let x := s.region r
  if x.st = .init then
    let b := regionBytes s r
    let s := clearRange s b.1 b.2
    let s := { s with mb := { s.mb with om := s.mb.om.filter fun e => !inRegion s r e.1 } }
    let s := s.setRegion r { x with st := .active, progress := x.pages, defMajor := 0, defMinor := 0 }
    s.each (s.mb.wc.filter fun e => e.waits && inRegion s r (e.line / 64)) fun s e => s.resumeWrite e
  else s

/-- A requested rotation takes effect at a step boundary: a key ID whose bit 0 differs (R249). -/
def rotationStartEffect (r : Nat) (s : State) : State :=
  let x := s.region r
  if x.rotate ∧ (x.st = .active ∨ x.st = .exhausted) ∧ !x.sweeping ∧ x.prev = x.kid ∧
      (s.part (r / 16)).running.isNone then
    let k := freeKidOpposite s x.kid
    let s := s.newKid k
    s.setRegion r { x with st := .rotating, kid := k, prev := x.kid, progress := 0,
                           wasExhausted := x.st = .exhausted, rotate := false, sweeping := true }
  else s

/-- The sweep rewrites line i of a page: its minor counter advances, or at 127 it is written under the next major counter and
marked in the page's tracker (R239, R249). -/
def OmPage.sweepLine (x : OmPage) (i : Nat) : OmPage :=
  let m := mget x.defMinor x.minors i
  if m < 127 then { x with minors := minsert x.minors i (m + 1) }
  else { x with minors := minsert x.minors i 0, tracker := some ⟨i :: (x.tracker.map Tracker.marked).getD []⟩ }

/-- A page's lines under another key ID than the region's new one. -/
def OmPage.oldLines (x : OmPage) (kid : Nat) : List Nat :=
  (List.range 64).filter fun i => !x.kids.any fun e => e.1 == i && e.2 == kid

/-- A page after the sweep has rewritten its old-ID lines; a page whose lines are then all marked is finished. -/
def OmPage.swept (x : OmPage) (kid : Nat) : OmPage :=
  let y := { (x.oldLines kid).foldl OmPage.sweepLine x with kids := [] }
  match y.tracker with
  | some t => if (List.range 64).all t.marked.contains then y.finish t else y
  | none => y

/-- A page whose counters the sweep of a region that was EXHAUSTED sets to (0, 0) (R249). -/
def OmPage.fresh : OmPage := { major := 0, defMinor := 0, minors := [], kids := [], tracker := none }

/-- The sweep would take a page's major counter to FFFF_FFFF_FFFF_FFFFh (R241). -/
def OmPage.spent (x : OmPage) (kid : Nat) : Bool :=
  x.major + 1 == 2 ^ 64 - 1 && (x.oldLines kid).any fun i => mget x.defMinor x.minors i == 127

/-- The sweep of one page; none while a line of it overflows and no tracker of the bus is free (R240). -/
def sweepPage (s : State) (page kid : Nat) (reset : Bool) : Option State :=
  let x := omPage s page
  let y := if reset then OmPage.fresh else x.swept kid
  let takes := !reset && x.tracker.isNone && (x.oldLines kid).any fun i => mget x.defMinor x.minors i == 127
  if takes && decide (16 ≤ trackersOn s (pageBus page)) then none
  else
    let s := (s.setOmPage page y).unwatch page
    let s := if y.minors.any fun e => decide (112 ≤ e.2) then s.watchPage page else s
    some (if x.tracker.isSome && y.tracker.isNone then s.resumeBus (pageBus page) else s)

/-- The sweep of pages in order. -/
def sweepPages (kid : Nat) (reset : Bool) : List Nat → State → Option State
  | [], s => some s
  | p :: ps, s =>
    match sweepPage s p kid reset with
    | some t => sweepPages kid reset ps t
    | none => none

/-- The counters of the pages of a region that no write has reached, taken as one page. -/
def Region.rest (x : Region) : OmPage :=
  { major := x.defMajor, defMinor := x.defMinor, minors := [], kids := [], tracker := none }

/-- The pages of a region that a sweep puts on the watch list for their untouched lines, in ascending order (R240). -/
def restWatch (s : State) (r : Nat) : List Nat :=
  let x := s.region r
  if 112 ≤ x.defMinor then
    ((List.range (min x.pages 8192)).map (firstPage s (r / 16) + x.base + ·)).filter fun p => !s.mb.om.any fun e => e.1 == p
  else []

/-- SWEEP_DONE: the sweep has rewritten every old-ID line, and the region goes to FLUSHING (Table 9-7). A write of the sweep that
would take a major counter to its last value is not performed: the region is EXHAUSTED, and its sweep goes on to put every line
under (0, 0) (R241, R249; DEDUCED, log entry 10). While a page waits for a tracker the sweep is not done. -/
def sweepDoneEffect (r : Nat) (s : State) : State :=
  let x := s.region r
  let pages := (s.mb.om.map (·.1)).filter (inRegion s r)
  if !x.sweeping then s
  else if !x.wasExhausted && (x.rest.spent x.kid || pages.any fun p => (omPage s p).spent x.kid) then
    (s.setRegion r { x with st := .exhausted, wasExhausted := true }).event .mem 8 (r / 16)
      (omDetail (64 * (firstPage s (r / 16) + x.base)))
  else
    match sweepPages x.kid x.wasExhausted pages s with
    | none => s
    | some s =>
      let y := if x.wasExhausted then OmPage.fresh else
        if x.defMinor < 127 then { x.rest with defMinor := x.defMinor + 1 } else { OmPage.fresh with major := x.defMajor + 1 }
      let s := s.setRegion r { x with
        st := .flushing, progress := x.pages, sweeping := false, defMajor := y.major, defMinor := y.defMinor }
      s.each (restWatch s r) State.watchPage

/-- FLUSHING ends once no write-combining entry holds a line of the region: the old key is destroyed, its ID free, and the
rotation is complete, which an EXHAUSTED region leaves too (Table 9-7, R241). -/
def flushDoneEffect (r : Nat) (s : State) : State :=
  let x := s.region r
  if x.prev ≠ x.kid ∧ !x.sweeping ∧ !s.mb.wc.any (fun e => inRegion s r (e.line / 64)) then
    (s.retireKid x.prev).setRegion r { x with
      st := .active, prev := x.kid, wasExhausted := false }
  else s

def execWcEntryTimeout (b l : Nat) (s : State) (ok : Bool := true) :=
  checked (.wcEntryTimeout b l ok) s (wcEntryTimeoutEffect b l s ok)
def execTrackerDone (p : Nat) (s : State) := checked (.trackerDone p) s (trackerDoneEffect p s)
def execMacCheckComplete (b l : Nat) (ok : Bool) (s : State) :=
  checked (.macCheckComplete b l ok) s (macCheckCompleteEffect b l ok s)
def execReleaseWindowExpiry (g : Egress) (s : State) :=
  checked (.releaseWindowExpiry g) s (releaseWindowExpiryEffect g s)
def execRefreshWatchdog (h p : Nat) (s : State) := checked (.refreshWatchdog h p) s (refreshWatchdogEffect h p s)
def execRegionInitDone (r : Nat) (s : State) := checked (.regionInitDone r) s (regionInitDoneEffect r s)
def execRotationStart (r : Nat) (s : State) := checked (.rotationStart r) s (rotationStartEffect r s)
def execSweepDone (r : Nat) (s : State) := checked (.sweepDone r) s (sweepDoneEffect r s)
def execFlushDone (r : Nat) (s : State) := checked (.flushDone r) s (flushDoneEffect r s)

end Sys2Proof.Machine
end

