-- ==== Sys2Proof/Machine/Objects.lean ====
section
/-!
DEFINITION. Memory objects (14, R387 to R390): OBJ_MAP, OBJ_FREE and its late completion, and the object table that the
device keeps in the outer memory of a context's partition (R383). The device acts by the entries that State holds; their
bytes follow every change (DESIGN CHOICE, log entry 40).
-/

namespace Sys2Proof.Machine

/-- An entry of the object table (Table 14-9). -/
def Obj.bytes (o : Obj) : List Byte :=
  toLE 2 (if o.live then o.tag else 0) ++ toLE 1 o.kind ++ toLE 1 o.access ++ zeros 4 ++ toLE 8 o.base ++ toLE 8 o.length ++
    toLE 8 o.tagBase

/-- Write to an object table, by the host write-combining entries of the partition (R245, R383); none while the write waits for
one, or for its region's INIT. -/
def State.writeTable (s : State) (pt a : Nat) (bs : List Byte) : Option State :=
  match resolve s pt a with
  | .outer line off => if inInit s line then none else wcWrite s pt true line off bs
  | _ => some s

/-- Write the entry of an object index to its context's table. -/
def State.storeObj (s : State) (c i : Nat) : Option State :=
  s.writeTable (s.ctx c).pt ((s.ctx c).objTable + 32 * i) (objAt s c i).bytes

/-- Every entry of an object table becomes free, TAG 0; none while a write waits (R383, Table 14-9). -/
def State.clearTable (s : State) (pt tbl : Nat) : Option State :=
  (List.range 32768).foldl (fun o i => o.bind fun s => s.writeTable pt (tbl + 64 * i) (zeros 64)) (some s)

/-- CTX_CREATE (R381, R383). -/
def ctxCreateEffect (q : Nat) (s : State) : State :=
  s.onCmd q 0x10 fun b s0 =>
    let s := s0
    let ses := (s.queue q).session
    match (s.session ses.toNat).pt with
    | none => s.finishCmd q 0x12
    | some p =>
      let tbl := getLE b 8 8
      let save := getLE b 16 8
      if !areasOk s p tbl save then s.finishCmd q 0x14
      else
        match oldestFree s.hif.ctxs {} Ctx.live Ctx.freedAt 4096 with
        | none => s.finishCmd q 0x04
        | some i =>
          let c := s.ctx i
          let s := s.setCtx i { live := true, tag := c.tag, session := ses, pt := p, objTable := tbl, saveBase := save }
          match (s.storeCtx i).clearTable p tbl with
          | some t => t.finishCmd q 0 (c.tag * 65536 + i)
          | none => s0

/-- Store an object index's entry and go on, or wait. -/
def State.keepObj (s t : State) (c i : Nat) (f : State → State) : State :=
  match t.storeObj c i with
  | some u => f u
  | none => s

/-- OBJ_MAP (R387). -/
def objMapEffect (q : Nat) (s : State) : State :=
  s.onCmd q 0x13 fun b s =>
    match (s.queue q).ctx with
    | none => s.finishCmd q 0x12
    | some c =>
      let x := s.ctx c
      let kind := getLE b 4 1
      let base := getLE b 8 8
      let len := getLE b 16 8
      let party := (s.session x.session.toNat).party
      if kind = 2 ∧ !(inPartition s x.pt base len && waysOpen s x.pt base len && granted s x.pt party base len) then
        s.finishCmd q 0x14
      else
        match oldestFree x.objs {} Obj.live Obj.freedAt 65536 with
        | none => s.finishCmd q 0x04
        | some i =>
          let o := objAt s c i
          let t := s.setObj c i { live := true, tag := o.tag, kind, access := getLE b 5 1, base, length := len,
                                  tagBase := getLE b 24 8, freedAt := 0, freeing := none }
          s.keepObj t c i fun t => t.finishCmd q 0 (o.tag * 65536 + i)

/-- A fetched command of some queue of the context other than q uses the object index (R390); another OBJ_FREE of it does
not. -/
def objNamed (s : State) (c i q : Nat) : Bool :=
  (List.range 48).any fun j =>
    j != q && (s.queue j).ctx == some c &&
      (match (s.queue j).cmd with
       | some cmd => opOf cmd.body != 0x14 && (objHandles cmd.body).any fun h => field h 0 16 == i
       | none => false)

/-- The object's index becomes free (R390). -/
def State.freeObj (s : State) (c i : Nat) : State :=
  let o := objAt s c i
  let s := s.setObj c i { tag := o.tag, freedAt := s.hif.tick }
  { s with hif := { s.hif with tick := s.hif.tick + 1 } }

/-- OBJ_FREE: the tag advances at once; the completion waits while a fetched command names the object (R390). An object
freed since the fetch makes the handle stale (DESIGN CHOICE, log entry 39). -/
def objFreeEffect (q : Nat) (s : State) : State :=
  s.onCmd q 0x14 fun b s =>
    match (s.queue q).ctx with
    | none => s.finishCmd q 0x12
    | some c =>
      let i := field (getLE b 4 4) 0 16
      let o := objAt s c i
      let t := s.setObj c i { o with tag := nextTag o.tag }
      if (objHandle s q (getLE b 4 4)).isNone then s.finishCmd q 0x13
      else if objNamed s c i q then
        s.keepObj (t.setObj c i { (objAt t c i) with freeing := some q }) c i fun t => t.setBusy q
      else s.keepObj (t.freeObj c i) c i fun t => t.finishCmd q 0

/-- When the last command that names a freed object has completed, OBJ_FREE completes (R390). -/
def objFreeReleaseEffect (q : Nat) (s : State) : State :=
  match (s.queue q).ctx with
  | none => s
  | some c =>
    match (s.ctx c).objs.find? (fun e => e.2.freeing == some q) with
    | none => s
    | some e => if objNamed s c e.1 q then s else s.keepObj (s.freeObj c e.1) c e.1 fun t => t.finishCmd q 0

/-! ## Meanings -/

def execCtxCreate (q : Nat) (s : State) := checked (.ctxCreate q) s (ctxCreateEffect q s)
def execObjMap (q : Nat) (s : State) := checked (.objMap q) s (objMapEffect q s)
def execObjFree (q : Nat) (s : State) := checked (.objFree q) s (objFreeEffect q s)
def execObjFreeRelease (q : Nat) (s : State) := checked (.objFreeRelease q) s (objFreeReleaseEffect q s)

end Sys2Proof.Machine
end

