-- ==== Sys2Proof/Machine/Power.lean ====
section
/-!
DEFINITION. Sapflow, clocks, the configuration commit, power and resets (16, 18): energy figures and budgets, the
standby clock, thermal and current protection, the commit of staged fields, and what a reset leaves.
-/

namespace Sys2Proof.Machine

/-! ## Power profiles and sustained figures (R84, R446) -/

/-- A power profile record. -/
structure PowRec where
  run : Nat
  part : Nat
  groves : List Nat
deriving DecidableEq, Repr

/-- Record i of a power profile. -/
def powRec (b : List Byte) (i : Nat) : PowRec :=
  { run := getLE b (24 * i) 4, part := getLE b (24 * i + 4) 2,
    groves := (List.range 8).map fun g => getLE b (24 * i + 8 + 2 * g) 2 }

def powRecs (b : List Byte) : List PowRec := (List.range (b.length / 24)).map (powRec b)

/-- The energy per beat that a record gives the partition (none) or a relative grove, in 1/16 µJ. -/
def PowRec.val (r : PowRec) (k : Option Nat) : Nat :=
  match k with
  | none => r.part
  | some g => r.groves.getD g 0

/-- One cycle of a tier: its profile and the idle step gap of 20 beats (R93), as runs in 1/128 µJ per beat. -/
def cycleRuns (s : State) (recs : List PowRec) (n : Nat) (k : Option Nat) : List (Nat × Nat) :=
  recs.map (fun r => (r.run, 8 * r.val k)) ++ [(20, match k with
    | none => n * s.idleModule
    | some _ => 8 * s.idleGrove)]

/-- Energy of the first n beats of runs. -/
def sumRuns : List (Nat × Nat) → Nat → Nat
  | [], _ => 0
  | (r, v) :: l, n => if n ≤ r then n * v else r * v + sumRuns l (n - r)

/-- Energy of the first n beats of a cycle that repeats back to back. -/
def sumCycle (runs : List (Nat × Nat)) (n : Nat) : Nat :=
  let len := (runs.map (·.1)).sum
  n / len * sumRuns runs len + sumRuns runs (n % len)

/-- The sustained figure times 10,000 beats: the greatest energy of any 10,000 consecutive beats, in 1/128 µJ. -/
def sustained (runs : List (Nat × Nat)) : Nat :=
  (List.range ((runs.map (·.1)).sum)).foldl (fun m i =>
    max m (sumCycle runs (i + 10000) - sumCycle runs i)) 0

/-! ## The budget (R447, R448) -/

/-- cap of R447, in W, at the boundary that ended the last beat: a cap written in that beat does not count yet. -/
def capW (s : State) : Nat := min 3000 s.sap.capSel

/-- The readings of a grove's last 1,000 beats; the latest ones where none is that young. -/
def recentTemps (s : State) (g : Nat) : List (Int × Int) :=
  let t := s.thermal g
  let l := (t.hist.filter fun e => decide (s.pwr.uptime < e.1 + 1000)).map (·.2)
  if l.isEmpty then [(t.compute, t.hbm)] else l

/-- B_g as a fraction: numerator in W over a denominator of 8 per reading (R447). -/
def groveBudget (s : State) (g : Nat) : Int × Nat :=
  let l := recentTemps s g
  let den : Int := 8 * (l.length : Int)
  let c := (l.map (·.1)).foldl (· + ·) 0
  let h := (l.map (·.2)).foldl (· + ·) 0
  let m : Int := (s.sap.tmargin.toNat : Int)
  let num := 265 * den - 20 * (max 0 (c - den * (105 - m)) + max 0 (h - den * (95 - m)))
  (max 0 num, den.toNat)

/-- B_g lies below 265 W. -/
def budgetLow (s : State) (g : Nat) : Bool := decide ((groveBudget s g).1 < 265 * (groveBudget s g).2)

/-- The groves whose B_g lies below 265 W. -/
def lowGroves (s : State) : List Nat := (List.range 8).filter (budgetLow s)

/-- A B_g that has fallen below 265 W sets THERM_WARN (Table 16-11); was lists those that lay below it before. -/
def State.warnFalls (s : State) (was : List Nat) : State :=
  s.each ((lowGroves s).filter fun g => !was.contains g) fun s g => s.event .sap 4 ((ptOfGrove s g).getD 0xFF)

/-- THERM_ALERT# on J1 is asserted (R448). -/
def thermAlert (s : State) : Bool := (List.range 8).any fun g => budgetLow s g || (s.thermal g).stop

/-- A tier of an image fits partition pt; above the active tier the figures carry the hysteresis (R448). -/
def tierFits (s : State) (pt : Nat) (img : List Byte) (tier : Nat) : Bool :=
  let n := ptSize s pt
  let recs := powRecs (secPower img tier)
  let up := decide (tier < (s.clock pt).tier)
  let f (x : Nat) : Nat := if up then x * (1000 + s.sap.hyst.toNat) else x * 1000
  decide (f (sustained (cycleRuns s recs n none)) ≤ capW s * n * 160000 * 1000) &&
    (List.range n).all fun k =>
      let b := groveBudget s (ptFirst s pt + k)
      decide ((f (sustained (cycleRuns s recs n (some k))) * b.2 : Int) ≤ 8 * 160000 * 1000 * b.1)

/-! ## Sensors and protection (R455 to R457, R473) -/

/-- A reading stays 5 degrees below both limits (R456). -/
def coolReading (c h : Int) : Bool := decide (c ≤ 800) && decide (h ≤ 720)

/-- A grove takes in its hottest compute and HBM readings (R447, R456). -/
def State.takeHottest (s : State) (g : Nat) (c h : Int) : State :=
  let t := s.thermal g
  s.setThermal g { t with
    compute := c, hbm := h,
    hist := (s.pwr.uptime, c, h) :: t.hist.filter fun e => decide (s.pwr.uptime < e.1 + 1000),
    cool := if coolReading c h then some (t.cool.getD s.pwr.uptime) else none }

/-- The latest reading of a thermal sensor; 40 °C where none has been read (DESIGN CHOICE, log entry 7). -/
def State.sensor (s : State) (i : Nat) : Int := mget 320 s.sap.sensors i

/-- The hottest of sensors. -/
def State.hottest (s : State) (l : List Nat) : Int :=
  match l with
  | [] => 320
  | i :: l => l.foldl (fun m k => max m (s.sensor k)) (s.sensor i)

/-- The sensors of grove g, and those of the stacks that it owns (Table 17-1, R16). -/
def groveSensors (g : Nat) : List Nat := (List.range 82).map (82 * g + ·)
def hbmSensors (v : Variant) (g : Nat) : List Nat :=
  (groveStacks v g).flatMap fun h => (List.range 8).map (688 + 8 * h + ·)

/-- Every grove takes in its hottest readings; a B_g that falls below 265 W sets THERM_WARN. -/
def State.takeReadings (s : State) : State :=
  (s.each (List.range 8) fun s g => s.takeHottest g (s.hottest (groveSensors g)) (s.hottest (hbmSensors s.variant g))).warnFalls
    (lowGroves s)

/-- SENSOR_READ runs from Seedling on (R457, R473). -/
def sensorReadEffect (readings : List SensorReading) (rails : List RailReading) (s : State) : State :=
  if !s.powered then s
  else
    ({ s with sap := { s.sap with
        rails, sensors := readings.foldl (fun m (r : SensorReading) => mput 320 m r.sensor r.value) s.sap.sensors } }).takeReadings

/-- The supply-current readiness test fails in an ac (R455). -/
def currentFault (ac : Nat) : FaultInfo :=
  { cause := 0x0108, point := 8, suspect := 0, ac, cluster := 0xFFFF, stream := 0xFF, word := 0xFFFFFFFF, detail := 0 }

/-- The limiter of a grove trips: CURRENT_TRIP, and the partition's running step executes no further operation and is discarded
(R455). -/
def State.limiterTrip (s : State) (pt ac : Nat) : State :=
  let s := s.event .sap 1 pt
  if (s.part pt).running.isSome then
    (s.detect pt { currentFault ac with suspect := s.suspect 0 0 }).updRun pt fun r => { r with tripped := true }
  else s

/-- The energy per beat that a profile gives a beat offset of the step, for the partition or a relative grove, in 1/16 µJ. -/
def profileAt (recs : List PowRec) (beat : Nat) (k : Option Nat) : Nat :=
  match recs with
  | [] => 0
  | r :: l => if beat < r.run then r.val k else profileAt l (beat - r.run) k

/-- What has been drawn is beyond what trips the limiter: in a step the profile's value for the beat and the margin, 300 W
outside steps (R455). -/
def drawTrips (s : State) (pt grove : Nat) (d : DrawAt) : Bool :=
  match (s.part pt).running with
  | some r =>
    let recs := powRecs (secPower ((s.part pt).image r) r.tier)
    let m := 16 * s.sap.ilim.toNat
    decide (profileAt recs (s.offset r) (some (grove - ptFirst s pt)) + m < d.grove) ||
      decide (profileAt recs (s.offset r) none + ptSize s pt * m < d.part)
  | none => decide (4800 ≤ d.grove)

def currentLimitTripEffect (pt grove : Nat) (d : DrawAt) (s : State) : State :=
  if s.powered && ptOfGrove s grove == some pt && drawTrips s pt grove d then s.limiterTrip pt d.ac else s

/-- The ac, within its beat, that a running step's stream time has reached; 0 with no step. -/
def acNow (s : State) (pt : Nat) : Nat :=
  match (s.part pt).running with
  | some r => r.clock % acPerBeat r.tier
  | none => 0

/-- A thermal stop begins when a reading is at its limit, 105 °C or 95 °C (R456). The limiter trips at once; the fault takes the
ac that stream time has reached, since the rule names none (DESIGN CHOICE, log entry 7). -/
def thermalStopEffect (grove : Nat) (s : State) : State :=
  let t := s.thermal grove
  if s.powered ∧ (840 ≤ t.compute ∨ 760 ≤ t.hbm) ∧ !t.stop then
    let pt := (ptOfGrove s grove).getD 0
    let s := s.setThermal grove { t with stop := true }
    (s.event .sap 5 pt).limiterTrip pt (acNow s pt)
  else s

/-- Every sensor of the partition has stayed cool for 1,000 beats (R456). -/
def coolLong (s : State) (pt : Nat) : Bool :=
  (ptGroves s pt).all fun g => match (s.thermal g).cool with
    | some b => decide (b + 1000 ≤ s.pwr.uptime)
    | none => false

def thermalStopEndEffect (grove : Nat) (s : State) : State :=
  match ptOfGrove s grove with
  | none => s
  | some pt => if coolLong s pt then s.setThermal grove { s.thermal grove with stop := false } else s

/-! ## What a reset leaves (R468, Table 16-6) -/

/-- The life-cycle states whose root is the test root (R417). -/
def testState (lc : LcState) : Bool :=
  lc == .wafer || lc == .assembled || lc == .returned || lc == .scrapped

/-- Heartwood after a reset: the fuses and the tamper latch stay; the keys are destroyed, and the root is chosen
anew (R413, R415, R417). -/
def Heartwood.afterReset (h : Heartwood) : Heartwood :=
  { lcBegin := h.lcBegin, lcDone := h.lcDone, scanFuse := h.scanFuse, bankA := h.bankA, bankB := h.bankB,
    blockFuse := h.blockFuse, certFuse := h.certFuse, tamperFuses := h.tamperFuses, svnFuses := h.svnFuses,
    tamperLatch := h.tamperLatch, testRoot := testState (lcState h) }

/-- A power loss or a reset of Canopy's core leaves an open block for the next Rooted stage to close (R476). -/
def LogBlock.leftOpen (b : LogBlock) : LogBlock := if b.closed then b else { b with stale := true }

/-- Canopy after a reset: what module flash holds stays (Table 17-5). -/
def Canopy.afterReset (c : Canopy) : Canopy :=
  { anchor := c.anchor, logSeq := c.logSeq, blocks := c.blocks.map LogBlock.leftOpen, slot := c.slot, slotOk := c.slotOk,
    idCert := c.idCert }

/-- A port after a reset: its failed-lane map comes from module flash (R362). -/
def Port.afterReset (p : Port) : Port := { failedLanes := p.failedLanes }

/-- A grove's remap table after a reset: module flash holds it (R362). -/
def GroveMap.afterReset (g : GroveMap) : GroveMap := { g with gveFailed := false }

/-- Every register and key at its reset value; fuses, module flash, the plain contents of the memories, the readings of
the sensors and the queue of commands stay. The bounds count anew from here, or from the release of PERST# (R465). -/
def State.volatileReset (s : State) : State :=
  { pending := s.pending, outbox := s.outbox, freeCtr := s.freeCtr, trngCtr := s.trngCtr, variant := s.variant,
    idleGrove := s.idleGrove, idleModule := s.idleModule, shortId := s.shortId, ikPub := s.ikPub,
    pwr := { supply := s.pwr.supply, pwrEn := s.pwr.pwrEn, pwrOk := s.pwr.pwrOk, perst := s.pwr.perst,
             stage := .seedling, uptime := s.pwr.uptime, refAt := s.pwr.uptime, trefAt := s.pwr.trefAt,
             tamperWatch := s.pwr.tamperWatch },
    cmb := { tref := s.cmb.tref },
    sap := { thermal := s.sap.thermal, sensors := s.sap.sensors, rails := s.sap.rails },
    hw := s.hw.afterReset, cnp := s.cnp.afterReset,
    flt := { groves := s.flt.groves.foldl (fun m e => mput {} m e.1 e.2.afterReset) [] },
    mb := { repaired := s.mb.repaired, hard := s.mb.hard, retired := s.mb.retired, poison := s.mb.poison },
    bgh := { ports := s.bgh.ports.foldl (fun m e => mput {} m e.1 e.2.afterReset) [] },
    mem := s.mem, havoc := s.havoc, clusters := s.clusters }

/-- PERST# held for 100 µs (Table 16-6); while PWR_OK is low it has no effect but that the pin stands asserted (Table 18-5). -/
def moduleResetEffect (s : State) : State :=
  let s := if s.powered then s.volatileReset else s
  { s with pwr := { s.pwr with perst := true } }

/-- The module enters Dormant and deasserts PWR_OK: keys are lost, the always-on domain stays; the memories: log entry 5 (R413, R457,
R491). IK_PUB starts the next power period at zero (R517). -/
def State.goDormant (s : State) : State :=
  let s := s.volatileReset
  { s with ikPub := [], pwr := { s.pwr with stage := .dormant, pwrOk := false } }

/-- A reading 10 °C above its limit: Dormant, until the next rising edge of PWR_EN (R457, R494). -/
def thermalShutdownEffect (s : State) : State :=
  if s.powered && ((List.range 8).any fun g =>
      decide (920 ≤ (s.thermal g).compute) || decide (840 ≤ (s.thermal g).hbm)) then s.goDormant
  else s

/-- A grove's thermal record as a power period begins: the uptime that dates its readings starts again. -/
def Thermal.restart (t : Thermal) : Thermal := { t with hist := [], cool := none }

/-- A rising edge of PWR_EN with a valid supply: the rails rise, PWR_OK is asserted and the climb starts. While 48 V is absent
the rails stay down until PWR_EN falls and rises again (R467, R494, Table 18-5). -/
def powerEnableEffect (s : State) : State :=
  if s.pwr.pwrEn then s
  else
    let s := { s with pwr := { s.pwr with pwrEn := true } }
    if s.pwr.supply ∧ s.pwr.stage = .dormant then
      { s with pwr := { s.pwr with pwrOk := true, uptime := 0, refAt := 0, trefAt := if s.cmb.tref then some 0 else none },
               sap := { s.sap with thermal := s.sap.thermal.foldl (fun m e => mput {} m e.1 e.2.restart) [] } }
    else s

/-- PWR_EN deasserted (R495). -/
def powerDisableEffect (s : State) : State :=
  let s := if s.powered ∨ s.pwr.pwrOk then s.goDormant else s
  { s with pwr := { s.pwr with pwrEn := false } }

/-- The supply leaves 46.0 to 57.0 V (R491); the rails rise again only on an edge of PWR_EN (R494). Where 48 V is gone
altogether the always-on domain loses its power, and the tamper latch with it; otherwise both stay (R413, R495, R498). -/
def supplyFaultEffect (s : State) (gone : Bool) : State :=
  let s := if s.powered ∨ s.pwr.pwrOk then s.goDormant else s
  if gone then
    { s with pwr := { s.pwr with supply := false, tamperWatch := false }, hw := { s.hw with tamperLatch := false } }
  else s

/-- A life-cycle state that arms Bark (R411). -/
def armedState (lc : LcState) : Bool := lc == .provisioned || lc == .deployed || lc == .returned

/-- 48 V appears: the always-on domain reads LC_MARKS; its latch was lost with the supply (R411, R413). -/
def supplyAppliedEffect (s : State) : State :=
  if s.pwr.supply then s
  else { s with pwr := { s.pwr with supply := true, tamperWatch := armedState (lcState s.hw) },
                hw := { s.hw with tamperLatch := false } }

/-- PERST# is deasserted at the pin. While PWR_OK is high this is the release of the last reset, from which the bounds count; a
deassertion before then, or less than 20 ms after PWR_OK, counts once those 20 ms have passed (R465, Table 18-5). -/
def perstDeassertEffect (s : State) : State :=
  if s.pwr.perst then
    { s with pwr := { s.pwr with perst := false, refAt := if s.pwr.pwrOk then s.pwr.uptime else s.pwr.refAt } }
  else s

/-- Microseconds from the reference instant within which a stage is reached (Table 16-4). -/
def Stage.bound : Stage → Nat
  | .dormant => 0
  | .seedling => 18000
  | .rooted => 2000000
  | .leafed => 35000000
  | .full => 40000000

/-- The uptime at which the bound of the next stage passes: Leafed and Full count from TREF where that is later, and wait for
it; while PERST# is asserted the reset has not been released (R465). -/
def nextBound (s : State) : Option Nat :=
  match s.pwr.stage with
  | .dormant => some (s.pwr.refAt + Stage.seedling.bound)
  | .seedling => if s.pwr.perst then none else some (s.pwr.refAt + Stage.rooted.bound)
  | .rooted => s.pwr.trefAt.map fun u => max u s.pwr.refAt + Stage.leafed.bound
  | .leafed => s.pwr.trefAt.map fun u => max u s.pwr.refAt + Stage.full.bound
  | .full => none

/-- The bound of the next stage has passed. -/
def boundPassed (s : State) : Bool :=
  match nextBound s with
  | some b => decide (b < s.pwr.uptime)
  | none => false

/-- Seedling is reached from a power-on, before its bound has passed (Table 16-4, R466). -/
def seedlingStageEffect (s : State) : State :=
  if s.pwr.stage = .dormant ∧ s.pwr.pwrOk ∧ !s.pwr.failed ∧ !boundPassed s then { s with pwr := { s.pwr with stage := .seedling } }
  else s

/-- The climb goes on: no bound has passed, and PERST# is deasserted, 20 ms after PWR_OK (R465, R466, Table 18-5). -/
def State.climbing (s : State) : Bool :=
  s.pwr.pwrOk && !s.pwr.perst && decide (20000 ≤ s.pwr.uptime) && !s.pwr.failed && !boundPassed s && !s.isHalted

/-- The climb ends in the stage reached last; REASON 02h hands control to the recovery loader (R466). -/
def State.failStage (s : State) (reason : Nat) : State :=
  let s := { s with pwr := { s.pwr with failed := true, reason := BitVec.ofNat 8 reason } }
  let s := s.logEvent .sap 31 0xFF [BitVec.ofNat 8 reason]
  if reason = 2 then { s with cnp := { s.cnp with recovery := true } } else s

/-- A bound of Table 16-4 passes before its stage is reached (R466). -/
def stageTimeoutEffect (reason : Nat) (s : State) : State :=
  if s.pwr.pwrOk ∧ boundPassed s ∧ !s.pwr.failed then s.failStage reason else s

/-! ## Clocks (R450, R453, R454) -/

/-- The standby PLL locks at its target; a start withheld for it may now be named (R449, R450). -/
def standbyPllLockEffect (pt : Nat) (s : State) : State :=
  let c := s.clock pt
  if s.powered ∧ !c.standbyLocked ∧ !c.domainReset then
    let s := s.setClock pt { c with standbyLocked := true }
    s.updPart pt fun p => { p with sel := p.sel.map fun r =>
      if r.waitLock ∧ r.tau = c.standbyTier then { r with waitLock := false, tier := r.tau } else r }
  else s

/-- Canopy resets the clock domains of a partition's groves (R454): CLOCK_DOMAIN, and memories undefined. -/
def State.resetDomain (s : State) (pt : Nat) : State :=
  let s := s.setClock pt { s.clock pt with domainReset := true, standbyLocked := false }
  let s := s.detect pt (plainFault 0x0602 (s.suspect 0 0))
  s.each ((List.range (100 * ptSize s pt)).map (absCluster s pt)) undefineCluster

def muxHangEffect (pt : Nat) (s : State) : State :=
  if s.powered ∧ pt < (ptList s).length then (s.event .sap 3 pt).resetDomain pt else s

def clockStopEffect (pt : Nat) (s : State) : State :=
  if s.powered ∧ pt < (ptList s).length then (s.event .sap 2 pt).resetDomain pt else s

/-! ## The frequency-measuring counter (R460) -/

def fmcStartEffect (s : State) : State :=
  s.hostField 0x200110 fun s =>
    if anyOwns s 20 then s.event .sap 7
    else if 14 ≤ s.sap.fmcTgtSrc ∨ 14 ≤ s.sap.fmcRefSrc then s
    else { s with sap := { s.sap with fmcBusy := true } }

/-- The frequency of a clock in kHz, where the spec gives it: none for a clock of its own oscillator, for one that no rule
places, and while the PLLs do not follow TREF (Tables 16-2, 16-14, 16-15, R39). -/
def fmcFreq (s : State) (src idx : Nat) : Option Nat :=
  let c := s.clock ((ptOfGrove s idx).getD 0)
  let standby := if c.standbyLocked then some (1000 * acPerBeat c.standbyTier) else none
  if s.cmb.st = .unlocked ∨ s.cmb.st = .holdover then none
  else
    match src with
    | 0 => some 100000
    | 1 => if c.domainReset then none else some (1000 * acPerBeat c.tier)
    | 2 => if c.domainReset then none else if c.onB then standby else some (1000 * acPerBeat c.tier)
    | 3 => if c.domainReset then none else if c.onB then some (1000 * acPerBeat c.tier) else standby
    | 4 => some 1000000
    | 5 => some 500000
    | 6 => match (s.port idx).mode with
      | 0 => some 112000000
      | 1 => some 28000000
      | 2 => some 56000000
      | _ => none
    | 7 => some 4800000
    | 8 => some 4800000
    | 10 => some 1000000
    | 12 => some (500000 / 2 ^ (s.sap.sbDiv + 1))
    | 13 => some (500000 / 2 ^ (s.sap.trDiv + 2))
    | _ => none

/-- A measurement may find the count: it lies within one of the target's edges in the window (R460). -/
def fmcFinds (s : State) (count : Nat) : Bool :=
  match fmcFreq s s.sap.fmcTgtSrc s.sap.fmcTgtIdx, fmcFreq s s.sap.fmcRefSrc s.sap.fmcRefIdx with
  | some t, some r =>
    let w := s.sap.fmcWindow.toNat
    decide (count * r ≤ w * t + r) && decide (w * t ≤ count * r + r)
  | _, _ => true

/-- FMC_DONE: the count that the measurement found. -/
def fmcDoneEffect (count : Nat) (s : State) : State :=
  if s.sap.fmcBusy && fmcFinds s count then
    ({ s with sap := { s.sap with fmcBusy := false, fmcCount := BitVec.ofNat 32 (min count (2 ^ 32 - 1)) } }).event
      .sap 6
  else s

/-! ## The configuration commit (R461 to R464) -/

/-- CFG_COMMIT. -/
def commitBeat (s : State) : DWord := BitVec.ofNat 64 (s.cfg.commitHi.toNat * 2 ^ 32 + s.cfg.commitLo.toNat)

/-- Groves of partition p under a layout row. -/
def rowGroves (row p : Nat) : List Nat :=
  (List.range ((layoutRow row).getD p 0)).map (((layoutRow row).take p).sum + ·)

/-- A layout change meets a partition that holds a tenancy (R37). -/
def layoutMeets (s : State) (row : Nat) (holds : TenSt → Bool) : Bool :=
  (List.range 4).any fun p => holds (s.tenancy p).st && rowGroves row p != rowGroves s.cfg.layout p

/-- A tenancy is held: OPEN or CLOSING. -/
def TenSt.held (t : TenSt) : Bool := t == .opened || t == .closing

/-- BEAT_OUT would meet another owner of J5 pins 7–8 (R48, Table 18-9). -/
def pinConflict (s : State) : Bool := s.cmb.stBeatOut && (s.cmb.trace || anyOwns s 1 || anyOwns s 2)

/-- The first failing check of Table 16-3 for a commit at beat c, taking a as the current beat. -/
def commitCheck (s : State) (beat : DWord) : Option Byte :=
  let c := beat.toNat
  let a := s.nowBeat.toNat
  if s.cfg.pending then some 0x07
  else if c ≠ 0 ∧ !s.onGrid then some 0x06
  else if c ≠ 0 ∧ c < a + 16 then some 0x01
  else if a + 2 ^ 32 < c then some 0x02
  else if s.cfg.stLayout = 0 ∨ 8 < s.cfg.stLayout then some 0x05
  else if layoutMeets s s.cfg.stLayout TenSt.held then some 0x04
  else if pinConflict s then some 0x03
  else none

/-- The checks of one requested commit, at order 4 of the boundary that ends the beat of its ARM (R461, R462). -/
def State.arm (s : State) (c : DWord) : State :=
  match commitCheck s c with
  | some r =>
    let s := ({ s with cfg := { s.cfg with reason := r } }).event .cfg 1 0xFF [r]
    if r = 0x03 then s.event .cmb 5 else s
  | none =>
    if c = 0 then { s with cfg := { s.cfg with pending := true, beat := 0, remain := some 16 } }
    else { s with cfg := { s.cfg with pending := true, beat := c, remain := none } }

/-- Every commit requested in the beat that ends, in order. -/
def State.runArms (s : State) : State :=
  s.cfg.arms.foldl State.arm { s with cfg := { s.cfg with arms := [] } }

/-- A write of ARM: a commit is requested at the CFG_COMMIT value in force (R461, R463). -/
def State.askCommit (s : State) : State := { s with cfg := { s.cfg with arms := s.cfg.arms ++ [commitBeat s] } }

/-- Cancel a pending commit; the staged values stay, and so does a request that waits for its checks (R463; DEDUCED, log entry
38). -/
def State.cancelCommit (s : State) : State := { s with cfg := { s.cfg with pending := false, remain := none } }

def configArmEffect (abort : Bool) (s : State) : State :=
  s.hostField 0x300008 fun s => if abort then s.cancelCommit.askCommit else s.askCommit

def configAbortEffect (s : State) : State := s.hostField 0x300008 State.cancelCommit

/-- A port that leaves its mode or its partition goes to RESET; the committed mode stays (R33, R309). -/
def Port.toReset (p : Port) (mode : Nat) : Port := { stMode := p.stMode, mode, failedLanes := p.failedLanes }

/-- A running step has a slot on the absolute port (R309). -/
def stepUsesPort (s : State) (pt n : Nat) : Bool :=
  match (s.part pt).running with
  | some r =>
    let img := (s.part pt).image r
    (slotRecs img).any (fun x => x.port == relPort s pt n) || (graftRecs img).any fun x => x.port == relPort s pt n
  | none => false

/-- A committed MODE of one port (R309). -/
def State.commitMode (s : State) (n : Nat) : State :=
  let p := s.port n
  if p.stMode = 3 ∨ p.stMode = p.mode then s
  else
    let s := s.setPort n (p.toReset p.stMode)
    match ptOfPort s n with
    | some pt => if stepUsesPort s pt n then s.detect pt (plainFault 0x0502 (s.suspect 0 0)) else s
    | none => s

/-- The SRC and the PARENT_PORT that a commit leaves in force: SRC 11b is ignored, and a Graft port is refused as the beat
parent (R50, Table 2-8). A PARENT_PORT that the variant has not is taken as it stands: no rule refuses it, and no marker
comes from such a port (DESIGN CHOICE, log entry 6). -/
def committedSource (s : State) : Nat × Nat :=
  let c := s.cmb
  let graft := (s.port c.stParent).mode != 0
  let src := if c.stSrc = 3 ∨ (c.stSrc = 2 ∧ graft) then c.src else c.stSrc
  (src, if src = 2 ∧ graft then c.parent else c.stParent)

/-- A committed SRC or PARENT_PORT (R50, R69), and BEAT_OUT_EN (R48). -/
def State.commitCmb (s : State) : State :=
  let k := committedSource s
  let s := if k ≠ (s.cmb.src, s.cmb.parent) then
      let s := s.timeFault 0x0305
      let s := { s with cmb := { s.cmb with src := k.1, parent := k.2, rootPending := false } }
      if s.cmb.st = .unlocked ∨ s.cmb.st = .holdover then s
      else s.setCmb (if k.1 = 0 then .freqLocked else .acquiring)
    else s
  if pinConflict s ∧ !s.cmb.beatOut then s.event .cmb 5
  else { s with cmb := { s.cmb with beatOut := s.cmb.stBeatOut } }

/-- The layout takes effect: ports that no partition receives go to RESET (R32, R33, R37). -/
def State.setLayout (s : State) (row : Nat) : State :=
  let s := { s with cfg := { s.cfg with layout := row, waitLayout := none } }
  s.each (List.range s.variant.ports) fun s n =>
    if (ptOfPort s n).isNone then s.updPort n fun p => p.toReset p.mode else s

/-- A committed layout: it waits for a scrub (Table 15-8), and a change that now meets a tenancy is not made (R37). -/
def State.commitLayout (s : State) : State :=
  let row := s.cfg.stLayout
  if row = 0 ∨ 8 < row ∨ layoutMeets s row TenSt.held then s
  else if row = s.cfg.layout then { s with cfg := { s.cfg with waitLayout := none } }
  else if layoutMeets s row (· == .scrubbing) then { s with cfg := { s.cfg with waitLayout := some row } }
  else s.setLayout row

def State.redPt (s : State) (p : Nat) : RedPt := mget {} s.red p
def State.setRed (s : State) (p : Nat) (x : RedPt) : State := { s with red := mput {} s.red p x }
def State.numPt (s : State) (p : Nat) : NumPt := mget {} s.num p
def State.setNum (s : State) (p : Nat) (x : NumPt) : State := { s with num := mput {} s.num p x }

/-- The staged thinning of every tensor, less the registers whose commit is ignored (Table 12-8). -/
def thinCommit (x : RedPt) : FMap Thin :=
  let old := x.nextThin.getD x.thin
  let keys := (x.stThin.map (·.1)) ++ (old.map (·.1))
  keys.foldl (fun m t =>
    let v : Thin := mget {} x.stThin t
    if v.phase ≤ v.nm1 then mput {} m t v else m) old

/-- The committed RED registers of one partition (R338, R343, Tables 12-6 to 12-8). -/
def State.commitRed (s : State) (p : Nat) : State :=
  let x := s.redPt p
  let thin := thinCommit x
  s.setRed p { x with
    init := if x.stInit = 0 ∨ x.stInit = 0xFF then x.init else x.stInit,
    nextRep := if x.stRep = x.rep then none else some x.stRep,
    nextThin := if thin = x.thin then none else some thin }

/-- The committed WINDOW of one partition (R169). -/
def State.commitNum (s : State) (p : Nat) : State :=
  let x := s.numPt p
  if x.stWindow = 0 ∨ 64 < x.stWindow then s
  else s.setNum p { x with nextWindow := if x.stWindow = x.window then none else some x.stWindow }

/-- The committed grid of one partition (R97). -/
def State.commitGrid (s : State) (p : Nat) : State :=
  s.updPart p fun x => if x.stGrid = x.grid then x else { x with grid := x.stGrid, gridWait := true }

/-- The commit is due: its beat has started, or its 16 local beats have passed (R461, R462). -/
def commitDue (s : State) : Bool :=
  s.cfg.pending && (match s.cfg.remain with
    | some n => n == 0
    | none => s.cmb.beat == s.cfg.beat)

/-- Every staged field becomes active (R461, R464). -/
def configCommitApplyEffect (s : State) : State :=
  if !commitDue s then s
  else
    let s := ({ s with cfg := { s.cfg with pending := false, remain := none } }).event .cfg 0
    let s := s.each (List.range s.variant.ports) State.commitMode
    let s := s.commitCmb.commitLayout
    s.each (List.range 4) fun s p => (((s.commitRed p).commitNum p).commitGrid p)

/-! ## Meanings -/

def execSensorRead (r : List SensorReading) (v : List RailReading) (s : State) :=
  checked (.sensorRead r v) s (sensorReadEffect r v s)
def execCurrentLimitTrip (p g : Nat) (d : DrawAt) (s : State) :=
  checked (.currentLimitTrip p g d) s (currentLimitTripEffect p g d s)
def execThermalStop (g : Nat) (s : State) := checked (.thermalStop g) s (thermalStopEffect g s)
def execThermalStopEnd (g : Nat) (s : State) := checked (.thermalStopEnd g) s (thermalStopEndEffect g s)
def execThermalShutdown (s : State) := checked .thermalShutdown s (thermalShutdownEffect s)
def execModuleReset (s : State) := checked .moduleReset s (moduleResetEffect s)
def execPowerEnable (s : State) := checked .powerEnable s (powerEnableEffect s)
def execPowerDisable (s : State) := checked .powerDisable s (powerDisableEffect s)
def execSupplyFault (s : State) (gone : Bool := false) := checked (.supplyFault gone) s (supplyFaultEffect s gone)
def execSupplyApplied (s : State) := checked .supplyApplied s (supplyAppliedEffect s)
def execPerstDeassert (s : State) := checked .perstDeassert s (perstDeassertEffect s)
def execSeedlingStage (s : State) := checked .seedlingStage s (seedlingStageEffect s)
def execStageTimeout (r : Nat) (s : State) := checked (.stageTimeout r) s (stageTimeoutEffect r s)
def execStandbyPllLock (p : Nat) (s : State) := checked (.standbyPllLock p) s (standbyPllLockEffect p s)
def execMuxHang (p : Nat) (s : State) := checked (.muxHang p) s (muxHangEffect p s)
def execClockStop (p : Nat) (s : State) := checked (.clockStop p) s (clockStopEffect p s)
def execFmcStart (s : State) := checked .fmcStart s (fmcStartEffect s)
def execFmcDone (c : Nat) (s : State) := checked (.fmcDone c) s (fmcDoneEffect c s)
def execConfigArm (a : Bool) (s : State) := checked (.configArm a) s (configArmEffect a s)
def execConfigAbort (s : State) := checked .configAbort s (configAbortEffect s)
def execConfigCommitApply (s : State) := checked .configCommitApply s (configCommitApplyEffect s)

end Sys2Proof.Machine
end

