-- ==== Sys2Proof/Machine/Canopy.lean ====
section
/-!
DEFINITION. Canopy (17): its core, the signed event log, the management commands, firmware update and recovery.
-/

namespace Sys2Proof.Machine

/-! ## Words that management and registers both read (Tables 15-10, 15-14, 16-9) -/

/-- STAGE (Table 16-9); Dormant has no code, since nothing reads it there. -/
def Stage.code : Stage → Nat
  | .dormant => 0
  | .seedling => 1
  | .rooted => 2
  | .leafed => 3
  | .full => 4

/-- SAP_STAGE (Table 16-9): WAIT reads 01h while Leafed waits for TREF (R465). -/
def sapStageWord (s : State) : Nat :=
  atBits (b2n s.pwr.failed) 31 1 + atBits s.pwr.reason.toNat 16 8 +
    atBits (if s.pwr.stage = .rooted ∧ !s.cmb.tref ∧ !s.pwr.failed then 1 else 0) 8 8 + atBits s.pwr.stage.code 0 3

/-- SEC_STATUS (Table 15-10). -/
def secStatusWord (s : State) : Nat :=
  atBits (b2n s.hw.tamperLatch) 31 1 + atBits (b2n s.hw.locked) 30 1 + atBits (b2n s.hw.debugOpen) 29 1 +
    atBits (b2n s.hw.testRoot) 28 1 + atBits (dsBank s.hw) 26 2 + atBits s.hw.tamperFuses 16 6 +
    atBits (lcState s.hw).code 0 3

/-- SEC_PT_STATE[p] (Table 15-14): only SCRUBBING shows during a scrub. -/
def secPtWord (s : State) (p : Nat) : Nat :=
  let t := s.tenancy p
  atBits (joinedMask t) 24 8 + atBits (declaredMask t) 16 8 + atBits (b2n t.scrubFailed) 3 1 + atBits t.st.code 0 3

/-! ## The event log (R474 to R477, Tables 17-2, 17-3) -/

/-- The bytes of a log entry. -/
def logBytes (seq : DWord) (e : LogEnt) : List Byte :=
  toLE 8 seq.toNat ++ toLE 8 e.beat.toNat ++ toLE 8 e.uptime ++ toLE 2 e.source.toNat ++ toLE 2 e.event.toNat ++
    toLE 1 e.pt ++ toLE 1 (b2n e.aligned + 2 * b2n e.coreDown) ++ zeros 2 ++ padTo 32 e.detail

/-- Bytes 0 to 65,343 of a log block. -/
def LogBlock.body (b : LogBlock) : List Byte :=
  [0x51, 0x5A, 0x4C, 0x47] ++ toLE 1 (b2n b.unsignedTail + 2 * b2n b.romMode) ++ zeros 3 ++ toLE 8 b.seq ++
    toLE 8 b.firstSeq ++ toLE 2 b.entries.length ++ zeros 38 ++ b.prev ++ b.entries.flatten ++
    List.replicate (64 * (1019 - b.entries.length)) Config.erasedByte

/-- A block of 65,536 bytes; an unsigned block has no signature yet. -/
def LogBlock.bytes (b : LogBlock) : List Byte := b.body ++ padTo 132 b.sig ++ zeros 60

/-- Heartwood signs a block with AK (R475). -/
def LogBlock.signed (b : LogBlock) (ak : Nat) : LogBlock :=
  { b with sig := Config.ecdsaSign ak (Config.sha512 (ascii "QZ LOG" ++ b.body)) }

/-- Close a block: signed where Heartwood has booted and Canopy runs its firmware, else marked ROM_MODE (R475, R476). A block that a
power loss or a core reset left open waits for the next Rooted stage. -/
def State.closeOne (s : State) (b : LogBlock) : LogBlock :=
  if b.closed || b.stale then b
  else
    match s.hw.ak with
    | some ak => if s.cnp.romMode || !s.hw.booted then { b with closed := true, romMode := true }
                 else { b with closed := true }.signed ak
    | none => { b with closed := true, romMode := true }

/-- Close the open block. -/
def State.closeLog (s : State) : State :=
  { s with cnp := { s.cnp with blocks := s.cnp.blocks.map s.closeOne } }

/-- What R476 makes of a block before it is signed: one that was left open gets UNSIGNED_TAIL. -/
def LogBlock.tailed (b : LogBlock) : LogBlock :=
  if b.stale then { b with closed := true, stale := false, unsignedTail := true } else b

/-- R476 at a Rooted stage: a block left open gets UNSIGNED_TAIL, and every closed block without a signature is signed. -/
def State.closeAtRooted (s : State) (ak : Nat) : State :=
  { s with cnp := { s.cnp with blocks := s.cnp.blocks.map fun b =>
      let b := b.tailed
      if b.closed && b.sig.isEmpty then b.signed ak else b } }

/-- The open block, if any: the newest. -/
def openBlock (c : Canopy) : Option LogBlock :=
  match c.blocks.getLast? with
  | some b => if b.closed || b.stale then none else some b
  | none => none

/-- A new open block; with 1,024 blocks in use the lowest is erased first (R477). PREV is over the block before it as it will stand
once it is closed. -/
def Canopy.newBlock (c : Canopy) (up : Nat) : Canopy :=
  let last := c.blocks.getLast?
  let kept := if 1024 ≤ c.blocks.length then c.blocks.drop 1 else c.blocks
  let b : LogBlock := {
    seq := match last with
      | some x => x.seq + 1
      | none => 0,
    firstSeq := c.logSeq.toNat, firstUp := up,
    prev := match last with
      | some x => toBE 64 (Config.sha512 x.tailed.body).toNat
      | none => zeros 64 }
  { c with blocks := kept ++ [b] }

/-- Program one entry into the open block, opening one where none is (R474). -/
def State.programEntry (s : State) (e : LogEnt) : State :=
  let s := match openBlock s.cnp with
    | some b => if 1019 ≤ b.entries.length then s.closeLog else s
    | none => s
  let c := match openBlock s.cnp with
    | some _ => s.cnp
    | none => s.cnp.newBlock s.pwr.uptime
  let n := c.blocks.length
  { s with cnp := { c with
      blocks := c.blocks.mapIdx fun i b =>
        if i + 1 = n then { b with entries := b.entries ++ [logBytes c.logSeq e] } else b,
      logSeq := c.logSeq + 1 } }

/-- The log-lost record of an interval, and its count in CNP_LOG_LOST (R477). -/
def State.lostRecord (s : State) : State :=
  if s.cnp.intervalDropped = 0 then s
  else
    let n := s.cnp.intervalDropped
    let s := s.programEntry { beat := s.nowBeat, uptime := s.pwr.uptime, source := 0x00D, event := 0x00FF, pt := 0xFF,
                              aligned := s.onGrid, coreDown := false, detail := toLE 8 n }
    let s := { s with cnp := { s.cnp with intervalDropped := 0, logLost := satAdd s.cnp.logLost n } }
    s.event .cnp 2

/-- The 1,000,000-beat interval of the entry rate has passed; the uptime counts its beats. -/
def intervalOver (s : State) : Bool := decide (s.cnp.intervalStart + 1000000 ≤ s.pwr.uptime)

/-- Canopy's core runs. -/
def State.coreRuns (s : State) : Bool := s.powered && !s.cnp.coreDown

/-- LOG_ENTRY: the oldest entry of the hub FIFO is programmed, or dropped beyond 4,096 in the interval (R474, R477). -/
def logEntryEffect (s : State) : State :=
  if !s.coreRuns then s
  else
    match s.cnp.fifo with
    | [] => s
    | e :: es =>
      let s := { s with cnp := { s.cnp with fifo := es } }
      let s := if intervalOver s then
          let s := s.lostRecord
          { s with cnp := { s.cnp with intervalStart := s.pwr.uptime, intervalCount := 0 } }
        else s
      if s.cnp.intervalCount < 4096 then
        let s := s.programEntry e
        { s with cnp := { s.cnp with intervalCount := s.cnp.intervalCount + 1 } }
      else { s with cnp := { s.cnp with intervalDropped := s.cnp.intervalDropped + 1 } }

/-- LOG_BLOCK_CLOSE: full, or 10,000,000 beats old (R475); an ended interval's log-lost record goes in before. -/
def logBlockCloseEffect (s : State) : State :=
  if !s.coreRuns then s
  else
    let s := if intervalOver s then s.lostRecord else s
    match openBlock s.cnp with
    | some b =>
      if 1019 ≤ b.entries.length ∨ b.firstUp + 10000000 ≤ s.pwr.uptime then s.closeLog else s
    | none => s

/-! ## The core (R470 to R472) -/

/-- The Canopy core alone is reset. -/
def State.coreReset (s : State) : State :=
  if !s.coreRuns then s
  else
    let r := if s.cnp.resets < 0xFFFF then s.cnp.resets + 1 else s.cnp.resets
    ({ s with cnp := { s.cnp with coreDown := true, up := false, resets := r, tlsOpen := 0,
                                  blocks := s.cnp.blocks.map LogBlock.leftOpen } }).event .cnp 0

def canopyWatchdogExpiryEffect (s : State) : State := s.coreReset
def canopySramErrorEffect (s : State) : State := s.coreReset

/-! ### The bundle's layout (Table 17-6) -/

/-- Bytes of a bundle slot; what stands behind its last byte is erased. -/
def slotPart (b : List Byte) (off n : Nat) : List Byte :=
  let l := (b.drop off).take n
  l ++ List.replicate (n - l.length) Config.erasedByte

/-- A little-endian header field. -/
def slotField (b : List Byte) (off n : Nat) : Nat := leNat (slotPart b off n)

/-- LENGTH, SVN and COMMIT_SVN. -/
def bundleLength (b : List Byte) : Nat := slotField b 8 8
def bundleSvn (b : List Byte) : Nat := slotField b 6 1
def bundleCommits (b : List Byte) : Bool := bitAt (slotField b 7 1) 0

/-- OFFSET and SIZE of component i. -/
def compOff (b : List Byte) (i : Nat) : Nat := slotField b (64 + 128 * i + 8) 8
def compSize (b : List Byte) (i : Nat) : Nat := slotField b (64 + 128 * i + 16) 8

/-- SHA-512 of component i as the slot holds it. -/
def compDigest (b : List Byte) (i : Nat) : Digest := Config.sha512 (slotPart b (compOff b i) (compSize b i))

/-- The digest of the slot's Canopy component, of TYPE 1 (R470). -/
def canopyComponent (b : List Byte) : Option Digest :=
  ((List.range 5).find? fun i => slotField b (64 + 128 * i) 1 == 1).map (compDigest b)

/-- The reloaded component is checked against the digest held from the last Rooted stage (R470, R472). -/
def canopyCoreRestartEffect (readOk : Bool) (s : State) : State :=
  if !s.cnp.coreDown then s
  else if !s.hw.booted then { s with cnp := { s.cnp with coreDown := false } }
  else if s.cnp.romMode ∨ !readOk ∨ canopyComponent s.cnp.slot ≠ some s.hw.canopyDigest then
    ({ s with cnp := { s.cnp with coreDown := false, romMode := true } }).event .cnp 1
  else { s with cnp := { s.cnp with coreDown := false, up := true } }

/-! ## Management commands (R478 to R481, Table 17-4) -/

/-- Completion codes of the model: 0 success, 1 refused, 2 busy, 3 unavailable (DESIGN CHOICE, log entry 15). -/
def State.answer (s : State) (command code : Nat) (payload : List Byte := []) : State :=
  s.emit (.pldm command code payload)

/-- A command that ROM mode, the boot ROM and the recovery loader do not keep (R472). -/
def State.command (s : State) (command : Nat) (f : State → State) : State :=
  if !s.coreRuns then s else if s.cnp.up then f s else s.answer command 3

/-- A command that the network alone carries: it comes over an open TLS connection (Table 17-4, R478). -/
def State.netCommand (s : State) (command : Nat) (f : State → State) : State :=
  if s.cnp.tlsOpen = 0 then s else s.command command f

/-- GET_STATUS answers whenever the core runs (R472, "Recovery"). -/
def getStatusEffect (s : State) : State :=
  if !s.coreRuns then s
  else s.answer 1 0 (toLE 4 (sapStageWord s) ++ toLE 4 (secStatusWord s) ++ toLE 4 s.sap.capMgmt ++
    toLE 4 s.sap.capHost ++ (List.range 4).flatMap fun p => toLE 4 (secPtWord s p))

/-- READ_LOG: up to 16 blocks from a BLOCK_SEQ, the open one unsigned. -/
def readLogEffect (block : Nat) (s : State) : State :=
  s.command 2 fun s =>
    s.answer 2 0 (((s.cnp.blocks.filter fun b => decide (block ≤ b.seq)).take 16).flatMap LogBlock.bytes)

/-- SET_CAP: 400 to 3,000 W, else refused. -/
def setCapEffect (watts : Nat) (s : State) : State :=
  s.command 3 fun s =>
    if 400 ≤ watts ∧ watts ≤ 3000 then ({ s with sap := { s.sap with capMgmt := watts } }).answer 3 0
    else s.answer 3 1

/-- RESET_MODULE: the open block closes, then a module reset; ROM mode keeps it (R472, R475). -/
def resetModuleEffect (s : State) : State :=
  if !s.coreRuns then s
  else if s.cnp.recovery then s.answer 4 3
  else (s.closeLog.answer 4 0).volatileReset

/-- SET_ANCHOR (R480): at most 2,048 bytes. -/
def setAnchorEffect (network authenticated : Bool) (cert : List Byte) (s : State) : State :=
  s.command 8 fun s =>
    let ok := if network then s.cnp.anchor.isSome && decide (0 < s.cnp.tlsOpen) && authenticated else s.cnp.anchor.isNone
    if ok ∧ cert.length ≤ 2048 then ({ s with cnp := { s.cnp with anchor := some cert } }).answer 8 0
    else s.answer 8 1

/-- GET_CERTS (R479). -/
def getCertsEffect (s : State) : State := s.command 9 fun s => s.answer 9 0 (s.cnp.mgmtCert ++ certChain s)

/-- TLS_CONNECT (R478): TLS 1.3 with the one parameter set, a client certificate that chains to the anchor, at most four
connections. -/
def tlsConnectEffect (certOk paramsOk : Bool) (s : State) : State :=
  if !s.coreRuns ∨ s.cnp.mgmtKey.isNone then s
  else if s.cnp.anchor.isSome && certOk && paramsOk && decide (s.cnp.tlsOpen < 4) then
    ({ s with cnp := { s.cnp with tlsOpen := s.cnp.tlsOpen + 1 } }).emit (.tls true)
  else s.emit (.tls false)

/-- Thermal sensors of the variant (Table 17-1). -/
def sensorCount (v : Variant) : Nat :=
  match v with
  | .a816 => 896
  | .a812 => 872

/-- A thermal sensor's latest reading in 1/8 °C. -/
def sensorValue (s : State) (i : Nat) : Nat := (BitVec.ofInt 16 (s.sensor i)).toNat

/-- PLDM_SENSOR_READ: a thermal sensor in the order of Table 17-1, then the rails, of each its voltage and its current (R473; the
two numbers of a rail: DESIGN CHOICE, log entry 15). ROM mode keeps sensors. -/
def pldmSensorReadEffect (i : Nat) (s : State) : State :=
  let r := i - sensorCount s.variant
  if !s.coreRuns then s
  else if i < sensorCount s.variant then s.answer 0x11 0 (toLE 2 (sensorValue s i))
  else
    match s.sap.rails[r / 2]? with
    | some v => s.answer 0x11 0 (toLE 4 (if r % 2 = 0 then v.volts else v.amps))
    | none => s.answer 0x11 1

/-! ## Firmware (R484 to R487) -/

/-- MAGIC and FORMAT, and the variant's bit of VARIANTS (Table 17-6). -/
def headerMatches (s : State) (b : List Byte) : Bool :=
  slotPart b 0 4 == [0x51, 0x5A, 0x46, 0x57] && slotField b 4 2 == 1 &&
    bitAt (slotField b 20 4) (match s.variant with
      | .a816 => 0
      | .a812 => 1)

/-- SVN lies between the burnt increments and 64. -/
def svnOk (s : State) (b : List Byte) : Bool := decide (s.hw.svnFuses ≤ bundleSvn b) && decide (bundleSvn b ≤ 64)

/-- The header checks that come before the slot is erased (R486). -/
def bundleHeader (s : State) (b : List Byte) : Bool := headerMatches s b && svnOk s b

/-- Bytes of the bundle slot (Table 17-5). -/
def slotBytes : Nat := 2 ^ 27

/-- Component i lies within the bundle and matches its DIGEST. -/
def compOk (b : List Byte) (i : Nat) : Bool :=
  decide (compOff b i + compSize b i ≤ bundleLength b) &&
    slotPart b (64 + 128 * i + 24) 64 == toBE 64 (compDigest b i).toNat

/-- Components i and j do not overlap. -/
def compApart (b : List Byte) (i j : Nat) : Bool :=
  decide (compOff b i + compSize b i ≤ compOff b j) || decide (compOff b j + compSize b j ≤ compOff b i)

/-- The five components lie within the bundle, do not overlap and match their digests. -/
def componentsOk (b : List Byte) : Bool :=
  (List.range 5).all fun i => compOk b i && (List.range i).all fun j => compApart b i j

/-- Every check of R484 on a bundle; whether SIGNER and SIG verify is observed. -/
def bundleOk (s : State) (b : List Byte) (c : SlotCheck) : Bool :=
  bundleHeader s b && decide (bundleLength b ≤ slotBytes) && componentsOk b && c.signerOk && c.sigOk && c.flashOk

/-- SHA-512 of the bundle (Table 15-6, block 2). -/
def bundleDigest (b : List Byte) : Digest := Config.sha512 (slotPart b 0 (bundleLength b))

/-- The slot has been written: the bundle in it is verified (R486). -/
def State.verifySlot (s : State) (c : SlotCheck) : State :=
  let s := { s with cnp := { s.cnp with slotOk := bundleOk s s.cnp.slot c } }
  s.event .cnp 3

/-- The slot is erased, and bytes are written at its start. -/
def State.rewriteSlot (s : State) (b : List Byte) : State :=
  { s with cnp := { s.cnp with slot := b.take slotBytes, slotOk := false } }

/-- FIRMWARE_UPDATE, over an open TLS connection: a refused header leaves the slot; under the recovery loader a success resets
the module (R478, R486, R487). -/
def firmwareUpdateEffect (b : Bundle) (s : State) : State :=
  if !s.coreRuns ∨ s.cnp.tlsOpen = 0 then s
  else if !s.cnp.up && !s.cnp.recovery then s.answer 0x15 3
  else if !bundleHeader s b.bytes then s.answer 0x15 1
  else
    let s := (s.rewriteSlot b.bytes).verifySlot b.check
    if !s.cnp.slotOk then s.answer 0x15 1
    else if s.cnp.recovery then (s.answer 0x15 0).volatileReset
    else s.answer 0x15 0

/-- The bytes of the chunk buffer, at most its 32,768. -/
def rcvChunk (s : State) : List Byte :=
  (List.range (min s.pwr.rcvLength.toNat 32768)).map fun i => mget 0 s.pwr.rcvData i

/-- The recovery mailbox takes an operation only under the recovery loader and while BUSY is clear; BUSY then stands until the
boundary that ends the beat (R518; the time: DESIGN CHOICE, log entry 15). -/
def State.mailbox (s : State) (f : State → State) : State :=
  if s.powered && s.cnp.recovery && !s.pwr.rcvBusy then
    let s := f s
    { s with pwr := { s.pwr with rcvBusy := true } }
  else s

/-- RCV_STATUS.ERROR. -/
def State.rcvFail (s : State) (e : Byte) : State := { s with pwr := { s.pwr with rcvError := e } }

/-- RCV_OFFSET and RCV_LENGTH name a chunk within the slot (Table 17-7). -/
def chunkFits (s : State) : Bool :=
  s.pwr.rcvOffset.toNat % 32768 == 0 && decide (1 ≤ s.pwr.rcvLength.toNat) && decide (s.pwr.rcvLength.toNat ≤ 32768) &&
    decide (s.pwr.rcvOffset.toNat + s.pwr.rcvLength.toNat ≤ slotBytes)

/-- BEGIN: the header in the first chunk is checked before the slot is touched (Table 17-7). -/
def recoveryBeginEffect (flashOk : Bool) (s : State) : State :=
  s.mailbox fun s =>
    let b := rcvChunk s
    if !headerMatches s b then s.rcvFail 0x01
    else if !svnOk s b then s.rcvFail 0x02
    else if slotBytes < bundleLength b || s.pwr.rcvOffset != 0 || !chunkFits s then s.rcvFail 0x03
    else
      let s := s.rewriteSlot b
      if flashOk then { s with pwr := { s.pwr with rcvError := 0, rcvBegun := true } }
      else { s with pwr := { s.pwr with rcvError := 0x05, rcvBegun := false } }

/-- Bytes written into the slot at an offset. -/
def slotAt (b : List Byte) (off : Nat) (new : List Byte) : List Byte := slotPart b 0 off ++ new ++ b.drop (off + new.length)

/-- CHUNK: the next 32 KiB chunk is stored (Table 17-7). -/
def recoveryChunkEffect (s : State) (flashOk : Bool) : State :=
  s.mailbox fun s =>
    if !s.pwr.rcvBegun then s.rcvFail 0x01
    else if !chunkFits s then s.rcvFail 0x03
    else
      let s := { s with cnp := { s.cnp with slot := slotAt s.cnp.slot s.pwr.rcvOffset.toNat (rcvChunk s) } }
      s.rcvFail (if flashOk then 0 else 0x05)

/-- FINISH: the bundle is verified; a success sets READY, and the module resets at the next boundary (R487). -/
def recoveryFinishEffect (c : SlotCheck) (s : State) : State :=
  s.mailbox fun s =>
    if !s.pwr.rcvBegun then s.rcvFail 0x01
    else
      let s := ({ s with pwr := { s.pwr with rcvBegun := false } }).verifySlot c
      if s.cnp.slotOk then { s with pwr := { s.pwr with rcvError := 0, rcvReady := true } }
      else s.rcvFail (if c.flashOk then 0x04 else 0x05)

/-- The boundary that ends a mailbox operation: BUSY clears, and a verified bundle resets the module (R487, R518). -/
def State.endMailbox (s : State) : State :=
  if s.pwr.rcvReady then s.volatileReset else { s with pwr := { s.pwr with rcvBusy := false } }

/-! ## Meanings -/

def execLogEntry (s : State) := checked .logEntry s (logEntryEffect s)
def execLogBlockClose (s : State) := checked .logBlockClose s (logBlockCloseEffect s)
def execCanopyWatchdogExpiry (s : State) := checked .canopyWatchdogExpiry s (canopyWatchdogExpiryEffect s)
def execCanopySramError (s : State) := checked .canopySramError s (canopySramErrorEffect s)
def execCanopyCoreRestart (r : Bool) (s : State) := checked (.canopyCoreRestart r) s (canopyCoreRestartEffect r s)
def execGetStatus (s : State) := checked .getStatus s (getStatusEffect s)
def execReadLog (b : Nat) (s : State) := checked (.readLog b) s (readLogEffect b s)
def execSetCap (w : Nat) (s : State) := checked (.setCap w) s (setCapEffect w s)
def execResetModule (s : State) := checked .resetModule s (resetModuleEffect s)
def execSetAnchor (n a : Bool) (c : List Byte) (s : State) := checked (.setAnchor n a c) s (setAnchorEffect n a c s)
def execGetCerts (s : State) := checked .getCerts s (getCertsEffect s)
def execTlsConnect (c p : Bool) (s : State) := checked (.tlsConnect c p) s (tlsConnectEffect c p s)
def execPldmSensorRead (i : Nat) (s : State) := checked (.pldmSensorRead i) s (pldmSensorReadEffect i s)
def execFirmwareUpdate (b : Bundle) (s : State) := checked (.firmwareUpdate b) s (firmwareUpdateEffect b s)
def execRecoveryBegin (f : Bool) (s : State) := checked (.recoveryBegin f) s (recoveryBeginEffect f s)
def execRecoveryChunk (s : State) (f : Bool := true) := checked (.recoveryChunk f) s (recoveryChunkEffect s f)
def execRecoveryFinish (c : SlotCheck) (s : State) := checked (.recoveryFinish c) s (recoveryFinishEffect c s)

end Sys2Proof.Machine
end

