-- ==== Sys2Proof/Machine/Links.lean ====
section
/-!
DEFINITION. Bough ports below the slots (11): alignment blocks, lane faults and spare swaps, training, partner
authentication, link keys and their levels, frames and their tags.
-/

namespace Sys2Proof.Machine

/-! ## Lanes (R282, R287 to R290) -/

/-- The logical position that a physical receive lane serves; none for a standby or a replaced lane. -/
def lanePos (p : Port) (lane : Nat) : Option Nat :=
  if lane = 16 then p.pos16
  else if lane = 17 then p.pos17
  else if p.pos16 = some lane ∨ p.pos17 = some lane then none
  else some lane

/-- The physical lanes that serve the 16 logical positions. -/
def activeLanes (p : Port) : List Nat := (List.range 18).filter fun l => (lanePos p l).isSome

/-- Consecutive beats without a valid block on a lane. -/
def missingOf (p : Port) (lane : Nat) : Nat := mget 0 p.missing lane

/-- The lowest standby spare whose blocks arrive valid (R289). -/
def spareFor (p : Port) : Option Nat :=
  [16, 17].find? fun l => (lanePos p l).isNone && !p.failedLanes.contains l && missingOf p l == 0

/-- A native port that carries alignment blocks of its partner (Table 11-3). -/
def Port.aligned (p : Port) : Bool := p.mode == 0 && (p.st == .auth || p.st == .up || p.st == .swap)

/-- A declared fault on an active lane: a swap to the spare is requested, or the port fails where none is left (R289,
R290). While one swap is under way the position waits; the 1,000 beats of R290 run from the fault. -/
def State.requestSwap (s : State) (n pos : Nat) (fault : DWord) : State :=
  let p := s.port n
  if p.rxSwap.isSome then s
  else
    match spareFor p with
    | none => (s.event (.bgh n) 2 ((ptOfPort s n).getD 0xFF) [BitVec.ofNat 8 n]).updPort n fun p => { p with st := .failed }
    | some sp => s.updPort n fun p => { p with
        st := if p.st = .up then .swap else p.st,
        rxSwap := some { pos, spare := sp, eff := (p.rxBeat.getD 0) + 16, since := fault } }

/-- A fault of the lane has been declared since training. -/
def Port.faulty (p : Port) (lane : Nat) : Bool := p.failedAt.any fun e => e.1 == lane

/-- Declare a lane fault on a physical lane: it is marked failed, and an active lane's position is to move (R288 to
R290). A lane that an earlier training left marked and that is active again declares its fault anew. -/
def State.laneFault (s : State) (n lane : Nat) : State :=
  let p := s.port n
  let s := if p.faulty lane then s
    else (s.setPort n { p with failedLanes := if p.failedLanes.contains lane then p.failedLanes else p.failedLanes ++ [lane],
                               failedAt := minsert p.failedAt lane s.nowBeat }).event (.bgh n) 0 ((ptOfPort s n).getD 0xFF)
      [BitVec.ofNat 8 n]
  match lanePos p lane with
  | none => s
  | some pos => s.requestSwap n pos (mget 0 (s.port n).failedAt lane)

/-- Enter TRAINING (Table 11-3): the lanes keep their map, and what the partner told is forgotten. -/
def Port.train (p : Port) : Port :=
  { p with st := .training, rxBeat := none, missing := [], corrected := [], failedAt := [], rxSwap := none, txSwap := none,
           txSeen := none, txAck := none, keyTx := none, keyRx := none, nextTx := none, nextRx := none, secret := none,
           level1 := false, mine := none, theirs := none, switchAt := none, authed := false, actTx := none }

/-- Active lanes whose second block in a row is missing. -/
def lostLanes (p : Port) : List Nat := (activeLanes p).filter fun l => decide (2 ≤ missingOf p l)

/-- The missing blocks are judged (R288): with every active lane lost the link is lost; with some, each has a fault.
While every active lane lacks its last block, the blocks that are still to come in this beat decide which of the two it is
(DEDUCED, log entry 34). -/
def State.judgeLanes (s : State) (n : Nat) : State :=
  let p := s.port n
  let pt := (ptOfPort s n).getD 0xFF
  if (activeLanes p).all fun l => decide (2 ≤ missingOf p l) then
    ((s.event (.bgh n) 0 pt [BitVec.ofNat 8 n]).event (.bgh n) 3 pt [BitVec.ofNat 8 n]).updPort n Port.train
  else if (activeLanes p).all fun l => decide (1 ≤ missingOf p l) then s
  else s.each (lostLanes p) fun s l => if (s.port n).aligned then s.laneFault n l else s

/-- A swap request in a block: position, spare, two zero bytes, effective link beat; FFh for none (Table 11-2). -/
def reqBytes (r : Option SwapReq) : List Byte :=
  match r with
  | none => [0xFF] ++ zeros 11
  | some r => toLE 1 r.pos ++ toLE 1 r.spare ++ zeros 2 ++ toLE 8 r.eff.toNat

/-- The block that a transmit lane sends around 76 bytes of its PRBS31 pattern (Table 11-2). -/
def Port.block (p : Port) (lane : Nat) (prbs : List Byte) : List Byte :=
  let pos := lanePos { p with pos16 := p.txPos16, pos17 := p.txPos17 } lane
  let head := toLE 8 0x4C59E2A09B37D615 ++ toLE 1 lane ++ toLE 1 (pos.getD 0xFF) ++ toLE 8 p.txBeat.toNat ++
    reqBytes p.rxSwap ++ reqBytes p.txAck ++ prbs
  head ++ toLE 2 (crc16 head)

/-- LINK_BEAT of a block (Table 11-2). -/
def blockBeat (b : List Byte) : DWord := BitVec.ofNat 64 (getLE b 10 8)

/-- A block is valid on a lane: marker, CRC, and LINK_BEAT as the direction counts it (R287, Table 11-2). Receive lanes are numbered
as their blocks' PHYS identifies them, whatever the cable does with them (R502; DEDUCED, log entry 34). -/
def blockOk (p : Port) (lane : Nat) (b : List Byte) : Bool :=
  b.length == 120 && getLE b 0 8 == 0x4C59E2A09B37D615 && getLE b 8 1 == lane && getLE b 118 2 == crc16 (b.take 118) &&
    (match p.rxBeat with
     | none => true
     | some x => x == blockBeat b)

/-- A request is one that our transmitter can take: a position, a spare, and not the one it applied last (R289). -/
def Port.newReq (p : Port) (r : Nat × Nat × DWord) : Bool :=
  decide (r.1 < 16) && (r.2.1 == 16 || r.2.1 == 17) &&
    match p.txAck with
    | some a => !(a.pos == r.1 && a.spare == r.2.1 && a.eff == r.2.2)
    | none => true

/-- The partner's swap request in a block: two equal readings in a row make it due at our transmitter (R289). -/
def Port.takeReq (p : Port) (b : List Byte) (now : DWord) : Port :=
  let pos := getLE b 18 1
  if pos = 0xFF then { p with txSeen := none }
  else
    let r := (pos, getLE b 19 1, BitVec.ofNat 64 (getLE b 22 8))
    if p.txSeen = some r ∧ p.txSwap = none ∧ p.newReq r then
      { p with txSwap := some { pos := r.1, spare := r.2.1, eff := r.2.2, since := now } }
    else { p with txSeen := some r }

/-- The position that POS of a block says lane 16 or 17 serves, while the receiver has taken no block since it entered AUTH (R502,
Table 11-2). -/
def Port.learn (p : Port) (lane : Nat) (b : List Byte) : Port :=
  let pos := getLE b 9 1
  let x := if pos < 16 then some pos else none
  if p.rxBeat.isSome then p
  else if lane = 16 then { p with pos16 := x }
  else if lane = 17 then { p with pos17 := x }
  else p

/-- A receive lane took a valid block: LINK_BEAT is known, and a swap whose link beat was unknown is named anew. -/
def Port.takeBlock (p : Port) (lane : Nat) (b : List Byte) : Port :=
  { p.learn lane b with
    rxBeat := some (blockBeat b)
    missing := mput 0 p.missing lane 0
    rxSwap := if p.rxBeat.isNone then p.rxSwap.map fun r => { r with eff := blockBeat b + 16 } else p.rxSwap }

/-- ALIGNMENT_BLOCK: a valid block clears the lane's count; the second one missing in a row is a lane fault (R287 to
R289). -/
def alignmentBlockEffect (n lane : Nat) (b : List Byte) (s : State) : State :=
  let p := s.port n
  if !p.aligned then s
  else if blockOk p lane b then
    (s.setPort n ((p.takeBlock lane b).takeReq b s.nowBeat)).judgeLanes n
  else
    let s := s.setPort n { p with missing := mput 0 p.missing lane (missingOf p lane + 1) }
    if (lanePos p lane).isSome then s.judgeLanes n
    else if 1 ≤ missingOf p lane then s.laneFault n lane
    else s

/-- A lane loses symbol lock (R288). -/
def symbolLockLostEffect (n lane : Nat) (s : State) : State :=
  if (s.port n).aligned then s.laneFault n lane else s

/-- What a spare serves once a position has moved away from it. -/
def leave (pos : Nat) (x : Option Nat) : Option Nat := if x = some pos then none else x

/-- A spare serves a position in one direction's map, and the lane that served it does no more. -/
def Port.useSpare (p : Port) (tx : Bool) (r : SwapReq) : Port :=
  match tx, r.spare with
  | false, 16 => { p with pos16 := some r.pos, pos17 := leave r.pos p.pos17 }
  | false, _ => { p with pos17 := some r.pos, pos16 := leave r.pos p.pos16 }
  | true, 16 => { p with txPos16 := some r.pos, txPos17 := leave r.pos p.txPos17 }
  | true, _ => { p with txPos17 := some r.pos, txPos16 := leave r.pos p.txPos16 }

/-- The positions that failed lanes still serve, with the beats of their faults. -/
def failedPositions (p : Port) : List (Nat × DWord) := (activeLanes p).filterMap fun l =>
  if p.faulty l then (lanePos p l).map fun i => (i, mget 0 p.failedAt l) else none

/-- LANE_SWAP at the named link beat (R289): our receiver's own request, or the partner's on our transmitter. A fault that
waited for the end of this swap is next. -/
def laneSwapEffect (n : Nat) (tx : Bool) (s : State) : State :=
  let p := s.port n
  let due := if tx then p.txSwap else p.rxSwap
  let beat := if tx then some p.txBeat else p.rxBeat
  match due, beat with
  | some r, some b =>
    if p.aligned ∧ r.eff.toNat ≤ b.toNat then
      let p := p.useSpare tx r
      let p := if tx then { p with txSwap := none, txSeen := none, txAck := some r }
        else { p with rxSwap := none, st := if p.st = .swap then .up else p.st }
      let s := (s.setPort n p).event (.bgh n) 1 ((ptOfPort s n).getD 0xFF) [BitVec.ofNat 8 n]
      match tx, failedPositions p with
      | false, x :: _ => s.requestSwap n x.1 x.2
      | _, _ => s
    else s
  | _, _ => s

/-- A swap not in effect within 1,000 beats of the fault (R290). -/
def laneSwapTimeoutEffect (n : Nat) (s : State) : State :=
  let p := s.port n
  match p.rxSwap with
  | some r =>
    if 1000 ≤ (s.nowBeat - r.since).toNat then s.setPort n { p with st := .failed, rxSwap := none } else s
  | none => s

/-! ## Training and authentication (R291, R292, R304, R305) -/

/-- A message in records of kind 06h, 24 bytes each, in ascending sequence from a number (Table 11-9). -/
def authRecords : Nat → Nat → List Byte → List (List Byte)
  | 0, _, _ => []
  | k + 1, seq, bs =>
    if bs.isEmpty then []
    else
      let part := bs.take 24
      ([6, 0] ++ toLE 2 seq ++ toLE 1 part.length ++ zeros 3 ++ padTo 24 part) :: authRecords k (seq + 1) (bs.drop 24)

/-- Records of a message. -/
def authMessage (seq : Nat) (bs : List Byte) : List (List Byte) := authRecords (bs.length / 24 + 1) seq bs

/-- Queue a message of the exchange: its records continue the sequence, and the transcript takes it in. -/
def Port.sendAuth (p : Port) (bs : List Byte) : Port :=
  let l := authMessage p.authTx bs
  { p with waiting := p.waiting ++ l, authTx := p.authTx + l.length, authSent := p.authSent ++ bs }

/-- Send the first message of R292: the chain, a 32-byte random value, an ephemeral public key. -/
def State.sendHello (s : State) (n : Nat) : State :=
  let d := s.draw
  let e := d.2.draw
  let msg := certChain s ++ keyBytes d.1 ++ Config.p521Public e.1.toNat
  e.2.updPort n fun p => ({ p with waiting := [], ready := 0, authTx := 0, authSent := [], eph := e.1.toNat }).sendAuth msg

/-- Enter AUTH: LINK_BEAT restarts, the keys go, the exchange starts anew (R287, R292, R297). A swap that this receiver
requested gets its link beat anew with the partner's next block. A Graft port authenticates as the older generation does, whose
messages this manual does not give (R308; DESIGN CHOICE, log entry 34). -/
def State.enterAuth (s : State) (n : Nat) : State :=
  let s := s.updPort n fun p => { p with
    st := .auth, txBeat := 0, fresh := true, rxBeat := none, missing := [], keyTx := none, keyRx := none, nextTx := none,
    nextRx := none, secret := none, level1 := false, authSeq := 0, authBytes := [], authed := false, actTx := none,
    actRx := 0, mine := none, theirs := none, switchAt := none, tagBeats := [], noCtl := 0, ctlOk := 0, retryAt := none, txSwap := none,
    txSeen := none, txAck := none }
  if (s.port n).mode = 0 then s.sendHello n else s

/-- TRAINING_DONE: 16 positions trained and deskewed toward one partner port; on a Graft port lane l reaches the partner's lane l
(R291, R502). -/
def trainingDoneEffect (n : Nat) (single : Bool) (s : State) (straight : Bool) : State :=
  if (s.port n).st = .training ∧ single ∧ ((s.port n).mode = 0 ∨ straight) then s.enterAuth n else s

/-- The partition of a port scrubs: its registers accept nothing (R513). -/
def portScrubs (s : State) (n : Nat) : Bool :=
  match ptOfPort s n with
  | some p => (s.tenancy p).st == .scrubbing
  | none => false

/-- RETRAIN moves a FAILED port to TRAINING (Table 11-13); an unassigned port stays idle (R33). -/
def retrainEffect (n : Nat) (s : State) : State :=
  s.hostField (0x700000 + 0x100 * n) fun s =>
    if (s.port n).st = .failed ∧ (ptOfPort s n).isSome ∧ !portScrubs s n then s.updPort n Port.train else s

/-- The transcript so far: what this side has sent and what it has received. R292 does not say in which order the two sides'
messages stand in it (DESIGN CHOICE, log entry 34). -/
def Port.soFar (p : Port) : List Byte := p.authSent ++ p.authBytes

/-- The partner's ephemeral public key, the last 133 bytes of its first message (R292). -/
def Port.peerKey (p : Port) : List Byte := p.authBytes.drop (p.authBytes.length - 133)

/-- The partner's chain is verified: compute Z, sign the transcript so far, and name an activation link beat at least 64 beats
ahead (R292, steps 2 to 4). -/
def State.sendSignature (s : State) (n : Nat) : State :=
  let p := s.port n
  let p := { p with secret := some (Config.ecdh p.eph p.peerKey) }
  let sig := Config.ecdsaSign (s.hw.ik.getD 0) (Config.sha512 p.soFar)
  let act := p.txBeat + 64 + BitVec.ofNat 64 Config.switchLead
  s.setPort n { p.sendAuth (sig ++ toLE 8 act.toNat) with actTx := some act }

/-- The partner's signature is verified: its activation beat ends its message, and the keys wait for the later of the two
(R292, step 4). -/
def Port.takeSignature (p : Port) : Port :=
  { p with authed := true, actRx := BitVec.ofNat 64 (getLE p.authBytes (p.authBytes.length - 8) 8) }

/-- AUTHENTICATION: a record in sequence, and the outcome of the verification that it completes: of the partner's chain, then
of its signature (R292). -/
def authenticationEffect (n : Nat) (rec : List Byte) (verified : Option Bool) (s : State) : State :=
  let p := s.port n
  let len := getLE rec 4 1
  if p.st ≠ .auth ∨ p.retryAt.isSome ∨ getLE rec 0 1 ≠ 6 ∨ getLE rec 2 2 ≠ p.authSeq ∨ len = 0 ∨ 24 < len then s
  else
    let s := s.setPort n { p with authSeq := p.authSeq + 1, authBytes := p.authBytes ++ (rec.drop 8).take len }
    match verified with
    | none => s
    | some false =>
      (s.updPort n fun p => { p with authed := false, retryAt := some (s.nowBeat + 100000) }).event (.bgh n) 4
        ((ptOfPort s n).getD 0xFF) [BitVec.ofNat 8 n]
    | some true => if (s.port n).actTx.isNone then s.sendSignature n else s.updPort n Port.takeSignature

/-- AUTH_RETRY, 100,000 beats after a failure (Table 11-15, AUTH_FAIL). -/
def authRetryEffect (n : Nat) (s : State) : State :=
  let p := s.port n
  match p.retryAt with
  | some r => if p.st = .auth ∧ r.toNat ≤ s.nowBeat.toNat then s.enterAuth n else s
  | none => s

/-- AUTH_TIMEOUT: 64 beats without an authenticated control slot (R305, Table 11-3). -/
def authTimeoutEffect (n : Nat) (s : State) : State :=
  let p := s.port n
  if p.active ∧ 64 ≤ p.noCtl then s.enterAuth n else s

/-! ## Link keys (R293, R294) -/

/-- Our side counts as the lower one (R293). -/
def lowerSide (s : State) (n : Nat) : Bool :=
  let p := s.port n
  if s.shortId = p.partner then decide (n < p.partnerPort) else decide (s.shortId.toNat < p.partner.toNat)

/-- The transmit and receive keys under a job key (R293). -/
def linkKeys (s : State) (n : Nat) (job : Key) : Key × Key :=
  let p := s.port n
  let ks := kdf (toLE 66 (p.secret.getD 0).toNat) "QZ BOUGH" (toBE 64 p.transcript.toNat ++ keyBytes job) 512
  let a : Key := BitVec.ofNat 256 (leNat (ks.take 32))
  let b : Key := BitVec.ofNat 256 (leNat (ks.drop 32))
  if lowerSide s n then (a, b) else (b, a)

/-- The later of the two activation beats has come (R292); a Graft port's keys activate as its generation says (R308). -/
def Port.activates (p : Port) : Bool :=
  p.st == .auth && (p.mode != 0 ||
    (p.authed && match p.actTx, p.rxBeat with
      | some a, some b => decide (a.toNat ≤ p.txBeat.toNat) && decide (p.actRx.toNat ≤ b.toNat)
      | _, _ => false))

/-- The hash of the transcript that both sides put into the key derivation: the messages of the lower side come first (R293;
DESIGN CHOICE, log entry 34). -/
def transcriptHash (s : State) (n : Nat) : Digest :=
  let p := s.port n
  Config.sha512 (if lowerSide s n then p.authSent ++ p.authBytes else p.authBytes ++ p.authSent)

/-- KEY_ACTIVATION: level 0 keys, and UP (R292 to R294); the count of R305 starts. A native port takes Z and the transcript hash
from its own exchange; a Graft port, whose exchange is its generation's, takes what that gives (R308). -/
def keyActivationEffect (n : Nat) (secret : Secret) (transcript : Digest) (partner : DWord) (partnerPort : Nat)
    (s : State) : State :=
  let p := s.port n
  if p.activates then
    let s := s.setPort n { p with noCtl := 0, ctlOk := 0, partner, partnerPort, hidden := false, waiting := [], ready := 0 }
    let s := if p.mode = 0 then s.updPort n fun p => { p with transcript := transcriptHash s n }
      else s.updPort n fun p => { p with secret := some secret, transcript }
    let k := linkKeys s n 0
    s.updPort n fun p => { p with st := .up, keyTx := some k.1, keyRx := some k.2, level1 := false, authed := false }
  else s

/-- CONFIRM of a job confirm: the first 8 bytes of the tag of an empty message (Table 11-9). -/
def confirmTag (k : Key) (switch : DWord) : List Byte :=
  (toBE 16 (Config.gcmSeal k (toLE 8 switch.toNat ++ toLE 2 0x07FF ++ zeros 2) [] []).2.toNat).take 8

/-- The partner's confirm stands for the key that this side expects (R294, Table 11-9). -/
def Port.confirms (p : Port) (switch : DWord) (tag : List Byte) : Bool :=
  match p.nextRx with
  | some k => tag == confirmTag k switch
  | none => false

/-- The confirms differ, or one is zero, and a key was non-zero (R294). -/
def State.mismatch (s : State) (n : Nat) : State := s.event (.bgh n) 6 ((ptOfPort s n).getD 0xFF) [BitVec.ofNat 8 n]

/-- The partition of a port holds a job key. -/
def holdsJobKey (s : State) (n : Nat) : Bool :=
  match ptOfPort s n with
  | some pt => (s.tenancy pt).jobKey.isSome
  | none => false

/-- What the confirms known so far settle, in our own beats (R294): both, the level from the later switch beat; a zero confirm of
one side alone, level 0 from its beat, since whatever the other side confirms it is level 0 (DEDUCED, log entry 34). -/
def State.resolveConfirms (s : State) (n : Nat) : State :=
  let p := s.port n
  let at1 (m : Bool × DWord) : DWord := s.nowBeat + (m.2 - p.txBeat)
  let at2 (t : Bool × DWord × List Byte) : DWord := s.nowBeat + (t.2.1 - p.rxBeat.getD 0)
  match p.mine, p.theirs with
  | some m, some t =>
    let later := if (at1 m).toNat < (at2 t).toNat then at2 t else at1 m
    let up := !m.1 && !t.1 && p.confirms t.2.1 t.2.2
    let s := s.setPort n { p with switchAt := some (later, up) }
    if !up && !(m.1 && t.1) then s.mismatch n else s
  | some m, none => if m.1 then s.setPort n { p with switchAt := some (at1 m, false) } else s
  | none, some t =>
    if t.1 then
      let s := s.setPort n { p with switchAt := some (at2 t, false) }
      if holdsJobKey s n then s.mismatch n else s
    else s
  | none, none => s

/-- A port sends a job confirm for its partition's job key, zero for none, and waits for the partner's (R294). -/
def State.sendConfirm (s : State) (n : Nat) (job : Key) : State :=
  let p := s.port n
  if p.active then
    let switch := p.txBeat + 64 + BitVec.ofNat 64 Config.switchLead
    let k := linkKeys s n job
    let s := s.queueRec n ([5, if job = 0 then 1 else 0] ++ zeros 6 ++ toLE 8 switch.toNat ++ confirmTag k.1 switch)
    let s := s.updPort n fun p => { p with nextTx := some k.1, nextRx := some k.2, mine := some (decide (job = 0), switch) }
    s.resolveConfirms n
  else s

/-- JOB_CONFIRM: the record's zero flag and switch beat from its first 16 bytes, and CONFIRM, the 8 bytes behind them (R294,
Table 11-9). -/
def jobConfirmEffect (n : Nat) (head confirm : List Byte) (s : State) : State :=
  if (s.port n).active ∧ getLE head 0 1 = 5 then
    let s := s.updPort n fun p => { p with
      theirs := some (bitAt (getLE head 1 1) 0, BitVec.ofNat 64 (getLE head 8 8), confirm.take 8) }
    s.resolveConfirms n
  else s

/-- LINK_LEVEL_SWITCH at the later named beat (R294, R443). -/
def linkLevelSwitchEffect (n : Nat) (s : State) : State :=
  let p := s.port n
  match p.switchAt with
  | some (b, up) =>
    if p.active ∧ b.toNat ≤ s.nowBeat.toNat then
      let k := if up then (p.nextTx.getD 0, p.nextRx.getD 0) else linkKeys s n 0
      s.setPort n { p with keyTx := some k.1, keyRx := some k.2, level1 := up, nextTx := none, nextRx := none,
                           mine := none, theirs := none, switchAt := none }
    else s
  | none => s

/-- A key switch is pending on a port of the partition (R294). -/
def switchPending (s : State) (pt : Nat) : Bool :=
  (ptPorts s pt).any fun n => (s.port n).switchAt.isSome || (s.port n).mine.isSome

/-! ## Frames (R285, R288, R297, R305) -/

/-- Symbols corrected on one lane. -/
def countLane (l : List Nat) (lane : Nat) : Nat := (l.filter (· == lane)).length

/-- The corrections of a lane that lie within the last 1,000 beats, with those of a frame (R288). -/
def lastCorrections (l : List (DWord × Nat)) (now : DWord) (n : Nat) : List (DWord × Nat) :=
  (if n = 0 then [] else [(now, n)]) ++ l.filter fun e => decide ((now - e.1).toNat < 1000)

/-- Count corrected symbols by lane (R288). -/
def Port.countCorrected (p : Port) (l : List Nat) (now : DWord) : Port :=
  { p with corrected := (List.range 18).foldl (fun m i =>
      mput [] m i (lastCorrections (mget [] m i) now (countLane l i))) p.corrected }

/-- The active lane whose corrections exceed the threshold. -/
def overThresh (p : Port) (thresh : Half) : Option Nat :=
  (activeLanes p).find? fun l =>
    decide (thresh.toNat < ((mget [] p.corrected l).map (·.2)).sum) && !p.faulty l

/-- A frame's tag fails: counted; beyond the limit in 1,000,000 beats the port returns to AUTH (R297). -/
def State.tagFailure (s : State) (n : Nat) : State :=
  let p := s.port n
  let beats := s.nowBeat :: p.tagBeats.filter fun b => decide ((s.nowBeat - b).toNat < 1000000)
  let s := s.setPort n { p with tagFail := satSucc p.tagFail, tagBeats := beats }
  if s.bgh.tagLimit.toNat < beats.length then
    (s.event (.bgh n) 5 ((ptOfPort s n).getD 0xFF) [BitVec.ofNat 8 n]).enterAuth n
  else s

/-- FRAME_RECEIVE: the errored symbols of its codeword by physical lane, and its tag, which a frame in AUTH does not have
(R285, R297, R304, R305). -/
def frameReceiveEffect (n time : Nat) (tagOk : Bool) (corrected : List Nat) (s : State) : State :=
  let p := s.port n
  if !p.aligned then s
  else if 15 < corrected.length then s.setPort n { p with fecUe := satSucc p.fecUe }
  else
    let p := if corrected.isEmpty then p
      else { p.countCorrected corrected s.nowBeat with fecCe := satSucc p.fecCe }
    let ctl := p.active && decide (1545 ≤ time) && tagOk
    let p := if ctl then { p with ctlOk := p.ctlOk + 1 } else p
    let p := if ctl && decide (4 ≤ p.ctlOk) then { p with noCtl := 0 } else p
    let s := s.setPort n p
    let s := if tagOk || !p.active then s else s.tagFailure n
    match overThresh (s.port n) s.bgh.laneThresh with
    | some l => if (s.port n).aligned then s.laneFault n l else s
    | none => s

/-! ## Meanings -/

def execAlignmentBlock (n l : Nat) (b : List Byte) (s : State) :=
  checked (.alignmentBlock n l b) s (alignmentBlockEffect n l b s)
def execSymbolLockLost (n l : Nat) (s : State) := checked (.symbolLockLost n l) s (symbolLockLostEffect n l s)
def execLaneSwap (n : Nat) (t : Bool) (s : State) := checked (.laneSwap n t) s (laneSwapEffect n t s)
def execLaneSwapTimeout (n : Nat) (s : State) := checked (.laneSwapTimeout n) s (laneSwapTimeoutEffect n s)
def execTrainingDone (n : Nat) (b : Bool) (s : State) (d : Bool := true) :=
  checked (.trainingDone n b d) s (trainingDoneEffect n b s d)
def execRetrain (n : Nat) (s : State) := checked (.retrain n) s (retrainEffect n s)
def execAuthentication (n : Nat) (r : List Byte) (v : Option Bool) (s : State) :=
  checked (.authentication n r v) s (authenticationEffect n r v s)
def execKeyActivation (n : Nat) (k : Secret) (t : Digest) (p : DWord) (q : Nat) (s : State) :=
  checked (.keyActivation n k t p q) s (keyActivationEffect n k t p q s)
def execAuthTimeout (n : Nat) (s : State) := checked (.authTimeout n) s (authTimeoutEffect n s)
def execAuthRetry (n : Nat) (s : State) := checked (.authRetry n) s (authRetryEffect n s)
def execFrameReceive (n t : Nat) (ok : Bool) (c : List Nat) (s : State) :=
  checked (.frameReceive n t ok c) s (frameReceiveEffect n t ok c s)
def execJobConfirm (n : Nat) (h c : List Byte) (s : State) := checked (.jobConfirm n h c) s (jobConfirmEffect n h c s)
def execLinkLevelSwitch (n : Nat) (s : State) := checked (.linkLevelSwitch n) s (linkLevelSwitchEffect n s)

end Sys2Proof.Machine
end

