-- ==== Sys2Proof/Machine/Security.lean ====
section
/-!
DEFINITION. Security (15): Bark and the tamper latch, Heartwood's keys, life-cycle transitions, field debug, the
tenancy messages, the tenant scrub, and the stages that Heartwood gates (16, 17).
-/

namespace Sys2Proof.Machine

/-! ## Bark (R411 to R413) -/

/-- The bit of SEC_BARK (Table 15-13). -/
def barkBit : BarkCond → Nat
  | .mesh => 0
  | .volt => 1
  | .clock => 2
  | .temp => 3
  | .light => 4
  | .tamperIn => 5

/-- A partition's keys go (Table 15-2). -/
def Tenancy.noKeys (t : Tenancy) : Tenancy :=
  { t with hbmKey := none, jobKey := none, jobKeyNext := none, ckptKey := none, ckptKeyNext := none, rho := none }

/-- Heartwood's own key store is empty. -/
def Heartwood.noKeys (h : Heartwood) : Heartwood :=
  { h with ik := none, ak := none, bk := none, ctxKey := none, fenceKey := none }

/-- Every partition's tenancy keys go. -/
def State.tenantKeysGone (s : State) : State := s.each (List.range 4) fun s p => s.updTen p Tenancy.noKeys

/-- What an armed Bark does (R412): keys, gates, halt, latch, SRAM; scrubs are abandoned (Table 15-8). -/
def State.tamperAct (s : State) : State :=
  let s := s.closeGates
  let s := s.detectAll (plainFault 0x0404 (s.suspect 0 0))
  let s := s.destroyEngineKeys.tenantKeysGone
  let s := s.each (List.range 4) fun s p => s.updTen p fun t =>
    { t with st := if t.st = .scrubbing then .none else t.st }
  ({ s with hw := { s.hw.noKeys with halted := true, tamperLatch := true, after := [], msgs := [] } }).clearSram

/-- A condition begins: it shows in SEC_BARK and in the event log, a further one too while TAMPER is set (R411, R445). -/
def State.barkReport (s : State) (c : BarkCond) : State :=
  let s := { s with hw := { s.hw with bark := s.hw.bark ||| (1#6 <<< barkBit c) } }
  if s.evt.sec.getLsbD 0 then s.logEvent .sec 0 0xFF [] else s.event .sec 0

/-- TAMPER: a condition of Table 15-1 is detected, or one of SEC_BARK has ended (R411, R412, Table 15-13). -/
def tamperEffect (c : BarkCond) (s : State) (ended : Bool) : State :=
  if !s.powered then s
  else if ended then { s with hw := { s.hw with bark := s.hw.bark &&& ~~~(1#6 <<< barkBit c) } }
  else
    let s := s.barkReport c
    if armedState (lcState s.hw) then s.tamperAct else s

/-- TAMPER_IN# in Dormant with 48 V present (R411). -/
def tamperLatchEffect (s : State) : State :=
  if s.pwr.stage = .dormant ∧ s.pwr.supply ∧ s.pwr.tamperWatch then
    { s with hw := { s.hw with tamperLatch := true } }
  else s

/-! ## Key derivation (R414, R415) -/

/-- A P-521 private key from 576 derived bits, read big-endian. -/
def privKey (root : List Byte) (label : String) (context : List Byte) : Nat :=
  leNat (kdf root label context 576).reverse % (Config.p521Order - 1) + 1

/-- The device-secret read path is blocked for this power period or for good: the root is the test root (R417, Table 15-4; for a
block fuse that a resumed transition has burnt: DEDUCED, log entry 9). -/
def rootBlocked (h : Heartwood) : Bool := h.testRoot || h.blockFuse

/-- The root in force (R417). -/
def rootKey (h : Heartwood) : Key :=
  if rootBlocked h then Config.testRoot else if h.bankA.valid then h.bankA.secret else h.bankB.secret

/-- The private key IK under the root in force (Table 15-2). -/
def ikOf (h : Heartwood) : Nat := privKey (keyBytes (rootKey h)) "QZ IDENTITY" []

/-- The first 8 bytes of SHA-512 over a public key, byte 0 lowest (R293, R509). -/
def shortIdOf (pub : List Byte) : DWord := BitVec.ofNat 64 (leNat ((toBE 64 (Config.sha512 pub).toNat).take 8))

/-- Heartwood derives the keys of a Rooted stage: IK, AK over a bundle digest, BK and the table keys (Table 15-2). -/
def State.deriveKeys (s : State) (bundle : List Byte) : State :=
  let root := keyBytes (rootKey s.hw)
  let ik := ikOf s.hw
  let d := s.draw
  let bk := kdf256 root "QZ BOOT" (keyBytes d.1)
  let s := d.2
  let pub := Config.p521Public ik
  { s with ikPub := pub, shortId := shortIdOf pub,
           hw := { s.hw with ik := some ik, ak := some (privKey root "QZ ALIAS" bundle), bk := some bk,
                             ctxKey := some (kdf256 (keyBytes bk) "QZ CTX TABLE" []),
                             fenceKey := some (kdf256 (keyBytes bk) "QZ FENCE TABLE" []) } }

/-- Canopy draws its management key, and Heartwood signs its certificate with AK (R479). -/
def State.mgmtKeys (s : State) (mark : List Byte) : State :=
  let d := s.draw
  let s := d.2
  let body := mark ++ Config.p521Public d.1.toNat
  { s with cnp := { s.cnp with
      mgmtKey := some d.1, mgmtCert := body ++ Config.ecdsaSign (s.hw.ak.getD 0) (Config.sha512 body) } }

/-! ## Life-cycle transitions (R420 to R424) -/

/-- The bit of a transition in the BEGIN and DONE marks. -/
def LcTrans.bit : LcTrans → Nat
  | .assemble => 0
  | .provision => 1
  | .deploy => 2
  | .giveBack => 3
  | .scrap => 4

/-- The transition starts from a life-cycle state (Table 15-4). -/
def LcTrans.startsIn (t : LcTrans) (lc : LcState) : Bool :=
  match t with
  | .assemble => lc == .wafer
  | .provision => lc == .assembled
  | .deploy => lc == .provisioned
  | .giveBack => lc == .deployed
  | .scrap => lc != .scrapped

/-- Burn BEGIN. -/
def Heartwood.begin (h : Heartwood) (t : LcTrans) : Heartwood := { h with lcBegin := h.lcBegin ||| (1#5 <<< t.bit) }

/-- Burn DONE. -/
def Heartwood.finish (h : Heartwood) (t : LcTrans) : Heartwood := { h with lcDone := h.lcDone ||| (1#5 <<< t.bit) }

/-- Every bit of both banks, and the block fuse. -/
def Heartwood.scrapped (h : Heartwood) : Heartwood :=
  let b : Bank := { secret := BitVec.allOnes 256, check := BitVec.allOnes 32, burnt := true, valid := true, invalid := true,
                    allOnes := true }
  { h with bankA := b, bankB := b, blockFuse := true }

/-- A bank with a secret burnt and its check, the first 32 bits of SHA-512 over it; VALID where the compare passes (R423). -/
def Bank.burn (k : Key) (ok : Bool) : Bank :=
  { secret := k, check := (Config.sha512 (keyBytes k)).extractLsb' 480 32, burnt := true, valid := ok, invalid := !ok }

/-- Generate the device secret from 256 drawn bits (R423): into A, or, where A fails or stands half burnt, into B; none where
both fail. -/
def Heartwood.generate (h : Heartwood) (k : Key) (aOk bOk : Bool) : Option Heartwood :=
  if h.bankA.valid || h.bankB.valid then some h
  else
    let h' := if h.bankA.burnt then { h with bankA := { h.bankA with invalid := true } }
      else { h with bankA := Bank.burn k aOk }
    if h'.bankA.valid then some h'
    else if h'.bankB.burnt then none
    else if bOk then some { h' with bankB := Bank.burn k true }
    else none

/-- The actions of a transition and its DONE mark; says which transition completed (R420, R423). A deployment whose
certificate does not match stays with BEGIN alone. -/
def Heartwood.perform (h : Heartwood) (t : LcTrans) (cert : Option Digest) (k : Key) (aOk bOk : Bool) :
    Heartwood × Bool :=
  match t with
  | .assemble => (h.finish t, true)
  | .provision =>
    let h := { h with scanFuse := true, scanClosed := true }
    match h.generate k aOk bOk with
    | some h => (h.finish t, true)
    | none => ((h.begin .scrap).scrapped.finish .scrap, true)
  | .deploy =>
    match cert with
    | some d => ({ h with certFuse := some d }.finish t, true)
    | none => (h, false)
  | .giveBack => ({ h with blockFuse := true }.finish t, true)
  | .scrap => (h.scrapped.finish t, true)

/-- SHA-512 of the certificate in module flash, where its public key is that of IK (Table 15-4). -/
def deployDigest (s : State) : Option Digest :=
  (s.cnp.idCert.filter fun c => c.key == Config.p521Public (ikOf s.hw)).map fun c => Config.sha512 c.der

/-- The actions of a transition whose BEGIN mark is burnt, and its DONE mark; a secret that PROVISION may need is drawn. Says
which bit of SEC_EVENT tells of it. -/
def State.act (s : State) (t : LcTrans) (aOk bOk : Bool) (bit : Nat) : State :=
  let d := if t = .provision then s.draw else (0, s)
  let r := s.hw.perform t (deployDigest s) d.1 aOk bOk
  let s := { d.2 with hw := r.1 }
  (if r.2 then s.event .sec bit else s).endTrace

/-- BEGIN, the actions, DONE (R420). -/
def State.transit (s : State) (t : LcTrans) (aOk bOk : Bool) : State :=
  ({ s with hw := s.hw.begin t }).act t aOk bOk 1

/-- No partition holds a tenancy or scrubs. -/
def tenanciesClear (s : State) : Bool := (List.range 4).all fun p => (s.tenancy p).st == .none

/-- The link keys of a port go. -/
def Port.noKeys (p : Port) : Port :=
  { p with keyTx := none, keyRx := none, nextTx := none, nextRx := none, secret := none, level1 := false, mine := none,
           theirs := none, switchAt := none }

/-- A port that has authenticated its partner, or is about to. -/
def Port.linked (p : Port) : Bool := p.st == .auth || p.st == .up || p.st == .swap

/-- Open field debug once every scrub has ended (R426, steps 3 to 6): sessions that began while the scrubs ran end with their keys
too, every link key goes, and a port that had keys authenticates anew. -/
def State.openDebug (s : State) (scope : Byte) : State :=
  let s := s.endAllSessions.tenantKeysGone
  let s := { s with mb := { s.mb with kids := [] } }
  let s := { s with hw := { s.hw.noKeys with testRoot := true } }
  let s := s.deriveKeys (toBE 64 s.hw.bundle.toNat)
  let s := s.each (List.range s.variant.ports) fun s n => s.updPort n Port.noKeys
  let s := s.each ((List.range s.variant.ports).filter fun n => (s.port n).linked) State.enterAuth
  ({ s with hw := { s.hw with scope, debugOpen := true } }).event .sec 3

/-- What waited for the scrubs happens, in order (R424, R426). -/
def State.runAfter (s : State) : State :=
  if tenanciesClear s then
    let l := s.hw.after
    ({ s with hw := { s.hw with after := [] } }).each l fun s a => match a with
      | .transition t aOk bOk => s.transit t aOk bOk
      | .debug scope => s.openDebug scope
  else s

/-- Close every tenancy, then act at once or after the scrubs (R424, R426). -/
def State.afterTenancies (s : State) (a : AfterScrubs) : State :=
  let s := s.each (List.range 4) State.closeTenancy
  ({ s with hw := { s.hw with after := s.hw.after ++ [a] } }).runAfter

/-- A token is verified against the outstanding challenge (R421, R425, R427): an accepted one consumes the challenge, a
failed one is counted. -/
def State.token (s : State) (ok : Bool) (f : State → State) : State :=
  if ok && s.hw.challenge.isSome then f { s with hw := { s.hw with challenge := none } }
  else ({ s with hw := { s.hw with tokenFails := s.hw.tokenFails + 1 } }).event .sec 4

/-- A transition is under way or waits for its scrubs; an opening of field debug that waits is none (R481). -/
def lcBusy (s : State) : Bool := s.hw.after.any fun a => match a with
  | .transition .. => true
  | .debug _ => false

def waferToAssembledEffect (s : State) : State :=
  if s.powered && !s.isHalted && lcState s.hw == .wafer then s.transit .assemble true true else s

def assembledToProvisionedEffect (scope : Byte) (ok aOk bOk : Bool) (s : State) : State :=
  if s.hw.booted && !s.isHalted && lcState s.hw == .assembled && !lcBusy s then
    s.token (ok && scope == 0x80) fun s => s.afterTenancies (.transition .provision aOk bOk)
  else s

/-- LC_REQUEST of a transition that names Canopy (Table 17-4). -/
def State.lcRequest (s : State) (t : LcTrans) (f : State → State) : State :=
  s.netCommand 5 fun s =>
    if lcBusy s then s.answer 5 2
    else if s.isHalted || !t.startsIn (lcState s.hw) then s.answer 5 1
    else f s

/-- The certificate region of module flash holds what Edrid has written there by now (R436). -/
def State.writeCert (s : State) (c : Option IdCert) : State :=
  { s with cnp := { s.cnp with idCert := c.or s.cnp.idCert } }

def provisionedToDeployedEffect (scope : Byte) (ok : Bool) (key der : List Byte) (s : State) : State :=
  (s.writeCert (if der.isEmpty then none else some { key, der })).lcRequest .deploy fun s =>
    if ok && scope == 0x40 && s.hw.challenge.isSome then
      (s.token true fun s => s.afterTenancies (.transition .deploy true true)).answer 5 0
    else (s.token false id).answer 5 1

def deployedToReturnedEffect (s : State) : State :=
  s.lcRequest .giveBack fun s => (s.afterTenancies (.transition .giveBack true true)).answer 5 0

/-- SCRAP through J6 in WAFER and ASSEMBLED, else through Canopy (Table 15-4). -/
def scrapEffect (viaJ6 : Bool) (s : State) : State :=
  if viaJ6 then
    let lc := lcState s.hw
    if s.powered && !s.isHalted && (lc == .wafer || lc == .assembled) && !lcBusy s then
      s.afterTenancies (.transition .scrap true true)
    else s
  else s.lcRequest .scrap fun s => (s.afterTenancies (.transition .scrap true true)).answer 5 0

/-! ## Field debug (R425 to R427) -/

/-- A new challenge replaces the outstanding one; after eight failures none is issued (R425, R427). -/
def State.newChallenge (s : State) : State :=
  if 8 ≤ s.hw.tokenFails then s.emit (.challenge [])
  else
    let d := s.draw
    let c := keyBytes d.1 ++ toLE 8 s.shortId.toNat ++ toLE 1 (lcState s.hw).code ++ zeros 23
    ({ d.2 with hw := { d.2.hw with challenge := some c, challengeAt := d.2.pwr.uptime } }).emit (.challenge c)

/-- DEBUG_CHALLENGE through Canopy, or through J6 in ASSEMBLED (R421). -/
def debugChallengeEffect (s : State) : State :=
  if !s.hw.booted || s.isHalted then s
  else if lcState s.hw == .assembled then s.newChallenge
  else s.netCommand 6 State.newChallenge

/-- 600 s after its issue an outstanding challenge is discarded (R425). -/
def challengeExpiryEffect (s : State) : State :=
  if s.hw.challengeAt + 600000000 ≤ s.pwr.uptime then { s with hw := { s.hw with challenge := none } } else s

/-- DEBUG_TOKEN (R426, R427). -/
def debugTokenEffect (scope : Byte) (ok : Bool) (s : State) : State :=
  s.netCommand 7 fun s =>
    let lc := lcState s.hw
    if s.isHalted || !(lc == .provisioned || lc == .deployed) then s.answer 7 1
    else if ok && decide (scope.toNat < 8) && s.hw.challenge.isSome then
      (s.token true fun s => s.endAllSessions.afterTenancies (.debug scope)).answer 7 0
    else (s.token false id).answer 7 1

/-! ## The attestation lock (R438) -/

/-- SAP_CTRL (Table 16-8 as the reset value 1800_0A14h spells it). -/
def sapCtrlWord (s : State) : Nat :=
  atBits s.sap.ilim.toNat 24 8 + atBits s.sap.tmargin.toNat 8 8 + atBits s.sap.hyst.toNat 0 8

/-- The digest over every RWL register, ascending: SAP_CTRL, HIF_CTX_BASE, HIF_FENCE_BASE. -/
def lockDigestOf (s : State) : Digest :=
  Config.sha512 (toLE 4 (sapCtrlWord s) ++ toLE 4 s.hif.ctxBaseLo.toNat ++ toLE 4 s.hif.ctxBaseHi.toNat ++
    toLE 4 s.hif.fenceBaseLo.toNat ++ toLE 4 s.hif.fenceBaseHi.toNat)

/-- The lock is asked for in the beat that runs. -/
def State.askLock (s : State) : State :=
  if s.hw.locked then s else { s with hw := { s.hw with lockReq := true } }

/-- The lock takes effect, at order 4 of the boundary that ends the beat of the request (Table 2-4). -/
def State.takeLock (s : State) : State :=
  if s.hw.lockReq && !s.hw.locked then
    { s with hw := { s.hw with locked := true, lockReq := false, lockDigest := lockDigestOf s } }
  else s

def attestationLockEffect (s : State) : State := s.hostField 0xB0000C State.askLock

/-! ## Tenancy messages (R428 to R434, Table 15-5) -/

/-- Heartwood accepts a message of a finished session; it takes effect at the boundary that ends the beat (R428). -/
def State.acceptMsg (s : State) (id : Nat) (m : TenMsg) : State :=
  if (s.session id).finished && !s.isHalted then { s with hw := { s.hw with msgs := s.hw.msgs ++ [(id, m)] } } else s

/-- CODE (Table 15-5). -/
def TenMsg.code : TenMsg → Nat
  | .tenantOpen _ => 1
  | .declareParty .. => 2
  | .partyJoin .. => 3
  | .jobKey _ => 4
  | .ckptKey _ => 5
  | .regions _ => 6
  | .approve _ => 7
  | .leave => 8
  | .close => 9

/-- The life-cycle state grants tenant sessions (Table 15-3). -/
def tenantsAllowed (s : State) : Bool :=
  match lcState s.hw with
  | .wafer => false
  | .assembled => s.hw.testRoot
  | .provisioned => !noCert s
  | .deployed => true
  | .returned => s.hw.testRoot
  | .scrapped => false

/-- TENANT_OPEN. -/
def State.openTenancy (s : State) (id : Nat) (x : Session) (pt : Nat) : State × Nat :=
  if x.pt.isSome then (s, 3)
  else if (ptList s).length ≤ pt then (s, 4)
  else if (s.tenancy pt).st ≠ .none ∨ (s.tenancy pt).scrubFailed ∨ !tenantsAllowed s ∨ !s.hw.after.isEmpty then (s, 1)
  else
    let d := s.draw
    let k := kdf256 (keyBytes (s.hw.bk.getD 0)) "QZ HBM" (BitVec.ofNat 8 pt :: keyBytes d.1)
    let s := d.2.setTen pt { st := .opened, hbmKey := some k,
                             parties := mput {} [] 0 { declared := true, session := some id } }
    ((s.setSession id { x with pt := some pt, party := 0 }).askLock, 0)

/-- A message of party 0 of partition p; f runs there. -/
def asOwner (x : Session) (s : State) (f : Nat → State × Nat) : State × Nat :=
  match x.pt with
  | some p => if x.party = 0 then f p else (s, 3)
  | none => (s, 3)

/-- A message of a party from 1 to 7. -/
def asParty (x : Session) (s : State) (f : Nat → State × Nat) : State × Nat :=
  match x.pt with
  | some p => if x.party = 0 then (s, 3) else f p
  | none => (s, 3)

/-- DECLARE_PARTY. -/
def State.declare (s : State) (p party : Nat) (hash : Digest) : State × Nat :=
  if party = 0 ∨ 7 < party then (s, 4)
  else if (s.tenancy p).started then (s, 1)
  else (s.setParty p party fun r => { r with declared := true, keyHash := hash }, 0)

/-- What SIG of a PARTY_JOIN must sign: the string, the PT and PARTY bytes and the session's transcript hash (R429). -/
def joinText (x : Session) (pt party : Nat) : List Byte :=
  ascii "QZ PARTY JOIN" ++ toLE 1 pt ++ toLE 1 party ++ toBE 64 x.transcript.toNat

/-- PARTY_JOIN (R429). -/
def State.join (s : State) (id : Nat) (x : Session) (pt party : Nat) (pubKey signed : List Byte) : State × Nat :=
  let r : PartyRec := mget {} (s.tenancy pt).parties party
  if x.pt.isSome then (s, 3)
  else if (ptList s).length ≤ pt ∨ party = 0 ∨ 7 < party then (s, 4)
  else if (s.tenancy pt).st ≠ .opened then (s, 1)
  else if !r.declared || r.session.isSome || Config.sha512 pubKey != r.keyHash || signed != joinText x pt party then (s, 2)
  else ((s.setParty pt party fun r => { r with session := some id }).setSession id { x with pt := some pt, party }, 0)

/-- The regions cover pages n to the end exactly, in ascending order (R432). -/
def coverFrom (n total : Nat) : List RegionDef → Bool
  | [] => n == total
  | r :: rs => r.first == n && coverFrom (n + r.pages) total rs

/-- DEFINE_REGIONS (R432): each region gets a fresh key ID and enters INIT. -/
def State.defineRegions (s : State) (p : Nat) (regions : List RegionDef) : State × Nat :=
  let t := s.tenancy p
  if regions.isEmpty ∨ 16 < regions.length ∨ !coverFrom 0 (ptPages s p) regions ∨
      !regions.all (fun r => r.party == 0 || (mget {} t.parties r.party : PartyRec).declared) then (s, 4)
  else if t.started ∨ t.regionsDefined then (s, 1)
  else
    let s := s.each regions.zipIdx fun s e =>
      (s.setRegion (16 * p + e.2) { base := e.1.first, pages := e.1.pages, party := e.1.party }).initRegion (16 * p + e.2)
    (s.updTen p fun t => { t with regionsDefined := true }, 0)

/-- APPROVE_IMAGE: a 17th approval replaces the oldest (R433). -/
def State.approve (s : State) (p party : Nat) (digest : Digest) : State :=
  s.setParty p party fun r =>
    let l := r.approved ++ [digest]
    { r with approved := l.drop (l.length - 16) }

/-- A message's effect and status (Table 15-5); PARTY_LEAVE and TENANT_CLOSE act once they have been answered. -/
def State.handle (s : State) (id : Nat) (x : Session) : TenMsg → State × Nat
  | .tenantOpen pt => s.openTenancy id x pt
  | .declareParty party hash => asOwner x s fun p => s.declare p party hash
  | .partyJoin pt party key signed => s.join id x pt party key signed
  | .jobKey key => asOwner x s fun p =>
      if key = 0 then (s, 4) else (s.updTen p fun t => { t with jobKeyNext := some key }, 0)
  | .ckptKey key => asOwner x s fun p => (s.updTen p fun t => { t with ckptKeyNext := some key }, 0)
  | .regions l => asOwner x s fun p => s.defineRegions p l
  | .approve digest => asParty x s fun p => (s.approve p x.party digest, 0)
  | .leave => asParty x s fun _ => (s, 0)
  | .close => asOwner x s fun _ => (s, 0)

/-- What follows the answer of an accepted PARTY_LEAVE or TENANT_CLOSE: the session that carried it ends. -/
def State.afterAnswer (s : State) (id : Nat) (x : Session) : TenMsg → State
  | .leave => s.endSession id
  | .close => s.closeTenancy (x.pt.getD 0)
  | _ => s

/-- One message at the boundary: its effect, then its answer. A session that has ended since gets none (DESIGN CHOICE, log
entry 32). -/
def State.runMsg (s : State) (m : Nat × TenMsg) : State :=
  let x := s.session m.1
  if x.finished && !s.isHalted then
    let r := s.handle m.1 x m.2
    let t := r.1.emitPcie (.tenancy m.1 (BitVec.ofNat 8 (m.2.code + 0x80)) (BitVec.ofNat 8 r.2))
    if r.2 = 0 then t.afterAnswer m.1 x m.2 else t
  else s

/-- The messages of the beat that ends, in order of arrival, at order 4 (R428). -/
def State.runMsgs (s : State) : State :=
  s.hw.msgs.foldl State.runMsg { s with hw := { s.hw with msgs := [] } }

def tenantOpenEffect (id pt : Nat) (s : State) : State := s.acceptMsg id (.tenantOpen pt)
def declarePartyEffect (id party : Nat) (hash : Digest) (s : State) : State := s.acceptMsg id (.declareParty party hash)
def partyJoinEffect (id pt party : Nat) (pubKey signed : List Byte) (s : State) : State :=
  s.acceptMsg id (.partyJoin pt party pubKey signed)
def setJobKeyEffect (id : Nat) (key : Key) (s : State) : State := s.acceptMsg id (.jobKey key)
def setCkptKeyEffect (id : Nat) (key : Key) (s : State) : State := s.acceptMsg id (.ckptKey key)
def defineRegionsEffect (id : Nat) (regions : List RegionDef) (s : State) : State := s.acceptMsg id (.regions regions)
def approveImageEffect (id : Nat) (digest : Digest) (s : State) : State := s.acceptMsg id (.approve digest)
def partyLeaveEffect (id : Nat) (s : State) : State := s.acceptMsg id .leave
def tenantCloseEffect (id : Nat) (s : State) : State := s.acceptMsg id .close

/-! ## The scrub (R439 to R444, Tables 15-7, 19-10) -/

/-- A closing partition in which no step is selected or running at this boundary: its scrub may start in the beat after it
(R439). -/
def State.readyScrub (s : State) (pt : Nat) : State :=
  if (s.tenancy pt).st = .closing ∧ (s.part pt).sel.isNone ∧ (s.part pt).running.isNone then
    s.updTen pt fun t => { t with scrubDue := true }
  else s

/-- SCRUB_START, in the beat after a boundary at which no step of the closing partition was selected or running (R439, R440). -/
def scrubStartEffect (pt : Nat) (s : State) : State :=
  let t := s.tenancy pt
  if t.st = .closing ∧ t.scrubDue ∧ !s.isHalted then
    let s := s.setTen pt { scrubFailed := t.scrubFailed, st := .scrubbing, scrubStart := s.pwr.uptime }
    let s := s.each (regionsOf pt) fun s r =>
      let x := s.region r
      if x.st = .unused then s else ((s.retireKid x.kid).retireKid x.prev).setRegion r {}
    let s := { s with mb := { s.mb with
      wc := s.mb.wc.filter fun e => e.pt ≠ pt,
      om := s.mb.om.filter fun e => pageOwner s e.1 ≠ some pt,
      watch := s.mb.watch.filter fun p => pageOwner s p ≠ some pt,
      windows := s.mb.windows.filter fun w => w.pt ≠ pt,
      dma := s.mb.dma.filter fun d => d.pt ≠ pt,
      lost := s.mb.lost.filter fun l => l.pt ≠ pt,
      regen := s.mb.regen.filter fun l => l.1 ≠ pt } }
    let s := { s with bufs := mput {} s.bufs pt {} }
    let s := s.each ((List.range (100 * ptSize s pt)).map (absCluster s pt)) zeroCluster
    s.each (ptGroves s pt) fun s g => (zeroCrown { s with gve := mput [] s.gve g [] } g)
  else s

/-- The registers of a port after a scrub: reset values, but the committed mode and the link's own state stay
(Table 19-10; DEDUCED, log entry 34). -/
def Port.afterScrub (p : Port) : Port :=
  { p with stMode := p.mode, hidden := true, fecCe := 0, fecUe := 0, tagFail := 0, slotMiss := 0, graftDrop := 0,
           waiting := if p.active then [] else p.waiting, ready := if p.active then 0 else p.ready }

/-- A layout that waited for a scrub takes effect once none of the partitions it meets scrubs (Table 15-8). -/
def State.applyWaiting (s : State) : State :=
  match s.cfg.waitLayout with
  | some row => if layoutMeets s row (· != .none) then s else s.setLayout row
  | none => s

/-- SCRUB_END, in the beat behind the 520 of the scrub, which the uptime counts (R440, R442, R443). -/
def scrubEndEffect (pt : Nat) (clean : Bool) (s : State) : State :=
  let t := s.tenancy pt
  if t.st = .scrubbing ∧ s.pwr.uptime = t.scrubStart + 520 then
    let qs := (List.range 48).filter fun q => queuePt s q == some pt
    let s := s.setPart pt {}
    let s := s.each qs fun s q => s.updQueue q fun x => { x with st := .disabled, ctx := none }
    let s := (s.setRed pt {}).setNum pt {}
    let s := s.each (ptPorts s pt) fun s n =>
      { s.updPort n Port.afterScrub with evt := s.evt.set (.bgh n) 0 }
    let s := { s with evt := s.evt.set (.red pt) 0 }
    let s := if clean then s else s.event .sec 7 pt
    let s := s.setTen pt { scrubFailed := t.scrubFailed || !clean }
    let s := s.event .sec 6 pt
    let s := s.each (ptPorts s pt) fun s n => (s.sendConfirm n 0).updPort n fun p => { p with ready := p.waiting.length }
    s.applyWaiting.runAfter
  else s

/-! ## Stages that Heartwood gates (R418, R422, R465, R485) -/

/-- Resume one interrupted transition (R422). -/
def State.resume (s : State) (t : LcTrans) : State :=
  if s.hw.lcBegin.getLsbD t.bit ∧ !s.hw.lcDone.getLsbD t.bit ∧ t.startsIn (lcState s.hw) then
    let n := s.freeCtr
    ({ s with freeCtr := n + 2 }).act t (Config.fuseVerify n) (Config.fuseVerify (n + 1)) 2
  else s

/-- A set tamper latch burns one increment and is cleared (R413). -/
def Heartwood.burnTamper (h : Heartwood) : Heartwood :=
  if h.tamperLatch then { h with tamperFuses := min 32 (h.tamperFuses + 1), tamperLatch := false } else h

/-- ROOTED_STAGE: the bundle in the slot is verified, then the actions of a Rooted stage; a failure starts the recovery
loader. -/
def rootedStageEffect (c : SlotCheck) (s : State) (cert : Option IdCert) : State :=
  let b := s.cnp.slot
  if s.pwr.stage ≠ .seedling ∨ !s.climbing then s
  else if s.cnp.slotOk && bundleOk s b c then
    let s := (s.writeCert cert).each [.assemble, .provision, .deploy, .giveBack, .scrap] State.resume
    let s := { s with hw := { s.hw.burnTamper with
      bundle := bundleDigest b, bundleSvn := bundleSvn b, bundleCommit := bundleCommits b,
      canopyDigest := (canopyComponent b).getD 0, testRoot := rootBlocked s.hw } }
    let s := s.clearSram
    let s := (s.deriveKeys (toBE 64 (bundleDigest b).toNat)).mgmtKeys []
    let s := { s with hw := { s.hw with booted := true }, pwr := { s.pwr with stage := .rooted },
                      cnp := { s.cnp with up := true, recovery := false, romMode := false, coreDown := false } }
    s.closeAtRooted (s.hw.ak.getD 0)
  else ((s.failStage 2).deriveKeys (zeros 64)).mgmtKeys (ascii "RECOVERY")

/-- A grove's remap table from the physical clusters that its array tests find bad: the spares that passed serve the lost logical
clusters in ascending order (R24, R483; the order: DEDUCED, log entry 14). -/
def GroveMap.rebuild (g : GroveMap) (bad : List Nat) : GroveMap :=
  let lost := (List.range 100).filter fun c => bad.contains c
  let good := [100, 101, 102, 103].filter fun c => !bad.contains c
  { g with remap := lost.zip good, retired := bad, unbacked := lost.drop good.length, spares := good.drop lost.length }

/-- A record that failed its CRC-32 is ignored, and built anew from what the self-tests of Leafed find (R483). -/
def State.rebuildRecord (s : State) (b : BadRecord) : State :=
  match b.what with
  | .log h => { s with mb := { s.mb with repaired := s.mb.repaired.filter (fun x => rowStack x ≠ h) ++ b.found } }
  | .pages h =>
    ({ s with mb := { s.mb with retired := s.mb.retired.filter fun x => x.1 ≠ h } }).each b.found fun s row =>
      { s with mb := { s.mb with retired := s.mb.retired ++ [(h, rowPc row, rowPage row, retiredIn s row)] } }
  | .remap g => s.setGrove g ((s.grove g).rebuild b.found)
  | .lanes n => s.updPort n fun p => { p with failedLanes := b.found }

/-- LEAFED_STAGE: TREF and the PLLs hold; records of the repair state that fail their CRC are rebuilt, and the memory training
makes the soft repairs of the log hard (R224, R362, R465, R483). -/
def leafedStageEffect (bad : List BadRecord) (s : State) : State :=
  if s.pwr.stage = .rooted ∧ s.climbing ∧ s.cmb.tref ∧ s.cmb.pllLocked then
    let s := ({ s with pwr := { s.pwr with stage := .leafed } }).each bad State.rebuildRecord
    { s with mb := { s.mb with hard := s.mb.repaired } }
  else s

/-- FULL_STAGE: PLL A at T0, PLL B locked at T1 in every grove; the committed security version is burnt (R465, R485). -/
def fullStageEffect (s : State) : State :=
  if s.pwr.stage = .leafed ∧ s.climbing then
    let s := { s with pwr := { s.pwr with stage := .full } }
    let s := s.each (List.range 4) fun s p =>
      s.setClock p { s.clock p with tier := 0, standbyTier := 1, standbyLocked := true }
    if s.hw.bundleCommit ∧ s.hw.svnFuses < s.hw.bundleSvn then
      ({ s with hw := { s.hw with svnFuses := s.hw.bundleSvn } }).event .cnp 4
    else s
  else s

/-! ## Meanings -/

def execTamper (c : BarkCond) (s : State) (e : Bool := false) := checked (.tamper c e) s (tamperEffect c s e)
def execTamperLatch (s : State) := checked .tamperLatch s (tamperLatchEffect s)
def execWaferToAssembled (s : State) := checked .waferToAssembled s (waferToAssembledEffect s)
def execAssembledToProvisioned (c : Byte) (ok a b : Bool) (s : State) :=
  checked (.assembledToProvisioned c ok a b) s (assembledToProvisionedEffect c ok a b s)
def execProvisionedToDeployed (c : Byte) (ok : Bool) (k d : List Byte) (s : State) :=
  checked (.provisionedToDeployed c ok k d) s (provisionedToDeployedEffect c ok k d s)
def execDeployedToReturned (s : State) := checked .deployedToReturned s (deployedToReturnedEffect s)
def execScrap (j : Bool) (s : State) := checked (.scrap j) s (scrapEffect j s)
def execDebugChallenge (s : State) := checked .debugChallenge s (debugChallengeEffect s)
def execChallengeExpiry (s : State) := checked .challengeExpiry s (challengeExpiryEffect s)
def execDebugToken (c : Byte) (ok : Bool) (s : State) := checked (.debugToken c ok) s (debugTokenEffect c ok s)
def execTenantOpen (i p : Nat) (s : State) := checked (.tenantOpen i p) s (tenantOpenEffect i p s)
def execDeclareParty (i p : Nat) (h : Digest) (s : State) :=
  checked (.declareParty i p h) s (declarePartyEffect i p h s)
def execPartyJoin (i p n : Nat) (k t : List Byte) (s : State) :=
  checked (.partyJoin i p n k t) s (partyJoinEffect i p n k t s)
def execSetJobKey (i : Nat) (k : Key) (s : State) := checked (.setJobKey i k) s (setJobKeyEffect i k s)
def execSetCkptKey (i : Nat) (k : Key) (s : State) := checked (.setCkptKey i k) s (setCkptKeyEffect i k s)
def execDefineRegions (i : Nat) (r : List RegionDef) (s : State) :=
  checked (.defineRegions i r) s (defineRegionsEffect i r s)
def execApproveImage (i : Nat) (d : Digest) (s : State) := checked (.approveImage i d) s (approveImageEffect i d s)
def execPartyLeave (i : Nat) (s : State) := checked (.partyLeave i) s (partyLeaveEffect i s)
def execTenantClose (i : Nat) (s : State) := checked (.tenantClose i) s (tenantCloseEffect i s)
def execScrubStart (p : Nat) (s : State) := checked (.scrubStart p) s (scrubStartEffect p s)
def execScrubEnd (p : Nat) (c : Bool) (s : State) := checked (.scrubEnd p c) s (scrubEndEffect p c s)
def execAttestationLock (s : State) := checked .attestationLock s (attestationLockEffect s)
def execRootedStage (c : SlotCheck) (s : State) (k : Option IdCert := none) :=
  checked (.rootedStage c k) s (rootedStageEffect c s k)
def execLeafedStage (l : List BadRecord) (s : State) := checked (.leafedStage l) s (leafedStageEffect l s)
def execFullStage (s : State) := checked .fullStage s (fullStageEffect s)

end Sys2Proof.Machine
end

