-- ==== Sys2Proof/Machine/Array.lean ====
section
/-!
DEFINITION. Operation words and the matrix array (04): the word's fields, scratchpad and accumulator access, count
registers, weight tiles with their checksums and seals, and what WLD, WLDT, MM and MMT read and write in each of their ac. A
word under way is a Flight of its step; Machine/Cycles.lean runs the ac.
-/

namespace Sys2Proof.Machine

/-! ## Words and stream time (R104, R108) -/

def wOp (w : OpWord) : Nat := field w.toNat 84 8
def wDelta (w : OpWord) : Nat := field w.toNat 108 20
def wVar (w : OpWord) : Bool := bitAt w.toNat 83
def wSwap (w : OpWord) : Bool := bitAt w.toNat 82

/-- Bits [hi:lo] of a word. -/
def wBits (w : OpWord) (hi lo : Nat) : Nat := field w.toNat lo (hi + 1 - lo)

/-- A stream's number (Table 3-3). -/
def streamNum : Stream → Nat
  | .f => 0
  | .b => 1
  | .u => 2

/-- The image of the partition's current step, running or ended last. -/
def stepImage (s : State) (pt : Nat) : List Byte :=
  match (s.part pt).cur with
  | some r => (s.part pt).image r
  | none => []

/-- ac per beat in the tier of the partition's current step. -/
def stepAc (s : State) (pt : Nat) : Nat :=
  match (s.part pt).cur with
  | some r => acPerBeat r.tier
  | none => acPerBeat 0

def Flight.op (f : Flight) : Nat := wOp f.w

/-- The step that a word belongs to. -/
def flightRun (s : State) (f : Flight) : StepRun := ((s.part f.at_.pt).cur).getD {}

/-- DUR of a word. -/
def wDur (w : OpWord) : Nat := wBits w 107 92

/-- A fault that a word detects in an ac of its stream time (R76). -/
def State.wordFault (s : State) (f : Flight) (cause : Half) (point ac detail : Nat) (suspect : DWord) : State :=
  s.detect f.at_.pt { cause, point, suspect, ac := ac % stepAc s f.at_.pt, cluster := f.at_.cl,
                      stream := streamNum f.at_.st, word := f.idx, detail }

/-- The suspect that names a logical cluster. -/
def clusterSuspect (s : State) (c : Nat) : DWord := s.suspect 1 (clusterLoc s c)

/-! ## Scratchpad and accumulators (R99, R100, R130) -/

def spadSize : Nat := 3145728
def accSize : Nat := 524288

/-- n scratchpad bytes. Beyond the end, where a row that a record's token picks may run, there are zeros (DESIGN CHOICE, log
entry 24). -/
def spadR (s : State) (c off n : Nat) : List Byte :=
  (List.range n).map fun i => if off + i < spadSize then readB s (spadBase c + off + i) else 0

/-- Write scratchpad bytes that lie wholly inside (R110); a row that a record's token picks and that runs past the end is not
written at all (DESIGN CHOICE, log entry 24). -/
def spadW (s : State) (c off : Nat) (bs : List Byte) : State :=
  if off + bs.length ≤ spadSize then writeN s (spadBase c + off) bs else s

def accR (s : State) (c off n : Nat) : List Byte :=
  (List.range n).map fun i => if off + i < accSize then readB s (accBase c + off + i) else 0

def accW (s : State) (c off : Nat) (bs : List Byte) : State :=
  if off + bs.length ≤ accSize then writeN s (accBase c + off) bs else s

/-- The FP32 word at an offset of bytes. -/
def f32At (bs : List Byte) (off : Nat) : Word := BitVec.ofNat 32 (getLE bs off 4)

/-- FP32 words as bytes. -/
def f32Bytes (l : List Word) : List Byte := l.flatMap fun w => toLE 4 w.toNat

/-! ## Count registers (R113, R114, R199) -/

def Cluster.count (x : Cluster) (r : Nat) : CountReg := mget {} x.cr r

/-- The count of a word whose field gives max: the register where VAR is set. -/
def countOf (s : State) (c : Nat) (w : OpWord) (cr max : Nat) : Nat :=
  if wVar w then min ((s.cluster c).count cr).val max else max

/-- The maximum of a bound ID in the image's bounds table (R82). -/
def boundMax (img : List Byte) (id : Nat) : Option Nat :=
  let b := secShared img 2
  ((List.range (b.length / 16)).find? fun i => getLE b (16 * i) 2 = id).map fun i => getLE b (16 * i + 4) 8

/-- Write a count register, truncating at its bound and counting the excess (R114). -/
def State.setCount (s : State) (pt c reg val bound : Nat) : State :=
  let m := (boundMax (stepImage s pt) bound).getD val
  let y := s.cluster c
  let s := s.setCluster c { y with cr := mput {} y.cr reg { val := min val m, bound := some bound } }
  s.updRun pt fun r => { r with crExcess := r.crExcess + (val - m) }

/-! ## Operands of a pass (R115, R117, R118, R120) -/

/-- An element code of a row read as one little-endian bit string (R117). -/
def elemCode (bs : List Byte) (w j : Nat) : Nat := field (getLE bs (w * j / 8) 3) (w * j % 8) w

/-- Element j of a row of K elements in an array format, with its block scale (R117, R121). -/
def rowElem (bs : List Byte) (fmt k j : Nat) : Ext :=
  let f := elemFmt fmt
  let v := decodeN f (elemCode bs f.width j)
  if isMx fmt then withScale v (getLE bs (k * f.width / 8 + j / 32) 1) else v

/-- Bytes of a row of K elements. -/
def rowBytes (fmt k : Nat) : Nat := k * (elemFmt fmt).width / 8 + (if isMx fmt then k / 32 else 0)

/-- Dense K positions of a tile of a weight format (Table 4-6). -/
def tileK (fmt : Nat) : Nat := if fmt = 9 then 512 else if fmt = 8 then 256 else 128

/-- A stored scratchpad row. -/
def srcRow (s : State) (c src pitch i n : Nat) : List Byte := spadR s c (32 * src + 32 * pitch * i) n

/-- Group row values of a 2:4 tile: the dense weight at position j of a group (R120). -/
def sparseAt (row : List Byte) (n j : Nat) : Ext :=
  let b := getLE row n 1
  let ix := elemCode (row.drop 64) 4 n
  let v (i : Nat) : Ext := decodeN fE2M1 (field b (4 * i) 4)
  let pick (i : Nat) : Ext := if field ix (2 * i) 2 = j then v i else .zero
  (pick 0).add (pick 1)

/-- The weights of column n of a stored tile, cut at KROWS (R117, R118, R120). -/
def tileCol (rows scales : List (List Byte)) (fmt krows n : Nat) : List Ext :=
  (List.range krows).map fun k =>
    if fmt = 9 then
      withScale (sparseAt (rows.getD (k / 4) []) n (k % 4)) (getLE (scales.getD (k / 32) []) n 1)
    else
      let f := elemFmt fmt
      let v := decodeN f (elemCode (rows.getD k []) f.width n)
      if isMx fmt then withScale v (getLE (scales.getD (k / 32) []) n 1) else v

/-! ## Pass values and checks (R121, R126, R129) -/

/-- The exponent of a nonzero product. -/
def Ext.expo : Ext → Int
  | .fin _ m e => (Nat.log2 m : Int) + e
  | _ => 0

/-- The window's integer part of a product: truncated toward zero to 2^u (R121). -/
def windowed (u : Int) : Ext → Int
  | .fin n m e =>
    let k : Int := ((m * 2 ^ (e - u).toNat / 2 ^ (u - e).toNat : Nat) : Int)
    if n then -k else k
  | _ => 0

/-- pass_value of R121. -/
def passValue (xs ws : List Ext) : Word :=
  let p := List.zipWith Ext.mul xs ws
  if p.any Ext.isNan then nanF32
  else
    let inf := p.filter fun v => !v.isFin
    match inf with
    | v :: vs => if vs.any fun x => x.neg? != v.neg? then nanF32 else rne v
    | [] =>
      match p.filter fun v => !v.isZero with
      | [] => 0
      | v :: vs =>
        let u := (vs.foldl (fun e x => max e x.expo) v.expo) - 64
        let t := ((v :: vs).map (windowed u)).foldl (· + ·) 0
        if t = 0 then 0 else rne (.fin (decide (t < 0)) t.natAbs u)

/-- Column n of a tile of K weights, zeros where none is stored. -/
def Tile.col (t : Tile) (k n : Nat) : List Ext :=
  let l := t.cols.getD n []
  l ++ List.replicate (k - l.length) .zero

/-- The checksum column: rne_fp32 of each row's exact sum, of the weights or of their magnitudes (R126). -/
def Tile.sums (t : Tile) (k : Nat) (mag : Bool) : List Ext :=
  let cols := (List.range 64).map fun n => (t.col k n).map fun v => if mag then v.abs else v
  (cols.foldl (List.zipWith Ext.add) (List.replicate k .zero)).map fun v => ofF32 (rne v)

/-- A row's check: none where it is not checked (R129), else whether it passes (R126). -/
def rowCheck (x : List Ext) (y : List Word) (wc ac : List Ext) : Option Bool :=
  let c := ofF32 (passValue x wc)
  let a := ofF32 (passValue (x.map Ext.abs) ac)
  if !(c.isFin && a.isFin && y.all fun v => (ofF32 v).isFin) then none
  else
    let d := ((ofF32 (rne (Ext.sum (y.map ofF32)))).add c.negate).abs
    some (!(a.scale (-16)).lt d)

/-- A list of exact values, zeros where none is stored. -/
def padExt (k : Nat) (l : List Ext) : List Ext := l.take k ++ List.replicate (k - l.length) .zero

/-- The 65 values that a row of ones gives: of the 64 columns and of wc (R127). -/
def Tile.sealRow (t : Tile) (k : Nat) : List Word :=
  let ones := List.replicate k (Ext.fin false 1 0)
  (List.range 64).map (fun n => passValue ones (t.col k n)) ++ [passValue ones (padExt k t.wc)]

/-- A tile as the load path writes it, with its checksum columns and seal values (R126, R127). -/
def Tile.load (fmt : Nat) (cols : List (List Ext)) : Tile :=
  let t : Tile := { fmt, cols }
  let k := tileK fmt
  let t := { t with wc := t.sums k false, ac := t.sums k true }
  { t with sealVals := t.sealRow k }

/-- The stored seal values, +0 for a tile that nothing has loaded. -/
def Tile.sealed (t : Tile) : List Word := t.sealVals ++ List.replicate (65 - t.sealVals.length) 0

/-- The bytes of an accumulator row after a pass wrote or added y to what the row holds (R122, R132, R133). -/
def accRowBytes (old : List Byte) (mode : Nat) (y : List Word) : List Byte :=
  if mode = 2 then
    f32Bytes (y.zipIdx.flatMap fun p =>
      let r := toPair ((pairVal (f32At old (8 * p.2)) (f32At old (8 * p.2 + 4))).add (ofF32 p.1))
      [r.1, r.2])
  else if mode = 1 then f32Bytes (y.zipIdx.map fun p => rne ((ofF32 (f32At old (4 * p.2))).add (ofF32 p.1)))
  else f32Bytes y

/-- Byte offset and size of accumulator row m of a pass (R122). -/
def accRowAt (w : OpWord) (m : Nat) : Nat × Nat :=
  if wBits w 22 21 = 2 then (64 * wBits w 39 27 + 512 * m, 512) else (64 * wBits w 39 27 + 256 * m, 256)

/-- ac per row slot: 2 in class 16 (Table 4-6). -/
def rowAc (fmt : Nat) : Nat := if fmt = 2 ∨ fmt = 3 then 2 else 1

/-- Swap the weight buffers (R119). -/
def Cluster.swap (x : Cluster) : Cluster := { x with fg := x.bg, bg := x.fg }

/-- The pass takes row m in: its 64 sums and the outcome of its check (R121, R126, R129). -/
def passRow (t : Tile) (m : Nat) (row : List Ext) : Nat × List Word × Option Bool :=
  let k := row.length
  let y := (List.range 64).map fun n => passValue row (t.col k n)
  (m, y, rowCheck row y (padExt k t.wc) (padExt k t.ac))

/-- The seal row, in the slot after row M - 1, and whether its 65 values are those stored (R127). -/
def sealCheck (t : Tile) (m : Nat) : Nat × List Word × Option Bool :=
  let v := t.sealRow (tileK t.fmt)
  (m, v, some (v == t.sealed))

/-- Item i of what a word has read. -/
def itemAt {α : Type} (i : Nat) (l : List (Nat × α)) : Option α := (l.find? fun p => p.1 = i).map (·.2)

/-! ## WLD and WLDT (R118, R120, R124, R522) -/

/-- Stored length of an element row of a tile, and how many it has. -/
def tileRows (fmt : Nat) : Nat × Nat :=
  if fmt = 9 then (96, 128) else (64 * (elemFmt fmt).width / 8, tileK fmt)

/-- Scale rows of a tile. -/
def tileScales (fmt : Nat) : Nat := if isMx fmt then tileK fmt / 32 else 0

/-- Bytes of a stored tile (Table 4-7). -/
def tileBytes (fmt : Nat) : Nat := (tileRows fmt).1 * (tileRows fmt).2 + 64 * tileScales fmt

/-- Scratchpad byte of position p of the stored tile, from the row pitch in bytes. -/
def tileByte (fmt pitch p : Nat) : Nat :=
  let r := tileRows fmt
  if p < r.1 * r.2 then pitch * (p / r.1) + p % r.1
  else pitch * (r.2 + (p - r.1 * r.2) / 64) + (p - r.1 * r.2) % 64

/-- SRC (or SPA) and PITCH of a word, in bytes. -/
def wSrc (w : OpWord) : Nat := 32 * wBits w 79 63
def wPitch (w : OpWord) : Nat := 32 * wBits w 62 54

/-- One scratchpad byte. -/
def spadB (s : State) (c off : Nat) : Byte := if off < spadSize then readB s (spadBase c + off) else 0

/-- What a WLD reads in ac k: the next 1,024 bytes of the stored tile. -/
def wldRead (s : State) (f : Flight) (k : Nat) : Flight :=
  let fmt := wBits f.w 53 50
  let n := min 1024 (tileBytes fmt - 1024 * k)
  { f with bytes := f.bytes ++ (List.range n).map fun i => spadB s f.c (wSrc f.w + tileByte fmt (wPitch f.w) (1024 * k + i)) }

/-- The tile of a WLD's bytes, with KROWS and COLS applied (R118). -/
def wldTile (f : Flight) : Tile :=
  let fmt := wBits f.w 53 50
  let r := tileRows fmt
  let rows := (List.range r.2).map fun i => (f.bytes.drop (r.1 * i)).take r.1
  let scales := (List.range (tileScales fmt)).map fun i => (f.bytes.drop (r.1 * r.2 + 64 * i)).take 64
  let krows := min (wBits f.w 49 41 + 1) (tileK fmt)
  Tile.load fmt ((List.range (wBits f.w 40 35 + 1)).map fun n => tileCol rows scales fmt krows n)

/-- A word's cluster with its background tile replaced. -/
def State.setBg (s : State) (c : Nat) (t : Tile) : State := s.setCluster c { s.cluster c with bg := t }

/-- A word's cluster with its transposing buffer filled. -/
def State.setTb (s : State) (c : Nat) (rows : List (List (List Byte))) : State :=
  s.setCluster c { s.cluster c with tb := rows }

/-- A WLD writes the background buffer in its last ac. -/
def wldWrite (s : State) (f : Flight) (k : Nat) : State :=
  if k + 1 = wDur f.w then s.setBg f.c (wldTile f) else s

/-- Bytes of an element in the formats of the transposing buffer (R115). -/
def tbBytes (fmt : Nat) : Nat := (elemFmt fmt).width / 8

/-- An element of the transposing buffer. -/
def tbElem (fmt : Nat) (bs : List Byte) : Ext := decodeN (elemFmt fmt) (leNat bs)

/-- Consecutive elements of eb bytes of a row. -/
def splitElems (eb n : Nat) (bs : List Byte) : List (List Byte) := (List.range n).map fun j => (bs.drop (eb * j)).take eb

/-- What a WLDT reads in ac k < 64: source row k. -/
def wldtRead (s : State) (f : Flight) (k : Nat) : Flight :=
  { f with lines := f.lines ++ [(k, spadR s f.c (wSrc f.w + wPitch f.w * k) (128 * tbBytes (wBits f.w 53 50)))] }

/-- The rows of a WLDT, element by element. -/
def wldtRows (f : Flight) : List (List (List Byte)) :=
  f.lines.map fun l => splitElems (tbBytes (wBits f.w 53 50)) 128 l.2

/-- W[k, n] = source[n, k], with KROWS and COLS applied (R118, R124). -/
def wldtTile (f : Flight) : Tile :=
  let fmt := wBits f.w 53 50
  let rows := wldtRows f
  Tile.load fmt ((List.range (wBits f.w 40 35 + 1)).map fun n =>
    (List.range (min (wBits f.w 49 41 + 1) 128)).map fun k => tbElem fmt ((rows.getD n []).getD k []))

/-- A WLDT holds its rows in the transposing buffer from ac 63, and writes the tile in its last ac. -/
def wldtWrite (s : State) (f : Flight) (k : Nat) : State :=
  if k = 63 then s.setTb f.c (wldtRows f)
  else if k + 1 = wDur f.w then s.setBg f.c (wldtTile f)
  else s

/-! ## MM and MMT (R113, R117, R119, R121, R122, R125 to R129, R522) -/

/-- M of a pass, ac per row slot, and the ac of row 0's entry and of its accumulator write. -/
def passM (w : OpWord) : Nat := wBits w 53 44 + 1
def passR (w : OpWord) : Nat := rowAc (wBits w 26 23)
def passEntry (w : OpWord) : Nat := if wOp w = 0x13 then 128 else 0
def passBase (w : OpWord) : Nat := if wOp w = 0x13 then 328 else 200

/-- A pass with SWAP makes the background tile the foreground at its first row slot (R119). -/
def passBegin (s : State) (f : Flight) (k : Nat) : State :=
  if wSwap f.w ∧ k = passEntry f.w then s.setCluster f.c (s.cluster f.c).swap else s

/-- The activation row m of an MM (R117). -/
def mmRow (s : State) (f : Flight) (m : Nat) : List Ext :=
  let fmt := wBits f.w 26 23
  let n := tileK (s.cluster f.c).fg.fmt
  let row := spadR s f.c (wSrc f.w + wPitch f.w * m) (rowBytes fmt n)
  (List.range n).map fun j => rowElem row fmt n j

/-- What an MM reads in ac k: row m in ac m r, and the seal row in the slot after the last. -/
def mmRead (s : State) (f : Flight) (k : Nat) : Flight :=
  let t := (s.cluster f.c).fg
  let m := k / passR f.w
  if k % passR f.w ≠ 0 then f
  else if m < f.cnt then { f with rows := f.rows ++ [passRow t m (mmRow s f m)] }
  else if m = passM f.w then { f with rows := f.rows ++ [sealCheck t m] }
  else f

/-- The mask computes row m (Table 7-3); an empty descriptor selects every row. -/
def maskRow (mask : List Byte) (m : Nat) : Bool :=
  if mask.isEmpty then true
  else if getLE mask 2 1 = 1 then bitAt (getLE mask 4 2) (m / 64)
  else bitAt (getLE mask (64 + m / 8) 1) (m % 8)

/-- 128-row blocks of an MMT. -/
def mmtBlocks (w : OpWord) : Nat := ceilDiv (passM w) 128

/-- The source row that an MMT reads in ac k, as block and row; none where it reads none. -/
def mmtFill (w : OpWord) (k : Nat) : Option (Nat × Nat) :=
  let b := k / (128 * passR w)
  let i := k % (128 * passR w)
  if b < mmtBlocks w ∧ i < 128 then some (b, i) else none

/-- Source row i of block b: 128 elements; a masked row's column is left unread (R125, R173). -/
def mmtSource (s : State) (f : Flight) (b i : Nat) : List Byte :=
  let eb := tbBytes (wBits f.w 26 23)
  spadR s f.c (wSrc f.w + b * 128 * eb + wPitch f.w * i) (128 * eb)

/-- Rows of block b in the transposing buffer, with the columns of masked rows left out. -/
def mmtTb (f : Flight) (b : Nat) : List (List (List Byte)) :=
  (f.lines.filter fun l => l.1 / 128 = b).map fun l =>
    (splitElems (tbBytes (wBits f.w 26 23)) 128 l.2).zipIdx.map fun e =>
      if maskRow f.desc (128 * b + e.2) then e.1 else []

/-- Array row m of an MMT: column m of its block over the 128 source rows (R125). -/
def mmtRow (f : Flight) (m : Nat) : List Ext :=
  let fmt := wBits f.w 26 23
  let eb := tbBytes fmt
  (f.lines.filter fun l => l.1 / 128 = m / 128).map fun l => tbElem fmt ((l.2.drop (eb * (m % 128))).take eb)

/-- What an MMT reads in ac k: a source row into the buffer, which holds two blocks, and array row m in ac 128 + m r
where its mask computes it, with the seal row after the last. -/
def mmtRead (s : State) (f : Flight) (k : Nat) : Flight :=
  let t := (s.cluster f.c).fg
  let j := k - 128
  let m := j / passR f.w
  let g := if k < 128 ∨ j % passR f.w ≠ 0 then f
    else if m < f.cnt then
      if maskRow f.desc m then { f with rows := f.rows ++ [passRow t m (mmtRow f m)] } else f
    else if m = passM f.w then { f with rows := f.rows ++ [sealCheck t m] }
    else f
  match mmtFill f.w k with
  | some (b, i) => { g with lines := (g.lines.filter fun l => b ≤ l.1 / 128 + 1) ++ [(128 * b + i, mmtSource s f b i)] }
  | none => g

/-- The transposing buffer holds a block of an MMT once its last source row has been read. -/
def mmtFilled (s : State) (f : Flight) (k : Nat) : State :=
  match mmtFill f.w k with
  | some (b, 127) => s.setTb f.c (mmtTb f b)
  | _ => s

/-- A row of a pass is evaluated and written in ac base + m r: its check, then the accumulator row, formed from what the row
held at the start of the ac, old (R122, R126, R128, R129, R136). -/
def writeRow (old s : State) (f : Flight) (m : Nat) (y : List Word) (ok : Option Bool) : State :=
  let a := accRowAt f.w m
  let s := match ok with
    | none => s.updRun f.at_.pt fun r => { r with unchecked := r.unchecked + 1 }
    | some true => s
    | some false => s.wordFault f 0x0201 0 (f.t + passBase f.w + m * passR f.w) m (clusterSuspect s f.c)
  if wBits f.w 22 21 = 3 then s else accW s f.c a.1 (accRowBytes (accR old f.c a.1 a.2) (wBits f.w 22 21) y)

/-- What a pass writes in ac k through XA; in its last ac the seal is evaluated (R127, R128). -/
def passWrite (old s : State) (f : Flight) (k : Nat) : State :=
  let j := k - passBase f.w
  if k + 1 = wDur f.w then
    match itemAt (passM f.w) f.rows with
    | some (_, some false) => s.wordFault f 0x0201 0 (f.t + k) 0xFFFFFFFF (clusterSuspect s f.c)
    | _ => s
  else if k < passBase f.w ∨ j % passR f.w ≠ 0 then s
  else
    match itemAt (j / passR f.w) f.rows with
    | some (y, ok) => writeRow old s f (j / passR f.w) y ok
    | none => s

end Sys2Proof.Machine
end

