-- ==== Sys2Proof/Machine/Vector.lean ====
section
/-!
DEFINITION. The vector engine (05, 06, 12): vector streams and operands, the stages of Table 5-5, reductions, conversions
with scales, stochastic rounding and the census, RB16 and RB1 with their error memory and thinning.
-/

namespace Sys2Proof.Machine

/-! ## Scales from the estimator (R165, R338) -/

/-- The largest entry of a history; entries are never negative. -/
def histMax (h : List Word) : Word := h.foldl (fun a x => if a.toNat < x.toNat then x else a) 0

/-- Clamp to a range, and whether it acted. -/
def clampTo (lo hi v : Int) : Int × Bool := if v < lo then (lo, true) else if hi < v then (hi, true) else (v, false)

/-- e_t for a target format (R165), and whether it was clamped. -/
def scaleExp (h : List Word) (fmt : Nat) : Int × Bool :=
  let a := histMax h
  if a = 0 then (0, false)
  else clampTo (-126) 126 ((if fmt = 0 then 8 else 15) - 2 - ceilLog (ofF32 a))

/-- B_t (R338), and whether it was clamped. -/
def blockExp (h : List Word) (initB : Nat) : Nat × Bool :=
  let a := histMax h
  if a = 0 then (initB, false)
  else
    let c := clampTo 1 254 (ceilLog (ofF32 a) + 133)
    (c.1.toNat, c.2)

/-- A tensor's history in a step. -/
def StepRun.history (r : StepRun) (t : Nat) : List Word := mget [] r.hist t

/-- B_t of a step, from the histories and INIT_B as they stood in its step gap. -/
def stepB (r : StepRun) (t : Nat) : Nat := (blockExp (r.history t) r.initB).1

/-! ## Blocks of RB16 and RB1 (R317 to R321) -/

/-- A block of 32 integer mantissas with its header. -/
structure RBlock where
  b : Nat
  empty : Bool
  ovf : Bool
  unchecked : Bool
  sat : Bool
  nonfin : Bool
  residue : Nat
  seq : Nat
  m : List Int
deriving DecidableEq, Repr

/-- FLAGS of Table 12-1. -/
def RBlock.flags (k : RBlock) : Nat :=
  b2n k.empty + 2 * b2n k.ovf + 4 * b2n k.unchecked + 8 * b2n k.sat + 16 * b2n k.nonfin

/-- RESIDUE of mantissas. -/
def residueOf (m : List Int) : Nat := ((m.foldl (· + ·) 0) % 65535).toNat

/-- The empty-block marker (R317). -/
def RBlock.marker : RBlock := ⟨0, true, false, false, false, false, 0, 0, List.replicate 32 0⟩

/-- The block of a contribution with an input that is not finite (R319, R321). -/
def RBlock.bad (b : Nat) : RBlock := ⟨b, false, true, false, false, true, 0, 0, List.replicate 32 0⟩

def rbHeader (k : RBlock) : List Byte := toLE 1 k.b ++ toLE 1 k.flags ++ toLE 2 k.residue ++ toLE 4 k.seq

/-- 72 bytes of an RB16 block. -/
def RBlock.bytes16 (k : RBlock) : List Byte := rbHeader k ++ k.m.flatMap fun v => toLE 2 (BitVec.ofInt 16 v).toNat

/-- 16 bytes of an RB1 block of magnitude K and sign bits (R320). -/
def rb1Bytes (k : RBlock) (neg : List Bool) (mag : Nat) : List Byte :=
  rbHeader k ++ toLE 4 ((neg.zipIdx.map fun p => b2n p.1 * 2 ^ p.2).sum) ++ toLE 2 mag ++ zeros 2

/-- Flags and header of stored block bytes. -/
def rbHead (bs : List Byte) (m : List Int) : RBlock :=
  let f := getLE bs 1 1
  ⟨getLE bs 0 1, bitAt f 0, bitAt f 1, bitAt f 2, bitAt f 3, bitAt f 4, getLE bs 2 2, getLE bs 4 4, m⟩

/-- A stored RB16 block. -/
def rb16Of (bs : List Byte) : RBlock :=
  rbHead bs ((List.range 32).map fun i => (BitVec.ofNat 16 (getLE bs (8 + 2 * i) 2)).toInt)

/-- A stored RB1 block as the block of its mantissas (R320, R329). -/
def rb1Of (bs : List Byte) : RBlock :=
  let k : Int := (getLE bs 12 2 % 4096 : Nat)
  rbHead bs ((List.range 32).map fun i => if bitAt (getLE bs 8 4) i then -k else k)

/-- The decoded value of element i (R318). -/
def RBlock.elem (k : RBlock) (i : Nat) : Ext :=
  if k.empty then .zero
  else if k.nonfin then .nan
  else
    let m := k.m.getD i 0
    .fin (decide (m < 0)) m.natAbs ((k.b : Int) - 142)

/-! ## Chain descriptors (R138, Tables 5-2, 5-4) -/

def dS (d : List Byte) : Nat := getLE d 1 1
def dSrcKind (d : List Byte) : Nat := getLE d 2 1
def dSrcFmt (d : List Byte) : Nat := getLE d 3 1
def dSrcAddr (d : List Byte) : Nat := getLE d 4 4
def dFuse (d : List Byte) : Nat := getLE d 8 1
def dFuseFmt (d : List Byte) : Nat := getLE d 9 1
def dFuseAddr (d : List Byte) : Nat := getLE d 12 4
def dDstKind (d : List Byte) : Nat := getLE d 16 1
def dDstFmt (d : List Byte) : Nat := getLE d 17 1
def dTensor (d : List Byte) : Nat := getLE d 18 2
def dDstAddr (d : List Byte) : Nat := getLE d 20 4
def dRow (d : List Byte) : Nat := getLE d 24 4
def dConst (d : List Byte) (i : Nat) : Word := f32At d (32 + 4 * i)

/-- A stage word. -/
structure VStage where
  op : Nat
  kind : Nat
  cidx : Nat
  fmt : Nat
  addr : Nat
  rnd : Nat
deriving DecidableEq, Repr

def dStage (d : List Byte) (i : Nat) : VStage :=
  let w := getLE d (64 + 8 * i) 8
  { op := field w 56 8, kind := field w 53 3, cidx := field w 50 3, fmt := field w 46 4, addr := field w 29 17,
    rnd := field w 27 2 }

def dStages (d : List Byte) : List VStage := (List.range (min (dS d) 8)).map (dStage d)

/-- The chain ends in a CVT stage. -/
def dCvt (d : List Byte) : Option VStage :=
  match (dStages d).getLast? with
  | some g => if g.op = 0x30 then some g else none
  | none => none

/-! ## Reading streams (R117, R130, R139, R154) -/

/-- Element i of a scratchpad stream at a byte address whose rows hold `row` elements, exactly. -/
def spadElem (s : State) (c fmt base row i : Nat) : Ext :=
  if fmt = 0xA then ofF32 (f32At (spadR s c (base + 4 * i) 4) 0)
  else if fmt = 0xB then
    pairVal (f32At (spadR s c (base + 4 * i) 4) 0) (f32At (spadR s c (base + 262144 + 4 * i) 4) 0)
  else if fmt = 0xC then (rb16Of (spadR s c (base + 72 * (i / 32)) 72)).elem (i % 32)
  else if isMx fmt then
    ofF32 (rne (rowElem (spadR s c (base + i / row * rowBytes fmt row) (rowBytes fmt row)) fmt row (i % row)))
  else
    let f := elemFmt fmt
    decodeN f (getLE (spadR s c (base + i * (f.width / 8)) (f.width / 8)) 0 (f.width / 8))

/-- Element i of an accumulator stream, exactly (R130). -/
def accElem (s : State) (c fmt line i : Nat) : Ext :=
  if fmt = 0xB then
    let b := accR s c (64 * line + 8 * i) 8
    pairVal (f32At b 0) (f32At b 4)
  else ofF32 (f32At (accR s c (64 * line + 4 * i) 4) 0)

/-- The operand y of a stage for element i (Table 5-4). -/
def stageOperand (s : State) (c : Nat) (d : List Byte) (e : Nat) (g : VStage) (i : Nat) : Ext :=
  let row := max (dRow d) 1
  match g.kind with
  | 1 => ofF32 (dConst d g.cidx)
  | 2 => ofF32 (rne (spadElem s c g.fmt (32 * g.addr) row (i % row)))
  | 3 => ofF32 (rne (spadElem s c g.fmt (32 * g.addr) (max (e / row) 1) (i / row)))
  | 4 => ofF32 (rne (spadElem s c g.fmt (32 * g.addr) row i))
  | _ => .zero

/-! ## Stages (R140, Table 5-5) -/

/-- An operation of Table 5-5 other than reductions and CVT. -/
def stageOp (op : Nat) (w : Word) (y : Ext) : Word :=
  let x := ofF32 w
  if op = 0x20 ∨ op = 0x21 ∨ op = 0x22 ∨ op = 0x23 ∨ op = 0x30 then w
  else if x.isNan || y.isNan then nanF32
  else match op with
    | 0x01 => rne (x.add y)
    | 0x02 => rne (x.add y.negate)
    | 0x03 => rne (x.mul y)
    | 0x04 => rne (x.max y)
    | 0x05 => rne (x.min y)
    | 0x06 => rne x.abs
    | 0x07 => rne x.negate
    | 0x08 => rne ((x.max y.abs.negate).min y.abs)
    | 0x09 => rne (x.max .zero)
    | 0x10 => fRcp x
    | 0x11 => fRsqrt x
    | 0x12 => fSqrt x
    | 0x13 => fExp x
    | 0x14 => fLog x
    | 0x15 => fSigmoid x
    | 0x16 => fSilu x
    | 0x17 => fGelu x
    | 0x18 => fTanh x
    | _ => w

/-- A reduction stage; NaN passes it as 7FC0_0000h like every other stage (R140). -/
def isReduction (op : Nat) : Bool := decide (0x20 ≤ op) && decide (op ≤ 0x23)

/-- The value of a reduction over a row's elements; both infinities in one row give NaN in every reduction (R141). -/
def reduceRow (op : Nat) (xs : List Ext) : Word :=
  if xs.contains (.inf true) && xs.contains (.inf false) then nanF32
  else match op with
  | 0x20 => let v := Ext.sum xs
            if v.isZero then 0 else rne v
  | 0x21 => let v := Ext.sum (xs.map fun x => x.mul x)
            if v.isZero then 0 else rne v
  | 0x22 => match xs with
            | [] => 0
            | x :: r => rne (r.foldl Ext.max x)
  | _ => rne ((xs.map Ext.abs).foldl Ext.max .zero)

/-- The value of an element after each stage; the first is what enters stage 0. -/
def stageTrace (s : State) (c : Nat) (d : List Byte) (e i : Nat) : List VStage → Word → List Word
  | [], x => [x]
  | g :: gs, x => x :: stageTrace s c d e i gs (stageOp g.op x (stageOperand s c d e g i))

/-- An element of the source, after egress fusion, exactly (R143, R146). -/
def chainSource (s : State) (c : Nat) (d : List Byte) (i : Nat) : Ext :=
  let row := max (dRow d) 1
  let a := match dSrcKind d with
    | 0 => spadElem s c (dSrcFmt d) (32 * dSrcAddr d) row i
    | 1 => accElem s c (dSrcFmt d) (dSrcAddr d) i
    | _ => ofF32 (dConst d 0)
  let b := spadElem s c (dFuseFmt d) (32 * dFuseAddr d) row i
  if dSrcKind d ≠ 1 then a
  else match dFuse d with
    | 1 => a.add b
    | 2 => a.mul b
    | _ => a

/-- The raw words of a source element in FP32 or PAIR form (R147). -/
def rawSource (s : State) (c : Nat) (d : List Byte) (i : Nat) : List Word :=
  let pair := decide (dSrcFmt d = 0xB)
  if dSrcKind d = 1 then
    if pair then
      let b := accR s c (64 * dSrcAddr d + 8 * i) 8
      [f32At b 0, f32At b 4]
    else [f32At (accR s c (64 * dSrcAddr d + 4 * i) 4) 0]
  else if dSrcKind d = 0 then
    let base := 32 * dSrcAddr d
    if pair then [f32At (spadR s c (base + 4 * i) 4) 0, f32At (spadR s c (base + 262144 + 4 * i) 4) 0]
    else [f32At (spadR s c (base + 4 * i) 4) 0]
  else [dConst d 0]

def readElem (s : State) (c : Nat) (d : List Byte) (e i : Nat) : ElemRead :=
  let v := chainSource s c d i
  { i, exact := v, raw := rawSource s c d i, trace := stageTrace s c d e i (dStages d) (rne v) }

/-! ## Writing outputs -/

/-- FP32 words of element i at the destination: one, or the two of a pair (R130, R139). -/
def writeWords (s : State) (c : Nat) (d : List Byte) (i : Nat) (l : List Word) : State :=
  match l with
  | [x] =>
    if dDstKind d = 1 then accW s c (64 * dDstAddr d + 4 * i) (f32Bytes [x])
    else spadW s c (32 * dDstAddr d + 4 * i) (f32Bytes [x])
  | [h, l] =>
    if dDstKind d = 1 then accW s c (64 * dDstAddr d + 8 * i) (f32Bytes [h, l])
    else spadW (spadW s c (32 * dDstAddr d + 4 * i) (f32Bytes [h])) c (32 * dDstAddr d + 262144 + 4 * i) (f32Bytes [l])
  | _ => s

/-- Write w bits at a bit offset of a scratchpad byte address. -/
def writeBits (s : State) (c base bit w code : Nat) : State :=
  let off := base + bit / 8
  let n := (bit % 8 + w + 7) / 8
  let old := getLE (spadR s c off n) 0 n
  let sh := bit % 8
  let v := old - atBits (field old sh w) sh w + atBits code sh w
  spadW s c off (toLE n v)

/-! ## Census (R164, R167, R323) -/

/-- Count conversions of one tensor. -/
def TensorNum.count (x : TensorNum) (fmt : Nat) (amax : Word) (z k n : Nat) : TensorNum :=
  { fmt, amax := if x.amax.toNat < amax.toNat then amax else x.amax,
    zeros := min (x.zeros + z) 0xFFFFFFFF, sats := min (x.sats + k) 0xFFFFFFFF,
    nonfinite := min (x.nonfinite + n) 0xFFFFFFFF }

/-- The largest magnitude of finite inputs. -/
def amaxOf (xs : List Ext) : Word := rne (((xs.filter Ext.isFin).map Ext.abs).foldl Ext.max .zero)

/-- Inputs that are NaN or infinite. -/
def nonfiniteOf (xs : List Ext) : Nat := (xs.filter fun x => !x.isFin).length

def StepRun.census1 (r : StepRun) (t fmt : Nat) (amax : Word) (z k n : Nat) : StepRun :=
  { r with tensors := mput {} r.tensors t ((mget {} r.tensors t : TensorNum).count fmt amax z k n) }

/-- The local lane accumulator takes in a contribution (R336). -/
def StepRun.laneCvt (r : StepRun) (t : Nat) (amax : Word) (sat nonfin : Bool) : StepRun :=
  { r with cmax := mput 0 r.cmax t (if (mget 0 r.cmax t).toNat < amax.toNat then amax else mget 0 r.cmax t),
           lflags := mput 0 r.lflags t (Nat.lor (mget 0 r.lflags t) (b2n sat + 4 * b2n nonfin)) }

/-! ## Conversions -/

/-- The rounding of a CVT for element i: round to nearest even, or the lane's bits in the stage's last ac (R142, R144,
R157). -/
def cvtRnd (s : State) (f : Flight) (g : VStage) (i : Nat) : Rnd :=
  if g.rnd = 1 then
    .stoch (genBits (s.cluster f.c).seed (256 * f.at_.cl + i % 256) (f.t + i / 256 + 7 + 4 * dS f.desc))
  else .near

/-- The element is zero in its narrow code. -/
def zeroCode (fmt code : Nat) : Bool := code % 2 ^ ((elemFmt fmt).width - 1) == 0

/-- Conversion to E4M3, E5M2, BF16 and FP16 (R156, R157). -/
def cvtPlain (s : State) (f : Flight) (g : VStage) (l : List (Nat × Word)) : State :=
  let fmt := g.fmt
  let n := elemFmt fmt
  let t := dTensor f.desc
  let k : Int := if fmt = 2 then 0 else (scaleExp ((flightRun s f).history t) fmt).1
  let cs := l.map fun p => (p.1, encodeN n (cvtRnd s f g p.1) ((ofF32 p.2).scale k))
  let s := s.each cs fun s p => spadW s f.c (32 * dDstAddr f.desc + p.1 * (n.width / 8)) (toLE (n.width / 8) p.2.1)
  let xs := l.map fun p => ofF32 p.2
  s.updRun f.at_.pt fun r => r.census1 t fmt (amaxOf xs) (cs.filter fun p => zeroCode fmt p.2.1).length
    (cs.filter fun p => p.2.2).length (nonfiniteOf xs)

/-- Conversion of one MX block (R159). -/
def cvtMxBlock (s : State) (f : Flight) (g : VStage) (l : List (Nat × Word)) : State :=
  match l with
  | [] => s
  | p :: _ =>
    let fmt := g.fmt
    let w := (elemFmt fmt).width
    let row := max (dRow f.desc) 1
    let r := encodeMx fmt (l.map fun q => (ofF32 q.2, cvtRnd s f g q.1))
    let base := 32 * dDstAddr f.desc + p.1 / row * rowBytes fmt row
    let s := s.each (l.zip r.2.1) fun s q => writeBits s f.c base (w * (q.1.1 % row)) w q.2
    let s := spadW s f.c (base + row * w / 8 + p.1 % row / 32) (toLE 1 r.1)
    let xs := l.map fun q => ofF32 q.2
    s.updRun f.at_.pt fun y => y.census1 (dTensor f.desc) fmt (amaxOf xs)
      (if r.1 = 0xFF then 0 else (r.2.1.filter (zeroCode fmt)).length) r.2.2 (nonfiniteOf xs)

/-- The step is a send step of the tensor (R322). -/
def sendStep (s : State) (pt t : Nat) : Bool :=
  let th : Thin := mget {} (s.redPt pt).thin t
  decide (((s.part pt).commits.toNat + 1) % (th.nm1 + 1) = th.phase)

/-- The tensor is thinned. -/
def thinned (s : State) (pt t : Nat) : Bool := decide ((mget {} (s.redPt pt).thin t : Thin).nm1 ≠ 0)

/-- Write FP32 words to the fused tensor of a block. -/
def writeFuse (s : State) (c : Nat) (d : List Byte) (l : List (Nat × Word)) : State :=
  s.each l fun s p => spadW s c (32 * dFuseAddr d + 4 * p.1) (f32Bytes [p.2])

/-- A block's 32 inputs; an element beyond a VAR count enters as +0 (DEDUCED, log entry 23). -/
def padBlock (l : List (Nat × Word)) : List Ext :=
  let xs := l.map fun p => ofF32 p.2
  xs ++ List.replicate (32 - xs.length) .zero

/-- A contribution block in RB16 (R319): the block, and the elements clamped. -/
def rb16Block (b : Nat) (xs : List (Ext × Rnd)) : RBlock × Nat :=
  let ms := xs.map fun v => match v.1 with
    | .fin n m e =>
      let k := roundInt v.2 m 1 (e + 142 - (b : Int))
      (n, min k 2047, decide (2047 < k))
    | _ => (false, 0, false)
  let m : List Int := ms.map fun v => if v.1 then -((v.2.1 : Nat) : Int) else ((v.2.1 : Nat) : Int)
  let sat := (ms.filter fun v => v.2.2).length
  (⟨b, false, false, false, decide (0 < sat), false, residueOf m, 0, m⟩, sat)

/-- Write block j of the chain's output. -/
def writeRb (s : State) (c : Nat) (d : List Byte) (j : Nat) (bs : List Byte) : State :=
  spadW s c (32 * dDstAddr d + (if dDstFmt d = 0xC then 72 else 16) * j) bs

/-- The marker in the chain's output format, and its counting (R206, R323). -/
def emptyBlock (s : State) (f : Flight) (j : Nat) : State :=
  let s := writeRb s f.c f.desc j (rbHeader .marker ++ zeros (if dDstFmt f.desc = 0xC then 64 else 8))
  s.updRun f.at_.pt fun r => { r with emptyBlocks := min (r.emptyBlocks + 1) 0xFFFFFFFF }

/-- Count a block's conversion: amax_t goes into the census record and into CMAX_t (R164, R336). -/
def cenRb (s : State) (f : Flight) (g : VStage) (real : List Ext) (z k : Nat) (sat nonfin : Bool) : State :=
  s.updRun f.at_.pt fun r =>
    (r.census1 (dTensor f.desc) g.fmt (amaxOf real) z k (nonfiniteOf real)).laneCvt (dTensor f.desc) (amaxOf real) sat nonfin

/-- A block on a step that is no send step of its tensor: a marker, the fused values that entered stage 0 back to FUSE_ADDR,
and amax_t, which no counter of the census joins (R322, R323, R336). -/
def holdBlock (s : State) (f : Flight) (g : VStage) (fused l : List (Nat × Word)) (j : Nat) : State :=
  let s := writeFuse (emptyBlock s f j) f.c f.desc fused
  let xs := l.map fun q => ofF32 q.2
  s.updRun f.at_.pt fun r => (r.census1 (dTensor f.desc) g.fmt (amaxOf xs) 0 0 0).laneCvt (dTensor f.desc) (amaxOf xs) false false

/-- Conversion of one block to RB16 or RB1, with error memory and thinning (R319, R321 to R323). A thinned tensor whose
descriptor has no fused tensor uses its FUSE_ADDR all the same: R322 says that it must have one and names no consequence
(DESIGN CHOICE, log entry 23). -/
def cvtRbBlock (s : State) (f : Flight) (g : VStage) (fused l : List (Nat × Word)) : State :=
  match l with
  | [] => s
  | p :: _ =>
    let t := dTensor f.desc
    let pt := f.at_.pt
    let j := p.1 / 32
    let rb1 := decide (g.fmt = 0xD)
    let xs := padBlock l
    let real := l.map fun q => ofF32 q.2
    let b := stepB (flightRun s f) t
    let zero := l.map fun q => (q.1, (0 : Word))
    if thinned s pt t && !sendStep s pt t then holdBlock s f g fused l j
    else if xs.all Ext.isZero then
      let s := cenRb (emptyBlock s f j) f g real real.length 0 false false
      if rb1 || thinned s pt t then writeFuse s f.c f.desc zero else s
    else if xs.any fun v => !v.isFin then
      let k := RBlock.bad b
      let s := writeRb s f.c f.desc j (if rb1 then rb1Bytes k [] 0 else k.bytes16)
      let s := cenRb s f g real real.length 0 false true
      if rb1 || thinned s pt t then writeFuse s f.c f.desc zero else s
    else if rb1 then
      let mag := match Ext.sum (xs.map Ext.abs) with
        | .fin _ m e => roundInt (cvtRnd s f g p.1) m 1 (e - 5 + 142 - (b : Int))
        | _ => 0
      let k := min mag 2047
      let neg := xs.map Ext.neg?
      let m : List Int := neg.map fun n => if n then -((k : Nat) : Int) else ((k : Nat) : Int)
      let sat := decide (2047 < mag)
      let s := writeRb s f.c f.desc j (rb1Bytes ⟨b, false, false, false, sat, false, residueOf m, 0, m⟩ neg k)
      let s := writeFuse s f.c f.desc (l.map fun q =>
        (q.1, rne ((ofF32 q.2).add (.fin (!(ofF32 q.2).neg?) k ((b : Int) - 142)))))
      cenRb s f g real (if k = 0 then real.length else 0) (if sat then real.length else 0) sat false
    else
      let r := rb16Block b (xs.zipIdx.map fun v => (v.1, cvtRnd s f g (32 * j + v.2)))
      let s := writeRb s f.c f.desc j r.1.bytes16
      let s := cenRb s f g real ((r.1.m.take real.length).filter (· == 0)).length r.2 r.1.sat false
      if thinned s pt t then writeFuse s f.c f.desc zero else s

/-- Consecutive runs of elements that share a value of i / n. -/
def chunksBy (n : Nat) : List (Nat × Word) → List (List (Nat × Word))
  | [] => []
  | p :: ps =>
    match chunksBy n ps with
    | [] => [[p]]
    | c :: cs =>
      match c with
      | [] => [p] :: cs
      | q :: qs => if p.1 / n = q.1 / n then (p :: q :: qs) :: cs else [p] :: (q :: qs) :: cs

/-- The outputs of one group's elements (R142, R143, R147, R155). A group with no element below the count converts nothing
(R113), so a CVT of count 0 makes its tensor none that the step converted (DESIGN CHOICE, log entry 23). A copy within one memory
under equal formats, S = 0 and FUSE = 0 moves its bits as they are, a PAIR too, though R147 speaks of moves between the memories
alone (DESIGN CHOICE, log entry 24). -/
def writeGroup (s : State) (f : Flight) (l : List ElemRead) : State :=
  let d := f.desc
  let last (e : ElemRead) : Word := e.trace.getLastD 0
  match dCvt d with
  | some g =>
    let vs := l.map fun e => (e.i, last e)
    let fused := l.map fun e => (e.i, e.trace.headD 0)
    if l.isEmpty then s
    else if g.fmt = 0xA then s.each l fun s e => writeWords s f.c d e.i [last e]
    else if g.fmt = 0xB then s.each l fun s e => writeWords s f.c d e.i [last e, 0]
    else if g.fmt = 0xC ∨ g.fmt = 0xD then
      s.each ((chunksBy 32 vs).zip (chunksBy 32 fused)) fun s b => cvtRbBlock s f g b.2 b.1
    else if g.fmt < 4 then cvtPlain s f g vs
    else if g.fmt < 9 then s.each (chunksBy 32 vs) fun s b => cvtMxBlock s f g b
    else s
  | none =>
    if dS d = 0 then
      if dFuse d = 0 ∧ dSrcFmt d = dDstFmt d ∧ (dSrcKind d = 2 → dDstFmt d = 0xA) then s.each l fun s e => writeWords s f.c d e.i e.raw
      else if dDstFmt d = 0xB then
        s.each l fun s e =>
          let p := toPair e.exact
          writeWords s f.c d e.i [p.1, p.2]
      else s.each l fun s e => writeWords s f.c d e.i [rne e.exact]
    else s.each l fun s e => writeWords s f.c d e.i [last e]

/-- Reduction results of rows whose last element lies in group g (R141). -/
def writeReductions (s : State) (f : Flight) (g : Nat) : State :=
  let row := max (dRow f.desc) 1
  s.each ((dStages f.desc).zipIdx.filter fun p => isReduction p.1.op) fun s p =>
    s.each ((List.range 256).filter fun i => (256 * g + i) % row = row - 1) fun s i =>
      let j := (256 * g + i) / row
      let xs := (f.elems.filter fun e => e.i / row = j).map fun e => ofF32 (e.trace.getD p.2 0)
      if xs.isEmpty then s else spadW s f.c (32 * p.1.addr + 4 * j) (f32Bytes [reduceRow p.1.op xs])

/-! ## VCHAIN (R137, R138, R144) -/

/-- E of a chain's word. -/
def chainE (w : OpWord) : Nat := wBits w 63 44 + 1

/-- Groups of a chain. -/
def chainGroups (w : OpWord) : Nat := ceilDiv (chainE w) 256

/-- What a chain reads in ac k: group k, as far as the count reaches. -/
def chainRead (s : State) (f : Flight) (k : Nat) : Flight :=
  if chainGroups f.w ≤ k then f
  else
    { f with elems := f.elems ++ (List.range 256).filterMap fun i =>
        if 256 * k + i < min (chainE f.w) f.cnt then some (readElem s f.c f.desc (chainE f.w) (256 * k + i)) else none }

/-- What a chain writes in ac k: the group read 16 + 4S ac before, and the reductions of the rows that end in it. -/
def chainWrite (s : State) (f : Flight) (k : Nat) : State :=
  let g := k - (16 + 4 * dS f.desc)
  if k < 16 + 4 * dS f.desc then s
  else writeReductions (writeGroup s f (f.elems.filter fun e => e.i / 256 = g)) f g

end Sys2Proof.Machine
end

