-- ==== Sys2Proof/Machine/Routing.lean ====
section
/-!
DEFINITION. Expert routing (08): the router with its records, count lines and statistics, row moves under a record list,
and count-register loads.
-/

namespace Sys2Proof.Machine

/-! ## Router descriptors (R188, Tables 8-1 to 8-3) -/

/-- An expert entry. -/
structure Expert where
  e : Nat
  bucket : Nat
  cr : Nat
  quota : Nat
  bound : Nat
deriving DecidableEq, Repr

def rtExpert (d : List Byte) (e : Nat) : Expert :=
  let o := 64 + 8 * e
  { e, bucket := getLE d o 1, cr := getLE d (o + 1) 1, quota := getLE d (o + 2) 2, bound := getLE d (o + 4) 2 }

/-- The enabled experts of X, ascending. -/
def rtEnabled (d : List Byte) (x : Nat) : List Expert :=
  ((List.range x).map (rtExpert d)).filter fun e => e.bucket ≠ 0xFF

/-- Offset of a bucket entry. -/
def rtBucketOff (x b : Nat) : Nat := 64 * (1 + ceilDiv x 8) + 16 * b

/-- The first place of an expert's sub-list in its bucket (R195). -/
def subList (l : List Expert) (e : Expert) : Nat :=
  ((l.filter fun f => f.bucket = e.bucket ∧ f.e < e.e).map Expert.quota).sum

/-! ## Ranking and gates (R190 to R192) -/

/-- Insert by descending logit; an equal logit goes behind. -/
def rankInsert (p : Expert × Ext) : List (Expert × Ext) → List (Expert × Ext)
  | [] => [p]
  | q :: qs => if q.2.lt p.2 then p :: q :: qs else q :: rankInsert p qs

/-- Experts ranked by logit, ties in ascending index. -/
def rankExperts (l : List (Expert × Ext)) : List (Expert × Ext) := l.foldl (fun acc p => rankInsert p acc) []

/-- rne_fp32 of a quotient of two positive finite values. -/
def divF32 (a b : Word) : Word :=
  match ofF32 a, ofF32 b with
  | .fin _ m e, .fin _ n f => if n = 0 then nanF32 else rneQuot false m n (e - f)
  | _, _ => nanF32

/-- The gate values of the choices, in rank order (R192). -/
def gateValues (mode : Nat) (ranked : List (Expert × Ext)) (k : Nat) : List Word :=
  let choices := ranked.take k
  if mode = 2 then choices.map fun p => fSigmoid p.2
  else
    let m := match ranked with
      | p :: _ => p.2
      | [] => .zero
    let ex (p : Expert × Ext) : Word := fExp (ofF32 (rne (p.2.add m.negate)))
    let spilt := if mode = 1 then ranked else choices
    let sum := rne (Ext.sum (spilt.map fun p => ofF32 (ex p)))
    choices.map fun p => divF32 (ex p) sum

/-! ## Places and dropping (R193 to R195) -/

/-- The router's running totals: demand, assigned, records (expert, place, bytes) and counters. -/
structure RouteAcc where
  demand : FMap Nat := []
  assigned : FMap Nat := []
  recs : List (Nat × Nat × List Byte) := []
  routed : Nat := 0
  dropped : Nat := 0
  allDropped : Nat := 0
  nonfinite : Nat := 0
deriving DecidableEq, Repr

/-- A dispatch record (Table 8-4). -/
def dispatchRec (gate : Word) (token e rank : Nat) : List Byte := toLE 4 gate.toNat ++ toLE 2 token ++ toLE 1 e ++ toLE 1 rank

/-- One choice (R194). -/
def RouteAcc.choice (k : RouteAcc) (t rank : Nat) (e : Expert) (g : Word) : RouteAcc :=
  let k := { k with demand := mput 0 k.demand e.e (mget 0 k.demand e.e + 1) }
  let n := mget 0 k.assigned e.e
  if n < e.quota then
    { k with recs := k.recs ++ [(e.e, n, dispatchRec g t e.e rank)], assigned := mput 0 k.assigned e.e (n + 1),
             routed := k.routed + 1 }
  else { k with dropped := k.dropped + 1 }

/-- One token (R190, R191, R194). -/
def RouteAcc.token (k : RouteAcc) (mode kk t : Nat) (l : List (Expert × Ext)) : RouteAcc :=
  if l.any fun p => !p.2.isFin then { k with nonfinite := k.nonfinite + 1 }
  else
    let ranked := rankExperts l
    let gs := gateValues mode ranked kk
    let r := ((ranked.take kk).zip gs).zipIdx.foldl
      (fun (k : RouteAcc) p => RouteAcc.choice k t p.2 p.1.1.1 p.1.2) k
    if r.dropped = k.dropped + (ranked.take kk).length ∧ !(ranked.take kk).isEmpty then
      { r with allDropped := r.allDropped + 1 }
    else r

/-- Every choice of a word. -/
def routeTokens (s : State) (c : Nat) (d : List Byte) (x kk count : Nat) : RouteAcc :=
  let es := rtEnabled d x
  let addr := 32 * getLE d 4 4
  let pitch := 32 * getLE d 8 2
  (List.range count).foldl (fun k t =>
    k.token (getLE d 1 1) kk t (es.map fun e => (e, ofF32 (f32At (spadR s c (addr + t * pitch + 4 * e.e) 4) 0)))) {}

/-- Write one expert's sub-list: its records, and fill records in the places left (R195). -/
def writeSubList (s : State) (c : Nat) (d : List Byte) (x : Nat) (es : List Expert) (k : RouteAcc) (e : Expert) :
    State :=
  let base := 32 * getLE d (rtBucketOff x e.bucket) 4 + 8 * subList es e
  s.each (List.range e.quota) fun s i =>
    spadW s c (base + 8 * i) (match k.recs.find? fun r => r.1 = e.e ∧ r.2.1 = i with
      | some r => r.2.2
      | none => dispatchRec 0 0xFFFF e.e 0)

/-- A bucket's count line (R196). -/
def writeCountLine (s : State) (c : Nat) (d : List Byte) (x : Nat) (es : List Expert) (k : RouteAcc) (b : Nat) :
    State :=
  let counts := (es.filter fun e => e.bucket = b).map fun e => toLE 4 (mget 0 k.assigned e.e)
  spadW s c (32 * getLE d (rtBucketOff x b + 4) 4) (padTo 64 counts.flatten)

/-- The experts of an entry list with a count register: a disabled one has been assigned nothing (R198). -/
def rtCounted (d : List Byte) (x : Nat) : List Expert := ((List.range x).map (rtExpert d)).filter fun e => e.cr < 16

/-- A VROUTE reads its logits and writes its records, count lines and statistics in its last ac (DESIGN CHOICE, log entry 24:
R198 says only that it does so within its window); its count registers are new from the next ac on (R188 to R199). -/
def vrouteWrite (s : State) (f : Flight) (k : Nat) : State :=
  if k + 1 ≠ wDur f.w then s
  else
    let d := f.desc
    let n := wBits f.w 51 44 + 1
    let es := rtEnabled d n
    let r := routeTokens s f.c d n (wBits f.w 43 41 + 1) f.cnt
    let s := s.each es fun s e => writeSubList s f.c d n es r e
    let s := s.each (List.range (getLE d 2 1)) fun s b => writeCountLine s f.c d n es r b
    let stats (m : FMap Nat) : List Byte := (List.range n).flatMap fun e => toLE 4 (mget 0 m e)
    let s := if bitAt (getLE d 3 1) 0 then
        spadW s f.c (32 * getLE d 12 4) (stats r.demand ++ stats r.assigned) else s
    let s := s.each (rtCounted d n) fun s e => s.setCount f.at_.pt f.c e.cr (mget 0 r.assigned e.e) e.bound
    let full := (es.filter fun e => mget 0 r.assigned e.e = e.quota).length
    s.updRun f.at_.pt fun x => { x with
      routed := x.routed + r.routed, dropped := x.dropped + r.dropped,
      tokensDropped := x.tokensDropped + r.allDropped, nonfiniteTokens := x.nonfiniteTokens + r.nonfinite,
      fullExperts := x.fullExperts + full }

/-! ## Moving rows (R199 to R202) -/

def mvMode (d : List Byte) : Nat := getLE d 1 1

/-- Row length in bytes, and ac per record. -/
def mvLen (w : OpWord) : Nat := 64 * (wBits w 51 46 + 1)
def mvAc (w : OpWord) : Nat := ceilDiv (mvLen w) 1024

/-- Record i of the list: token and gate. -/
def mvRecord (s : State) (f : Flight) (i : Nat) : Nat × Word :=
  let r := spadR s f.c (32 * getLE f.desc 4 4 + 8 * i) 8
  (getLE r 4 2, f32At r 0)

/-- Row t of the source. -/
def mvSrc (s : State) (f : Flight) (t : Nat) : List Byte :=
  spadR s f.c (32 * (getLE f.desc 8 4 + t * getLE f.desc 12 4)) (mvLen f.w)

/-- Scratchpad byte of row t of the destination. -/
def mvDst (f : Flight) (t : Nat) : Nat := 32 * (getLE f.desc 16 4 + t * getLE f.desc 20 4)

/-- The FP32 elements of a row. -/
def rowF32 (bs : List Byte) : List Word := (List.range (bs.length / 4)).map fun i => f32At bs (4 * i)

/-- The row that a GATHER or a SCALE_GATHER forms for a record. -/
def mvRow (s : State) (f : Flight) (r : Nat × Word) : List Byte :=
  if r.1 = 0xFFFF then zeros (mvLen f.w)
  else if mvMode f.desc = 0 then mvSrc s f r.1
  else f32Bytes ((rowF32 (mvSrc s f r.1)).map fun v => rne ((ofF32 r.2).mul (ofF32 v)))

/-- What a VMOVE reads in ac k: record i and its row in ac i w, or the count line (R201). -/
def vmoveRead (s : State) (f : Flight) (k : Nat) : Flight :=
  let i := k / mvAc f.w
  if k % mvAc f.w ≠ 0 ∨ f.cnt ≤ i then f
  else if mvMode f.desc = 3 then { f with lines := f.lines ++ [(i, spadR s f.c (32 * getLE f.desc 8 4) 64)] }
  else
    let r := mvRecord s f i
    if mvMode f.desc = 1 then { f with recs := f.recs ++ [(i, r.1, r.2)], lines := f.lines ++ [(i, mvSrc s f i)] }
    else { f with lines := f.lines ++ [(i, mvRow s f r)] }

/-- COMBINE adds a record's row, times its gate, into row t of the destination as it then stands (R201, R202). -/
def combineRow (s : State) (f : Flight) (t : Nat) (g : Word) (row : List Byte) : State :=
  if t = 0xFFFF then s
  else spadW s f.c (mvDst f t) (f32Bytes (List.zipWith (fun o v => rne ((ofF32 o).add ((ofF32 g).mul (ofF32 v))))
    (rowF32 (spadR s f.c (mvDst f t) (mvLen f.w))) (rowF32 row)))

/-- COUNT_LOAD: the entries of CR_MASK go to the registers of CR_MAP under their bounds (R201, R204). -/
def loadCounts (s : State) (f : Flight) (line : List Byte) : State :=
  s.each ((List.range 12).filter fun j => bitAt (getLE f.desc 24 2) j) fun s j =>
    s.setCount f.at_.pt f.c (field (getLE f.desc 32 8) (4 * j) 4) (getLE line (4 * j) 4) (getLE f.desc (40 + 2 * j) 2)

/-- What a VMOVE writes in ac k: record i's row in ac 24 + i w; count registers are new from the ac after its last. -/
def vmoveWrite (s : State) (f : Flight) (k : Nat) : State :=
  let j := k - 24
  if mvMode f.desc = 3 then
    if k + 1 ≠ wDur f.w then s
    else match itemAt 0 f.lines with
      | some line => loadCounts s f line
      | none => s
  else if k < 24 ∨ j % mvAc f.w ≠ 0 then s
  else
    match itemAt (j / mvAc f.w) f.lines with
    | none => s
    | some row =>
      if mvMode f.desc = 1 then
        match itemAt (j / mvAc f.w) f.recs with
        | some r => combineRow s f r.1 r.2 row
        | none => s
      else spadW s f.c (mvDst f (j / mvAc f.w)) row

end Sys2Proof.Machine
end

