-- ==== Sys2Proof/Machine/Reduction.lean ====
section
/-!
DEFINITION. Reduction (12): chunk headers and blocks, the digest, block and chunk addition with their checks, the scalar
lane, and what happens to a chunk that enters or leaves reduction hardware.
-/

namespace Sys2Proof.Machine

/-! ## Chunks (R324, Table 12-2) -/

def chKind (b : List Byte) : Nat := getLE b 0 1
def chFmt (b : List Byte) : Nat := getLE b 1 1
def chTensor (b : List Byte) : Nat := getLE b 2 2
def chFirst (b : List Byte) : Nat := getLE b 4 4
def chBlocks (b : List Byte) : Nat := getLE b 8 4
def chInputs (b : List Byte) : Nat := getLE b 12 2
def chFlags (b : List Byte) : Nat := getLE b 14 1
def chThin (b : List Byte) : Nat := getLE b 15 1
def chDigest (b : List Byte) : Nat := field (getLE b 16 8) 0 61
def chCommit (b : List Byte) : Nat := getLE b 24 8
def chSpa (b : List Byte) : Nat := getLE b 32 4
def chTarget (b : List Byte) : Nat := getLE b 36 2
def chPhase (b : List Byte) : Nat := getLE b 38 1
def chFinal (b : List Byte) : Bool := bitAt (chFlags b) 0
def chStamped (b : List Byte) : Bool := bitAt (chFlags b) 1
def chLocal (b : List Byte) : Bool := bitAt (chFlags b) 2

/-- A chunk with its FLAGS byte replaced. -/
def setChFlags (b : List Byte) (f : Nat) : List Byte := patch b 14 (toLE 1 f)

/-- Bytes of a block in a format. -/
def blockBytes (fmt : Nat) : Nat := if fmt = 0xD then 16 else 72

/-- Bytes of the chunk that a header announces, with its zeros up to a 64-byte boundary. -/
def chLength (b : List Byte) : Nat :=
  if chKind b = 2 then 64 * ceilDiv 36944 64 else 64 * ceilDiv (64 + chBlocks b * blockBytes (chFmt b)) 64

/-- Blocks of a chunk that its bytes hold. -/
def chBlockCount (b : List Byte) : Nat := min (chBlocks b) ((b.length - 64) / blockBytes (chFmt b))

/-- Block j as it is stored. -/
def chBlock (b : List Byte) (j : Nat) : RBlock :=
  let n := blockBytes (chFmt b)
  let x := (b.drop (64 + n * j)).take n
  if chFmt b = 0xD then rb1Of x else rb16Of x

def chBlockList (b : List Byte) : List RBlock :=
  if chKind b = 2 then [] else (List.range (chBlockCount b)).map (chBlock b)

/-! ## The digest (R331, R332) -/

/-- The digest's modulus 2^61 - 1. -/
def mersenne : Nat := 2 ^ 61 - 1

/-- b^e mod 2^61 - 1, by squaring, with as many rounds as e has bits. -/
def powMod (b : Nat) : Nat → Nat → Nat
  | 0, _ => 1
  | n + 1, e =>
    let h := powMod (b * b % mersenne) n (e / 2)
    if e % 2 = 1 then h * b % mersenne else h

/-- rho_t of a partition (R331). -/
def digestBase (s : State) (pt t : Nat) : Nat :=
  match (s.tenancy pt).rho with
  | none => Config.noJobBase t % mersenne
  | some k =>
    let r := (Config.aes256 (kdf256 (keyBytes k) "QZ DIGEST" []) (BitVec.ofNat 128 (t % 65536))).toNat % 2 ^ 61
    if r % mersenne = 0 then 1 else r % mersenne

/-- The digest of mantissas at block index seq. -/
def mantDigest (rho seq : Nat) (m : List Int) : Nat :=
  let v := (m.foldr (fun (x a : Int) => (x + rho * a) % (mersenne : Int)) 0).toNat
  powMod rho 64 (32 * seq) * v % mersenne

/-- A block's contribution; an EMPTY block contributes zero. -/
def RBlock.digest (rho : Nat) (k : RBlock) : Nat := if k.empty then 0 else mantDigest rho k.seq k.m

def blocksDigest (rho : Nat) (l : List RBlock) : Nat := (l.map (RBlock.digest rho)).sum % mersenne

/-! ## Block addition (R326, R329, R330) -/

/-- The residue check of R326. -/
def RBlock.residueOk (k : RBlock) : Bool := k.unchecked || residueOf k.m == k.residue

/-- Clamp to int16 sums. -/
def clampSum (v : Int) : Int := (clampTo (-32767) 32767 v).1

/-- add(a, b) of R329, with the exact sum beside the output where the two differ. -/
def addBlock (a b : RBlock) : RBlock × List Int :=
  if a.empty then (if b.empty then (a, a.m) else (b, b.m))
  else if b.empty then (a, a.m)
  else
    let s := List.zipWith (· + ·) a.m b.m
    let c := s.map clampSum
    let bad := a.nonfin || b.nonfin
    let o := if bad then s.map fun _ => 0 else c
    let un := a.unchecked || b.unchecked || o != s
    (⟨a.b, false, a.ovf || b.ovf || c != s, un, a.sat || b.sat, bad,
      if un then 0 else (a.residue + b.residue) % 65535, a.seq, o⟩, s)

/-- Two blocks of one position agree in B and SEQ (R330). -/
def blocksAgree (a b : RBlock) : Bool := a.empty || b.empty || (a.b == b.b && a.seq == b.seq)

/-- A non-empty block has a legal B (R330). -/
def RBlock.bOk (k : RBlock) : Bool := k.empty || (k.b != 0 && k.b != 255)

/-- The first position of a list at which p fails. -/
def firstBad {α : Type} (p : α → Bool) (l : List α) : Option Nat := l.findIdx? fun x => !p x

/-- The block index of a failed residue in a chunk (R326). -/
def residueFault (b : List Byte) : Option Nat :=
  (firstBad RBlock.residueOk (chBlockList b)).map fun j => (chFirst b + j) % 2 ^ 32

/-- The block index of a header or block mismatch between two chunks (R330); a header counts as its first block. -/
def matchFault (a b : List Byte) : Option Nat :=
  if chKind a ≠ chKind b ∨ chTensor a ≠ chTensor b ∨ chFirst a ≠ chFirst b ∨ chBlocks a ≠ chBlocks b ∨
      chCommit a ≠ chCommit b ∨ chThin a ≠ chThin b ∨ chPhase a ≠ chPhase b ∨ !chStamped a ∨ !chStamped b then
    some (chFirst a)
  else
    (firstBad (fun p => blocksAgree p.1 p.2 && RBlock.bOk p.1 && RBlock.bOk p.2)
      ((chBlockList a).zip (chBlockList b))).map fun j => (chFirst a + j) % 2 ^ 32

/-! ## Lane chunks (R334, R335) -/

/-- Bytes as little-endian words. -/
def words32 : List Byte → List Word
  | a :: b :: c :: d :: r => BitVec.ofNat 32 (leNat [a, b, c, d]) :: words32 r
  | _ => []

/-- MAX of Table 5-5 over FP32 words. -/
def f32Max (a b : Word) : Word := stageOp 0x04 a (ofF32 b)

/-- The norm pair of a lane chunk, exactly. -/
def laneNorm (b : List Byte) : Ext := pairVal (f32At b 64) (f32At b 68)

/-- CMAX_t and SMAX_t, t from 0 up: 8,192 words. -/
def laneMaxima (b : List Byte) : List Word := words32 ((b.drop 80).take 32768)

/-- LFLAGS bytes. -/
def laneFlags (b : List Byte) : List Byte := (b.drop 32848).take 4096

/-- A lane chunk with the header of h. -/
def laneChunk (h : List Byte) (norm : Word × Word) (maxima : List Word) (flags : List Byte) : List Byte :=
  padTo (64 * ceilDiv 36944 64) (padTo 64 h ++ f32Bytes [norm.1, norm.2] ++ zeros 8 ++ padTo 32768 (f32Bytes maxima)
    ++ padTo 4096 flags)

/-- Merge two lane chunks under the header of a (R335). -/
def mergeLane (a b : List Byte) : List Byte :=
  laneChunk a (toPair ((laneNorm a).add (laneNorm b))) (List.zipWith f32Max (laneMaxima a) (laneMaxima b))
    (List.zipWith (· ||| ·) (laneFlags a) (laneFlags b))

/-- Merge the local accumulator of a step into a lane chunk (R336). -/
def mergeLocal (r : StepRun) (b : List Byte) : List Byte :=
  let acc := (List.range 4096).map (mget 0 r.cmax) ++ (List.range 4096).map (mget 0 r.smax)
  let fl := (List.range 4096).map fun t => BitVec.ofNat 8 (mget 0 r.lflags t)
  laneChunk b (f32At b 64, f32At b 68) (List.zipWith f32Max (laneMaxima b) acc)
    (List.zipWith (· ||| ·) (laneFlags b) fl)

/-! ## Chunk addition (R329, R332) -/

/-- The sum of two chunks under the header of a; the output of an addition of blocks is RB16. -/
def addChunks (rho : Nat) (a b : List Byte) : List Byte :=
  if chKind a = 2 then mergeLane a b
  else
    let r := List.zipWith addBlock (chBlockList a) (chBlockList b)
    let o := r.map (·.1)
    let exact := (r.map fun p => if p.1.empty then 0 else mantDigest rho p.1.seq p.2).sum
    let d := (chDigest a + chDigest b + blocksDigest rho o + (r.length + 1) * mersenne - exact) % mersenne
    let h := patch (patch (a.take 64) 1 (toLE 1 0xC)) 16 (toLE 8 d)
    let body := h ++ o.flatMap RBlock.bytes16
    body ++ zeros (64 * ceilDiv body.length 64 - body.length)

/-! ## Entering reduction hardware (R325, R336) -/

/-- Stamp a gradient chunk: SEQ of every block, COMMIT, THIN, PHASE, DIGEST, STAMPED. -/
def stampChunk (s : State) (pt : Nat) (b : List Byte) : List Byte :=
  let n := blockBytes (chFmt b)
  let b := (List.range (chBlockCount b)).foldl (fun b j =>
    patch b (64 + n * j + 4) (toLE 4 ((chFirst b + j) % 2 ^ 32))) b
  let th : Thin := mget {} (s.redPt pt).thin (chTensor b)
  let b := patch (patch (patch b 15 (toLE 1 th.nm1)) 24 (toLE 8 (s.part pt).commits.toNat)) 38 (toLE 1 th.phase)
  let b := patch b 16 (toLE 8 (blocksDigest (digestBase s pt (chTensor b)) (chBlockList b)))
  setChFlags b (Nat.lor (chFlags b) 2)

/-- What a chunk that enters became: the state, the chunk, and the block that failed R326. -/
structure Entered where
  s : State
  chunk : List Byte
  bad : Option Nat

/-- A chunk enters reduction hardware (R325, R336). -/
def State.enterChunk (s : State) (pt : Nat) (b : List Byte) : Entered :=
  if chKind b = 2 then
    let b := if chStamped b then b
      else setChFlags (patch b 24 (toLE 8 (s.part pt).commits.toNat)) (Nat.lor (chFlags b) 2)
    match (s.part pt).running with
    | some r =>
      if chLocal b && !r.laneGiven then
        ⟨s.updRun pt fun r => { r with laneGiven := true }, setChFlags (mergeLocal r b) (chFlags b - 4), none⟩
      else ⟨s, b, none⟩
    | none => ⟨s, b, none⟩
  else if chStamped b then ⟨s, b, none⟩
  else ⟨s, stampChunk s pt b, residueFault b⟩

/-! ## A chunk completes (R336, R337) -/

/-- The largest decoded magnitude of a chunk's blocks, NaN elements left out. -/
def chunkMax (b : List Byte) : Word :=
  rne (((chBlockList b).flatMap fun k => if k.empty || k.nonfin then []
    else k.m.map fun (m : Int) => Ext.fin false m.natAbs ((k.b : Int) - 142)).foldl Ext.max .zero)

/-- LFLAGS of a chunk's block flags. -/
def chunkFlags (b : List Byte) : Nat :=
  let l := chBlockList b
  b2n (l.any RBlock.sat) + 2 * b2n (l.any RBlock.ovf) + 4 * b2n (l.any RBlock.nonfin)

/-- The accumulator takes in a completed FINAL gradient chunk. -/
def StepRun.takeSum (r : StepRun) (b : List Byte) : StepRun :=
  let t := chTensor b
  let m := chunkMax b
  { r with smax := mput 0 r.smax t (if (mget 0 r.smax t).toNat < m.toNat then m else mget 0 r.smax t),
           lflags := mput 0 r.lflags t (Nat.lor (mget 0 r.lflags t) (chunkFlags b)) }

/-- The step captures a completed FINAL lane chunk (R337). -/
def StepRun.capture (r : StepRun) (b : List Byte) : StepRun :=
  match r.lane with
  | none => { r with lane := some b }
  | some l => { r with laneDiffers := r.laneDiffers || l != b }

/-- A port adder has completed a chunk, or a grove vector engine emits it. -/
def State.completeChunk (s : State) (pt : Nat) (b : List Byte) : State :=
  if chFinal b then s.updRun pt fun r => if chKind b = 2 then r.capture b else r.takeSum b else s

/-! ## Suspects (R347) -/

/-- LINK with the partner and the partner's port. -/
def linkSuspect (s : State) (port : Nat) : DWord :=
  suspectOf 3 (atBits (s.port port).partnerPort 32 4) (s.port port).partner

/-- LINK with this device's own port. -/
def ownLink (s : State) (port : Nat) : DWord := s.suspect 3 (atBits port 32 4)

/-- A grove's vector engine. -/
def gveSuspect (s : State) (g : Nat) : DWord := s.suspect 6 (atBits g 33 3)

/-- A reduction-check fault at a block. -/
def checkFault (suspect : DWord) (detail : Nat) : FaultInfo := { plainFault 0x0202 suspect with detail }

/-- Raise a fault where an index was found, with CHECK_FAULT (Table 12-9). -/
def State.checked? (s : State) (pt : Nat) (suspect : DWord) (bad : Option Nat) : State :=
  match bad with
  | some j => (s.event (.red pt) 1 pt).detect pt (checkFault suspect j)
  | none => s

end Sys2Proof.Machine
end

