-- ==== Sys2Proof/Machine/Crown.lean ====
section
/-!
DEFINITION. A step's traffic between memories (07, 09, 10): tensor descriptors and their areas, reads of stacks with
poison and its notices, Crown windows, DMA copies.
-/

namespace Sys2Proof.Machine

/-! ## Tensor descriptors (Tables 10-1 to 10-3) -/

/-- Descriptor i of a Pith program. -/
def descAt (prog : List Byte) (i : Nat) : TensorDesc :=
  let o := 64 + 128 * i
  let w (k : Nat) : Word := f32At prog (o + k)
  { tensor := getLE prog o 2, rule := getLE prog (o + 2) 1, flags := BitVec.ofNat 8 (getLE prog (o + 3) 1),
    copyFmt := getLE prog (o + 4) 1, iters := getLE prog (o + 5) 1, pRoot := getLE prog (o + 6) 1,
    thinN := getLE prog (o + 7) 1, thinPhase := getLE prog (o + 8) 1, rslice := getLE prog (o + 9) 1,
    copyTensor := getLE prog (o + 10) 2, k := getLE prog (o + 12) 4, rows := getLE prog (o + 16) 4,
    cols := getLE prog (o + 20) 4, row0 := getLE prog (o + 24) 4, col0 := getLE prog (o + 28) 4,
    logRows := getLE prog (o + 32) 4, logCols := getLE prog (o + 36) 4, masterAddr := getLE prog (o + 40) 8,
    stateAddr := getLE prog (o + 48) 8, gradAddr := getLE prog (o + 56) 8, copyAddr := getLE prog (o + 64) 8,
    lr := w 72, beta1 := w 76, beta2 := w 80, eps := w 84, wd := w 88, scale := w 92, nsA := w 96, nsB := w 100,
    nsC := w 104, damp := w 108, chunks := getLE prog (o + 112) 4 }

def descs (prog : List Byte) : List TensorDesc := (List.range (getLE prog 0 4)).map (descAt prog)

namespace Desc

def flag (d : TensorDesc) (i : Nat) : Bool := d.flags.getLsbD i
def elems (d : TensorDesc) : Nat := d.rows * d.cols
def blocks (d : TensorDesc) : Nat := ceilDiv (elems d) 32
def small (d : TensorDesc) : Nat := min d.rows d.cols

/-- Size of item i of Table 10-1: 0 header, 1 C, 2 m, 3 v, 4 L, 5 R, 6 PL, 7 PR, 8 work area. -/
def itemSize (d : TensorDesc) (i : Nat) : Nat :=
  match i with
  | 0 => 64
  | 1 => if flag d 0 then 2 * elems d else 0
  | 2 => if d.rule = 4 then 0 else 4 * elems d
  | 3 => if d.rule = 2 then 4 * elems d else 0
  | 4 => if d.rule = 4 then 4 * (d.rows * d.rows) else 0
  | 5 => if d.rule = 4 then 4 * (d.cols * d.cols) else 0
  | 6 => if d.rule = 4 then 4 * (d.rows * d.rows) else 0
  | 7 => if d.rule = 4 then 4 * (d.cols * d.cols) else 0
  | 8 => if d.rule = 3 then 4 * (3 * (small d * small d) + 2 * elems d)
         else if d.rule = 4 then 4 * (7 * (d.rows * d.rows + d.cols * d.cols) + elems d)
         else 0
  | _ => 0

/-- v rounded up to a multiple of 64. -/
def up64 (v : Nat) : Nat := 64 * ceilDiv v 64

/-- Stack address of item i of the state area; of the difference staging for i = 9 (R256). -/
def itemAddr (d : TensorDesc) (i : Nat) : Nat := d.stateAddr + ((List.range i).map fun k => up64 (itemSize d k)).sum

/-- The exported parts in a staging half: header, master, C, then the other items (R280). -/
def halfSize (d : TensorDesc) (i : Nat) : Nat :=
  match i with
  | 0 => 64
  | 1 => 4 * elems d
  | i + 2 => itemSize d (i + 1)

/-- Offset of part i in a staging half; the size of a half for i = 9. -/
def halfOff (d : TensorDesc) (i : Nat) : Nat := ((List.range i).map fun k => up64 (halfSize d k)).sum

/-- Stack address of a staging half. -/
def halfAddr (d : TensorDesc) (half : Nat) : Nat := itemAddr d 9 + half * halfOff d 9

/-- Bytes of the state area. -/
def stateSize (d : TensorDesc) : Nat := itemAddr d 9 - d.stateAddr + (if flag d 3 then 2 * halfOff d 9 else 0)

/-- Bytes of the working copy (R117, R256). -/
def copySize (d : TensorDesc) : Nat := if d.copyFmt = 0xFF then 0 else d.rows * rowBytes d.copyFmt d.cols

/-- Stack address of chunk header i (R333). -/
def chunkAddr (d : TensorDesc) (i : Nat) : Nat := d.gradAddr + up64 (72 * blocks d) + 64 * i

end Desc

/-! ## Poison (R215 to R217, R275) -/

/-- What a stack burst belongs to (R217): a working copy, a shard, or other data; with its tensor and line. -/
inductive Extent where
  | copy (tensor line : Nat)
  | shard (tensor line : Nat)
  | other (tensor line : Nat)
deriving DecidableEq, Repr

/-- The extent of a stack byte in one descriptor; lines count from the start of the area that holds it. -/
def extentIn (d : TensorDesc) (a : Nat) : Option Extent :=
  let inside (base n : Nat) : Bool := decide (base / 64 * 64 ≤ a) && decide (a < base + n)
  let line (base : Nat) : Nat := a / 64 - base / 64
  if inside d.copyAddr (Desc.copySize d) then some (.copy d.tensor (line d.copyAddr))
  else if inside d.masterAddr (4 * Desc.elems d) then some (.shard d.tensor (line d.masterAddr))
  else if inside d.stateAddr (Desc.itemAddr d 8 - d.stateAddr) then some (.shard d.tensor (line d.stateAddr))
  else if inside d.stateAddr (Desc.stateSize d) then some (.other d.tensor (line d.stateAddr))
  else if inside d.gradAddr (Desc.chunkAddr d d.chunks - d.gradAddr) then some (.other d.tensor (line d.gradAddr))
  else none

/-- Relative stack of an absolute one. -/
def relStack (s : State) (pt h : Nat) : Nat := (ptStacks s pt).idxOf h

/-- The extent of a stack byte in the stack's Pith program. -/
def extentOf (s : State) (pt h a : Nat) : Extent :=
  ((descs (secPith (stepImage s pt) (relStack s pt h))).findSome? fun d => extentIn d a).getD (.other 0xFFFF (a / 64))

/-- The start beat of the partition's current step. -/
def stepBeat (s : State) (pt : Nat) : DWord :=
  match (s.part pt).cur with
  | some r => r.start
  | none => 0

/-- A notice that names lines of a tensor (Table 14-10). -/
def State.notifyLines (s : State) (pt kind tensor h line count : Nat) : State :=
  s.notify pt { kind, tensor, stack := relStack s pt h, first := line, count, step := stepBeat s pt }

/-- The stack ranges that a checkpoint restores of a descriptor: master, and state without work and staging areas. -/
def Desc.shardRanges (d : TensorDesc) : List (Nat × Nat) :=
  [(d.masterAddr, 4 * Desc.elems d), (d.stateAddr, Desc.itemAddr d 8 - d.stateAddr)]

/-- Enter a lost shard in place of an earlier entry of the same tensor. -/
def State.enterLost (s : State) (l : LostShard) : State :=
  { s with mb := { s.mb with
      lost := (s.mb.lost.filter fun x => !(x.pt == l.pt && x.stack == l.stack && x.tensor == l.tensor)) ++ [l] } }

/-- A shard is reported lost (R217). -/
def State.loseShard (s : State) (pt tensor h line count : Nat) : State :=
  let ds := (descs (secPith (stepImage s pt) (relStack s pt h))).filter fun d => d.tensor = tensor
  (s.notifyLines pt 2 tensor h line count).enterLost
    { pt, stack := h, tensor, drift := false, todo := ds.flatMap Desc.shardRanges }

/-- What is left of a range after lines lo to hi - 1 were written. -/
def leftOf (lo hi : Nat) (r : Nat × Nat) : List (Nat × Nat) :=
  (if r.1 < min lo (r.1 + r.2) then [(r.1, min lo (r.1 + r.2) - r.1)] else []) ++
    (if max hi r.1 < r.1 + r.2 then [(max hi r.1, r.1 + r.2 - max hi r.1)] else [])

/-- The host has written bursts of a stack: a shard written whole is no longer lost (R217). -/
def State.restore (s : State) (pt h lo hi : Nat) : State :=
  { s with mb := { s.mb with lost := s.mb.lost.filterMap fun l =>
      if l.pt ≠ pt ∨ l.stack ≠ h then some l
      else
        let todo := l.todo.flatMap (leftOf lo hi)
        if todo.isEmpty then none else some { l with todo } } }

/-- A working-copy line waits for its regeneration in the step gap (R217). -/
def State.needRegen (s : State) (pt h tensor line : Nat) : State :=
  let e := (pt, h, tensor, line)
  { s with mb := { s.mb with regen := if s.mb.regen.contains e then s.mb.regen else s.mb.regen ++ [e] } }

/-- The tensor line of an extent. -/
def Extent.line : Extent → Nat
  | .copy _ l => l
  | .shard _ l => l
  | .other _ l => l

/-- What a poisoned burst of a step causes beside the step's outcome (R217). -/
def State.poisonNotice (s : State) (pt h a : Nat) : State :=
  match extentOf s pt h a with
  | .copy t l => (s.notifyLines pt 1 t h l 1).needRegen pt h t l
  | .shard t l => (s.notifyLines pt 1 t h l 1).loseShard pt t h l 1
  | .other t l => s.notifyLines pt 1 t h l 1

/-- The suspect that names a burst. -/
def pageSuspect (s : State) (h a : Nat) : DWord := s.suspect 4 (hbmLoc h a)

/-- The step has already read this burst poisoned. -/
def poisonSeen (s : State) (pt h a : Nat) : Bool :=
  match (s.part pt).cur with
  | some r => r.keys.any fun k => k.cause == 0x0401 && k.loc && k.suspect == pageSuspect s h a
  | none => false

/-- A step reads a poisoned burst before its commit; each burst is noticed once in a step (R216, R217). -/
def State.poisonedRead (s : State) (pt h a : Nat) : State :=
  let t := s.detect pt (plainFault 0x0401 (pageSuspect s h a))
  if poisonSeen s pt h a then t else t.poisonNotice pt h a

/-- A step reads a stack whose shard is reported lost (R217). -/
def State.checkLost (s : State) (pt h : Nat) : State :=
  match s.mb.lost.find? fun l => l.pt == pt && l.stack == h with
  | some l => s.detect pt (plainFault (if l.drift then 0x0405 else 0x0402) (s.suspect 0 0))
  | none => s

/-- What reading lines gave. -/
structure LinesRead where
  s : State
  lines : List (List Byte)
  bad : List Nat

/-- Read n bursts of a stack from byte address a, with what the DRAM returned. -/
def readBursts (s : State) (h a n : Nat) (ecc : List EccObs) : LinesRead :=
  (List.range n).foldl (fun r i =>
    let b := readBurst r.s h (a + 64 * i) ecc
    ⟨b.s, r.lines ++ [b.bytes], if b.bad then r.bad ++ [a + 64 * i] else r.bad⟩) ⟨s, [], []⟩

/-- A step's read of a stack before the commit: a poisoned burst discards the step (R216). -/
def State.stepRead (s : State) (pt h a n : Nat) (ecc : List EccObs) : State × List (List Byte) :=
  let r := readBursts (s.checkLost pt h) h a n ecc
  (r.s.each r.bad fun s x => s.poisonedRead pt h x, r.lines)

/-! ## Crown windows (R228 to R231) -/

/-- Entry i of a Crown table. -/
def crownEntry (t : List Byte) (i : Nat) : CrownEntry :=
  let o := 16 + 32 * i
  { kind := getLE t o 1, fill := bitAt (getLE t (o + 1) 1) 0, writeBack := bitAt (getLE t (o + 1) 1) 1,
    way := getLE t (o + 2) 1, offset := getLE t (o + 4) 4, hbmAddr := getLE t (o + 8) 8, lines := getLE t (o + 16) 4,
    fillBeat := getLE t (o + 20) 4, openBeat := getLE t (o + 24) 4, closeBeat := getLE t (o + 28) 4 }

/-- The Crown table of a tier and relative grove. -/
def crownEntries (img : List Byte) (tier grove : Nat) : List CrownEntry :=
  let t := secFind img 0x11 tier grove 0xFFFF 0xFF
  (List.range (getLE t 0 4)).map (crownEntry t)

/-- Device address of a window's first byte in Crown. -/
def windowAddr (s : State) (pt grove : Nat) (e : CrownEntry) : Nat :=
  crownBase (ptFirst s pt + grove) + e.way * 2 ^ 26 + e.offset

/-- A firewall drops a transfer that leaves its partition, and its step is discarded (R36). -/
def State.firewall (s : State) (pt : Nat) : State := s.detect pt (plainFault 0x0601 (s.suspect 0 0))

/-- Run f on a range of the partition's stacks: the stack and the byte address in it; a range outside meets the firewall
(R36). -/
def State.onStack (s : State) (pt a lines : Nat) (f : Nat → Nat → State → State) : State :=
  if inPartition s pt a (64 * lines) then
    match resolve s pt a with
    | .hbm h off => f h off s
    | _ => s.firewall pt
  else s.firewall pt

/-- Entry e of the running step's Crown table is due at a beat offset (R71, R72, R228). -/
def crownDue (s : State) (pt grove : Nat) (e : CrownEntry) (beat : Nat) : Bool :=
  match (s.part pt).working with
  | some r => decide (s.offset r = beat) && !r.tripped && decide (grove < ptSize s pt) && e.kind == 1 &&
      (crownEntries ((s.part pt).image r) r.tier grove).contains e
  | none => false

/-- A window that is being filled or has been filled. -/
def windowHeld (s : State) (pt grove : Nat) (e : CrownEntry) : Bool :=
  s.mb.windows.any fun w => w.pt == pt && w.grove == grove && w.entry == e

/-- CROWN_FILL: in its FILL_BEAT reads the window's range and lands it in Crown, unless its return is late (R229). -/
def crownFillEffect (pt grove : Nat) (e : CrownEntry) (ecc : List EccObs) (late : Bool) (s : State) : State :=
  if crownDue s pt grove e e.fillBeat ∧ e.fill ∧ !windowHeld s pt grove e then
    s.onStack pt e.hbmAddr e.lines fun h a s =>
      let r := s.stepRead pt h a e.lines ecc
      let s := { r.1 with mb := { r.1.mb with windows := { pt, grove, entry := e, filled := !late } :: r.1.mb.windows } }
      if late then s else writeN s (windowAddr s pt grove e) r.2.flatten
  else s

/-- CROWN_WRITEBACK: every line of the window goes to HBM in its CLOSE_BEAT (R229). The range reads as written from that beat
on; what it reads before CLOSE_BEAT + 2, from which the rule lets it be read, the rule leaves open (DESIGN CHOICE, log entry
24). -/
def crownWritebackEffect (pt grove : Nat) (e : CrownEntry) (s : State) : State :=
  if crownDue s pt grove e e.closeBeat ∧ e.writeBack then
    s.onStack pt e.hbmAddr e.lines fun h a s =>
      let base := windowAddr s pt grove e
      let s := s.each (List.range e.lines) fun s i => hbmWrite s h (a + 64 * i) (readN s (base + 64 * i) 64)
      { s with mb := { s.mb with windows := s.mb.windows.filter fun w => !(w.pt == pt && w.grove == grove && w.entry == e) } }
  else s

/-! ## DMA copies (R233, R234) -/

/-- Entry i of a DMA table. -/
def dmaEntry (t : List Byte) (i : Nat) : DmaEntry :=
  let o := 16 + 32 * i
  { beat := getLE t o 4, kind := getLE t (o + 4) 1, grove := getLE t (o + 5) 1, src := getLE t (o + 8) 8,
    dst := getLE t (o + 16) 8, lines := getLE t (o + 24) 4 }

def dmaEntries (img : List Byte) (tier : Nat) : List DmaEntry :=
  let t := secFind img 0x12 tier 0xFF 0xFFFF 0xFF
  (List.range (getLE t 0 4)).map (dmaEntry t)

/-- What the read of a copy's source gave: its lines, and whether some line of a region in INIT is still awaited. -/
structure CopyRead where
  s : State
  lines : List (List Byte)
  late : Bool

/-- Read a copy's source (R36, R216, R234, R242, Table 9-7). -/
def State.copyRead (s : State) (pt : Nat) (e : DmaEntry) (ecc : List EccObs) : CopyRead :=
  match resolve s pt e.src with
  | .hbm h off =>
    let r := s.stepRead pt h off e.lines ecc
    ⟨r.1, r.2, false⟩
  | .outer line _ =>
    let ls := (List.range e.lines).map (line + ·)
    ⟨s.each ls fun s l => s.expectCheck l 1, ls.map (omRead s), ls.any (inInit s)⟩
  | .crown g off => ⟨s, (List.range e.lines).map fun i => readN s (crownBase g + off + 64 * i) 64, false⟩
  | .none => ⟨s, [], false⟩

/-- A DMA entry of the running step is due in the beat that runs (R71, R72). -/
def dmaDue (s : State) (pt : Nat) (e : DmaEntry) : Bool :=
  match (s.part pt).working with
  | some r => decide (s.offset r = e.beat) && !r.tripped && e.kind == 1 && (dmaEntries ((s.part pt).image r) r.tier).contains e
  | none => false

/-- DMA_COPY: the source lines are read in the issue beat. -/
def dmaCopyEffect (pt : Nat) (e : DmaEntry) (ecc : List EccObs) (s : State) : State :=
  if dmaDue s pt e ∧ !s.mb.dma.any (fun d => d.pt == pt && d.entry == e) then
    if inPartition s pt e.src (64 * e.lines) then
      let r := s.copyRead pt e ecc
      { r.s with mb := { r.s.mb with dma := r.s.mb.dma ++ [{ pt, entry := e, data := r.lines, late := r.late }] } }
    else s.firewall pt
  else s

/-- A write that a running step schedules to outer memory (R241, R245, R246); the acceptance test comes at the start of the
write's beat. -/
def State.omStepWrite (s : State) (pt line off : Nat) (bs : List Byte) : State :=
  if lineExhausted s line then s.detect pt (plainFault 0x0403 (s.suspect 0 0))
  else
    match wcWrite s pt false line off bs with
    | none => s.detect pt { plainFault 0x0104 (s.suspect 0 0) with point := 4, ac := 0 }
    | some t => t

/-- Write one line at a partition address for a running step. -/
def State.stepWrite (s : State) (pt a : Nat) (bs : List Byte) : State :=
  match resolve s pt a with
  | .outer line off => s.omStepWrite pt line off bs
  | .none => s.firewall pt
  | _ => writeNear s pt a bs

/-- The suspect of a late line (Table 13-1, READ_RETURN). -/
def lateSuspect (s : State) (pt a : Nat) : DWord :=
  match resolve s pt a with
  | .hbm h off => pageSuspect s h off
  | .outer line _ => s.suspect 7 (omLoc line)
  | _ => s.suspect 0 0

/-- Beats from a copy's reads to its writes: two from outer memory, one else (R234). -/
def dmaWait (e : DmaEntry) : Nat := if 0x20000000000 ≤ e.src then 2 else 1

/-- A pending copy writes in the beat that runs. -/
def dmaWrites (s : State) (d : DmaPend) : Bool :=
  match (s.part d.pt).working with
  | some r => decide (s.offset r = d.entry.beat + dmaWait d.entry) && !r.tripped
  | none => false

/-- DMA_COPY_WRITE: at the start of the write beat the readiness test of every line, then the destination. -/
def dmaCopyWriteEffect (pt : Nat) (e : DmaEntry) (late : Bool) (s : State) : State :=
  match s.mb.dma.find? (fun d => d.pt == pt && d.entry == e && dmaWrites s d) with
  | none => s
  | some d =>
    let s := { s with mb := { s.mb with dma := s.mb.dma.erase d } }
    if late || d.late then s.detect pt { plainFault 0x0103 (lateSuspect s pt e.src) with point := 3, ac := 0 }
    else if inPartition s pt e.dst (64 * e.lines) then
      s.each d.data.zipIdx fun s p => s.stepWrite pt (e.dst + 64 * p.2) p.1
    else s.firewall pt

/-! ## Meanings -/

def execCrownFill (pt g : Nat) (e : CrownEntry) (ecc : List EccObs) (late : Bool) (s : State) :=
  checked (.crownFill pt g e ecc late) s (crownFillEffect pt g e ecc late s)
def execCrownWriteback (pt g : Nat) (e : CrownEntry) (s : State) :=
  checked (.crownWriteback pt g e) s (crownWritebackEffect pt g e s)
def execDmaCopy (pt : Nat) (e : DmaEntry) (ecc : List EccObs) (s : State) :=
  checked (.dmaCopy pt e ecc) s (dmaCopyEffect pt e ecc s)
def execDmaCopyWrite (pt : Nat) (e : DmaEntry) (late : Bool) (s : State) :=
  checked (.dmaCopyWrite pt e late) s (dmaCopyWriteEffect pt e late s)

end Sys2Proof.Machine
end

