-- ==== Sys2Proof/Machine/Moves.lean ====
section
/-!
DEFINITION. The words that move lines between a cluster and Crown, other clusters, the grove vector engine and the ports
(04, 09, 11, 12): what LDC, STC, SEND, GVSEND, LKTX and LKRX find at their start, and what they read and write in each of
their ac; the engine's keys, the slot buffers and the graft regions.
-/

namespace Sys2Proof.Machine

/-! ## Lines of a transfer (R111) -/

/-- A word's start: the state after its readiness test, and the word under way unless it does not run (R73). -/
abbrev Start : Type := State × Option Flight

/-- What a transfer of n lines reads in ac k: line k of the scratchpad. -/
def lineRead (n : Nat) (s : State) (f : Flight) (k : Nat) : Flight :=
  if k < n then { f with lines := f.lines ++ [(k, spadR s f.c (wSrc f.w + 64 * k) 64)] } else f

/-- What a transfer delivers in ac k: the line read d ac before. -/
def lineAt (d : Nat) (f : Flight) (k : Nat) : Option (Nat × List Byte) :=
  if k < d then none else (itemAt (k - d) f.lines).map fun l => (k - d, l)

/-! ## Crown (R208, R209, R229, R231) -/

/-- Where a cluster's Crown access lies. -/
inductive CrownAt where
  | way (addr : Nat)
  | window (addr : Nat) (filled : Bool)
  | closed
  | outside
deriving DecidableEq, Repr

/-- Whether a window's fill has landed: a window without a fill holds what its way holds. -/
def windowFilled (s : State) (pt grove : Nat) (e : CrownEntry) : Bool :=
  !e.fill || s.mb.windows.any fun w => w.pt == pt && w.grove == grove && w.entry == e && w.filled

/-- Resolve n lines of an LDC or STC in the beat in which the word starts. -/
def crownAt (s : State) (f : Flight) (a n : Nat) : CrownAt :=
  let pt := f.at_.pt
  let r := flightRun s f
  let grove := f.at_.cl / 100
  if !inPartition s pt a (64 * n) then .outside
  else match resolve s pt a with
  | .crown g off => if g = ptFirst s pt + grove then .way (crownBase g + off) else .closed
  | .hbm _ _ =>
    let beat := f.t / acPerBeat r.tier
    match (crownEntries ((s.part pt).image r) r.tier grove).find? fun e =>
        e.kind == 1 && decide (e.hbmAddr ≤ a) && decide (a + 64 * n ≤ e.hbmAddr + 64 * e.lines) &&
          decide (e.openBeat ≤ beat) && decide (beat < e.closeBeat) with
    | some e => .window (windowAddr s pt grove e + (a - e.hbmAddr)) (windowFilled s pt grove e)
    | none => .closed
  | _ => .closed

/-- N of a word that moves lines. -/
def crownN (w : OpWord) : Nat := wBits w 24 9 + 1

/-- MADDR in bytes. -/
def crownMaddr (w : OpWord) : Nat := 64 * wBits w 62 25

/-- The suspect of a CROWN_READ fault: the page of the window line. -/
def crownSuspect (s : State) (pt a : Nat) : DWord :=
  match resolve s pt a with
  | .hbm h off => pageSuspect s h off
  | _ => s.suspect 0 0

/-- LDC at its start: its range must be present in Crown (R231, Table 3-1). -/
def ldcStart (s : State) (f : Flight) : Start :=
  let m := crownMaddr f.w
  match crownAt s f m (crownN f.w) with
  | .way addr => (s, some { f with place := addr })
  | .window addr true => (s, some { f with place := addr })
  | .outside => (s.firewall f.at_.pt, none)
  | _ => (s.wordFault f 0x0105 5 f.t 0 (crownSuspect s f.at_.pt m), none)

/-- An LDC reads line k of Crown in ac k, and writes it to the scratchpad in ac 96 + k. -/
def ldcRead (s : State) (f : Flight) (k : Nat) : Flight :=
  if k < crownN f.w then { f with lines := f.lines ++ [(k, readN s (f.place + 64 * k) 64)] } else f
def ldcWrite (s : State) (f : Flight) (k : Nat) : State :=
  match lineAt 96 f k with
  | some l => spadW s f.c (wSrc f.w + 64 * l.1) l.2
  | none => s

/-- STC at its start: lines go to a scratchpad way or to the copy of an open window. -/
def stcStart (s : State) (f : Flight) : Start :=
  match crownAt s f (crownMaddr f.w) (crownN f.w) with
  | .way addr => (s, some { f with place := addr })
  | .window addr _ => (s, some { f with place := addr })
  | .outside => (s.firewall f.at_.pt, none)
  | .closed => (s, none)

/-- An STC writes line k to Crown in ac 64 + k. -/
def stcWrite (s : State) (f : Flight) (k : Nat) : State :=
  match lineAt 64 f k with
  | some l => writeN s (f.place + 64 * l.1) l.2
  | none => s

/-! ## The fabric (R22, R36, R100) -/

/-- ac after which a line sent in an ac lands (Table 1-2). -/
def sendLatency (src dst : Nat) : Nat := if src / 100 = dst / 100 then 48 else 160

def sendN (w : OpWord) : Nat := wBits w 35 20 + 1
def sendDst (w : OpWord) : Nat := wBits w 45 36

/-- SEND at its start: a target outside the partition meets the firewall. -/
def sendStart (s : State) (f : Flight) : Start :=
  if 100 * ptSize s f.at_.pt ≤ sendDst f.w then (s.firewall f.at_.pt, none) else (s, some f)

/-- A SEND's line lands at the fixed latency of its class, over the inbound path (R22, R100). -/
def sendWrite (s : State) (f : Flight) (k : Nat) : State :=
  match lineAt (sendLatency f.at_.cl (sendDst f.w)) f k with
  | some l => spadW s (absCluster s f.at_.pt (sendDst f.w)) (32 * wBits f.w 62 46 + 64 * l.1) l.2
  | none => s

/-! ## Grove vector engines (R325, R326, R328) -/

/-- The engine's fault where a key cannot be held, or stays open. -/
def State.planFault (s : State) (pt g : Nat) : State :=
  (s.event (.red pt) 2 pt).detect pt (plainFault 0x010A (gveSuspect s g))

/-- Two chunks belong to one key: KIND, TENSOR, FIRST_BLOCK and COMMIT agree. -/
def sameKey (a b : List Byte) : Bool :=
  chKind a == chKind b && chTensor a == chTensor b && chFirst a == chFirst b && chCommit a == chCommit b

/-- The keys of a grove. -/
def gveKeys (s : State) (g : Nat) : List GveKey := mget [] s.gve g

/-- A key that still awaits a chunk. -/
def GveKey.isOpen (k : GveKey) : Bool := decide (k.got < k.inputs)

/-- Write a grove's keys. -/
def State.setGve (s : State) (g : Nat) (l : List GveKey) : State := { s with gve := mput [] s.gve g l }

/-- The lowest key number that is not in use. -/
def freeKey (l : List GveKey) : Nat := ((List.range (l.length + 1)).find? fun i => l.all fun k => k.id ≠ i).getD l.length

/-- Bytes of the partial sums of open keys. -/
def gveBytes (l : List GveKey) : Nat := ((l.filter GveKey.isOpen).map fun k => k.chunk.length).sum

/-- The suspect of a sum that an engine holds: the source of its first chunk while that is all, else the engine (R347). -/
def sumSuspect (s : State) (g : Nat) (k : GveKey) : DWord := if k.got = 1 then clusterSuspect s k.src else gveSuspect s g

/-- A chunk opens its key (R328, R330). -/
def State.gveOpen (s : State) (f : Flight) (t : Nat) (b : List Byte) : State :=
  let pt := f.at_.pt
  let g := f.c / 100
  let l := gveKeys s g
  let s := s.checked? pt (clusterSuspect s f.c) ((firstBad RBlock.bOk (chBlockList b)).map fun j => (chFirst b + j) % 2 ^ 32)
  if 64 ≤ (l.filter GveKey.isOpen).length ∨ 8388608 < gveBytes l + b.length then s.planFault pt g
  else
    let l := l ++ [{ id := freeKey l, chunk := b, got := 1, inputs := chInputs b, src := f.c, last := t }]
    (s.setGve g l).updRun pt fun r => { r with gveMax := max r.gveMax (l.filter GveKey.isOpen).length }

/-- A chunk is added to its key; a sum that then exceeds the engine's room is a reduction-plan fault (R328 to R330). -/
def State.gveAdd (s : State) (f : Flight) (t : Nat) (k : GveKey) (b : List Byte) : State :=
  let pt := f.at_.pt
  let g := f.c / 100
  let s := (s.checked? pt (sumSuspect s g k) (residueFault k.chunk)).checked? pt (clusterSuspect s f.c) (matchFault k.chunk b)
  let k' := { k with chunk := addChunks (digestBase s pt (chTensor b)) k.chunk b, got := k.got + 1, last := t }
  let l := (gveKeys s g).map fun y => if y.id = k.id then k' else y
  let s := s.setGve g l
  if 8388608 < gveBytes l then s.planFault pt g else s

/-- A chunk that ends its GVSEND in ac t enters the engine of its grove: its residues are checked, it is stamped where it is
not yet, and it opens its key or is added to it (R325, R326, R328). -/
def State.gveTake (s : State) (f : Flight) (t : Nat) (b : List Byte) : State :=
  let pt := f.at_.pt
  let s := s.checked? pt (clusterSuspect s f.c) (residueFault b)
  let e := s.enterChunk pt b
  match (gveKeys e.s (f.c / 100)).find? fun k => k.isOpen && sameKey k.chunk e.chunk with
  | some k => e.s.gveAdd f t k e.chunk
  | none => e.s.gveOpen f t e.chunk

/-- A GVSEND's chunk arrives in the word's last ac. -/
def gvsendWrite (s : State) (f : Flight) (k : Nat) : State :=
  if k + 1 = wDur f.w then
    let b := f.lines.flatMap (·.2)
    s.gveTake f (f.t + k) (b.take (chLength b))
  else s

/-- ac from the last ac of the completing GVSEND to the landing of the sum's first line (R328). -/
def gveLatency : Nat := 56

/-- The key of a complete sum whose first line lands in ac t. -/
def gveDue (s : State) (g key t : Nat) : Option GveKey :=
  (gveKeys s g).find? fun k => k.id == key && !k.isOpen && k.last + gveLatency == t

/-- GVE_EMIT: a sum leaves for its target cluster; a target outside the partition meets the firewall (R36, R328, R336,
R337). -/
def State.gveSend (s : State) (pt grove : Nat) (k : GveKey) (t : Nat) : State :=
  let g := ptFirst s pt + grove
  let s := s.setGve g ((gveKeys s g).filter fun y => y.id ≠ k.id)
  let s := s.completeChunk pt k.chunk
  let d := chTarget k.chunk
  if 100 * ptSize s pt ≤ d then s.firewall pt
  else if d / 100 = grove then
    s.updRun pt fun r => { r with emits := r.emits ++ [{ c := absCluster s pt d, spa := 32 * chSpa k.chunk, t, bytes := k.chunk }] }
  else s

/-- The line of a sum that lands in ac t (R101, R328). -/
def Emit.land (e : Emit) (s : State) (t : Nat) : State :=
  if t < e.t then s
  else spadW s e.c (e.spa + 64 * (t - e.t)) ((e.bytes.drop (64 * (t - e.t))).take 64)

/-- A sum has landed whole before ac t. -/
def Emit.done (e : Emit) (t : Nat) : Bool := decide (e.t + ceilDiv e.bytes.length 64 ≤ t)

/-! ## Streams of an image (R104, R107, R108) -/

/-- The words of a stream section. -/
def streamWords (sec : List Byte) : List OpWord :=
  if sec.isEmpty then []
  else (List.range (getLE sec 0 4)).map fun i => BitVec.ofNat 128 (getLE sec (64 + 16 * i) 16)

/-- The words of a stream section with their start ac. -/
def timedWords (sec : List Byte) : List (Nat × OpWord) :=
  ((streamWords sec).foldl (fun (k : Nat × List (Nat × OpWord)) w =>
    (k.1 + wDelta w, (k.1 + wDelta w, w) :: k.2)) (0, [])).2.reverse

/-- The word is an LKRX from a receive slot of TYPE 02h (a working-copy receive). -/
def copyReceive (img : List Byte) (w : OpWord) : Bool :=
  wOp w == 0x35 &&
    (let g := segRec img (wBits w 62 47)
     !g.graft && (slotRec img g.slot).type == 2)

/-- The last beat offset in which a word other than NOP, END or a working-copy receive ends. -/
def lastWordBeat (img : List Byte) : Nat :=
  (secEnts img).foldl (fun m e =>
    if e.type ≠ 0x10 then m
    else (timedWords (secBytes img e)).foldl (fun m p =>
      if wOp p.2 ≤ 1 || copyReceive img p.2 then m else max m ((p.1 + wDur p.2 - 1) / acPerBeat e.tier)) m) 0

/-- VERIFY_END of an image (R257). -/
def imgVerifyEnd (img : List Byte) : Nat :=
  match pithPrograms img with
  | [] => lastWordBeat img
  | (_, p) :: _ => getLE p 8 4

/-- NORM_BEAT of an image (R257). -/
def imgNormBeat (img : List Byte) : Nat :=
  match pithPrograms img with
  | [] => lastWordBeat img
  | (_, p) :: _ => getLE p 12 4

/-- The open keys at the boundary that ends VERIFY_END are a fault of their engine (R328). -/
def State.expireKeys (s : State) (pt : Nat) : State :=
  s.each ((ptGroves s pt).filter fun g => (gveKeys s g).any GveKey.isOpen) fun s g => s.planFault pt g

/-- GVE_KEY_EXPIRY: VERIFY_END runs; what stays open to its end expires (R328). -/
def gveKeyExpiryEffect (pt : Nat) (s : State) : State :=
  match (s.part pt).working with
  | none => s
  | some r => if s.offset r = imgVerifyEnd ((s.part pt).image r) then s.setDue pt .keys else s

/-! ## Slot buffers (R299 to R302) -/

/-- The buffer of an occurrence in a list, empty where there is none. -/
def slotBuf (l : List SlotBuf) (slot occ : Nat) : SlotBuf :=
  (l.find? fun b => b.slot == slot && b.occ == occ).getD { slot, occ, data := [] }

/-- Put an occurrence's buffer back. -/
def setSlotBuf (l : List SlotBuf) (b : SlotBuf) : List SlotBuf :=
  b :: l.filter fun x => !(x.slot == b.slot && x.occ == b.occ)

def State.setTx (s : State) (pt : Nat) (b : SlotBuf) : State :=
  s.setBufs pt { s.ptBufs pt with tx := setSlotBuf (s.ptBufs pt).tx b }
def State.setRx (s : State) (pt : Nat) (b : SlotBuf) : State :=
  s.setBufs pt { s.ptBufs pt with rx := setSlotBuf (s.ptBufs pt).rx b }

/-- Crossing latency L (R112). -/
def crossing : Nat → Nat
  | 0 => 34
  | 1 => 28
  | 2 => 21
  | _ => 14

/-- Start of occurrence k's window, in 1/64 ns from the step's start. -/
def SlotRec.windowAt (r : SlotRec) (k : Nat) : Nat := r.beatOf k * 64000 + r.start

/-- The first occurrence whose window starts at or after a time in 1/64 ns times c (R299). -/
def SlotRec.firstFrom (r : SlotRec) (c need : Nat) : Option Nat :=
  let k := ceilDiv (need - r.windowAt 0 * c) (max r.period 1 * 64000 * c)
  if k < r.count then some k else none

/-- The latest occurrence whose deadline falls at or before a time in 1/64 ns times c (R299). -/
def SlotRec.lastBy (r : SlotRec) (lmax c now : Nat) : Option Nat :=
  let d := (r.beat * 64000 + slotDeadline r lmax) * c
  if now < d ∨ r.count = 0 then none else some (min (r.count - 1) ((now - d) / (max r.period 1 * 64000 * c)))

/-- The occurrence's deadline falls after the commit beat of its image (R302). -/
def afterCommit (img : List Byte) (r : SlotRec) (occ : Nat) : Bool :=
  decide (manCommitBeat img < (r.beatOf occ * 64000 + slotDeadline r (manLmax img r.port)) / 64000)

/-- A line of a preload; a chunk whose last byte is there enters reduction hardware (R325, R327). -/
def State.preload (s : State) (f : Flight) (slot off : Nat) (r : SlotRec) (bs : List Byte) : State :=
  let pt := f.at_.pt
  let b := slotBuf (s.ptBufs pt).rx slot f.place
  let data := patch (padTo r.payload b.data) off bs
  if off < chLength data ∧ chLength data ≤ off + bs.length then
    let e := s.enterChunk pt (data.take (chLength data))
    let s := e.s.checked? pt (clusterSuspect s f.c) e.bad
    s.setRx pt { b with data := padTo r.payload e.chunk, preloaded := true, src := f.c }
  else s.setRx pt { b with data, preloaded := true, src := f.c }

/-! ## Graft regions (R310, R311, R314) -/

/-- Partition address of region k of a graft record. -/
def graftRegion (img : List Byte) (g : GraftRec) (k : Nat) : Nat := graftBase img g.port + g.bufOff + k * g.bufBytes

/-- Absolute port of a relative one. -/
def absPort (s : State) (pt p : Nat) : Nat := (ptPorts s pt).getD p 0

/-- Bytes from a partition address, by lines. -/
def ptRead (s : State) (pt a n : Nat) : List Byte :=
  ((readLines s pt (a / 64 * 64) (ceilDiv (a % 64 + n) 64)).flatten.drop (a % 64)).take n

/-- Write bytes at a partition address in Crown. -/
def ptWrite (s : State) (pt a : Nat) (bs : List Byte) : State :=
  match resolve s pt a with
  | .crown g off => writeN s (crownBase g + off) bs
  | _ => s

/-- The elements of a graft region on the Azevo side, exactly (Table 11-11). -/
def graftElems (g : GraftRec) (bs : List Byte) : List Ext :=
  (List.range g.elements).map fun i =>
    if g.fmt = 0xC then (chBlock bs (i / 32)).elem (i % 32)
    else if g.fmt = 0xA then ofF32 (f32At bs (4 * i))
    else rowElem bs g.fmt g.elements i

/-- One scale per message (R311). -/
def graftScale (top : Int) (l : List Ext) : Int :=
  let m := ((l.filter Ext.isFin).map Ext.abs).foldl Ext.max .zero
  if m.isZero then 0 else ceilLog m - top

/-- The partner's wire bytes of a region (Table 11-11; PRESUMED, log entry 11). A copy that is already in the wire format
passes unchanged, to Yelger with the scale 1.0 (DESIGN CHOICE, log entry 11). -/
def graftWire (yelger : Bool) (g : GraftRec) (bs : List Byte) : List Byte :=
  let l := graftElems g bs
  let wire := if !yelger then 2 else if g.kind = 1 then 1 else 0
  let same := decide (g.kind = 2 ∧ g.fmt = wire)
  if !yelger then
    if same then bs.take (2 * g.elements) else l.flatMap fun v => toLE 2 (encodeN (elemFmt 2) .near v).1
  else if same then toLE 4 0x3F800000 ++ bs.take g.elements
  else
    let k := graftScale (if g.kind = 1 then 15 else 8) l
    toLE 4 (rne (.fin false 1 k)).toNat ++ l.flatMap fun v => toLE 1 (encodeN (elemFmt wire) .near (v.scale (-k))).1

/-- The image's relative port speaks Yelger's link. -/
def isYelger (img : List Byte) (p : Nat) : Bool := manPortMode img p == 3

/-- Bytes of a region's contents. -/
def graftBytes (g : GraftRec) : Nat :=
  if g.fmt = 0xC then 64 + 72 * ceilDiv g.elements 32
  else if g.fmt = 0xA then 4 * g.elements
  else rowBytes g.fmt g.elements

/-- The state of an egress region of a partition. -/
def graftOutAt (s : State) (pt addr : Nat) : Option GraftOut := (s.ptBufs pt).graftOut.find? fun e => e.addr == addr

/-- The ranges cover bytes 0 to n - 1. -/
def coversAll (n : Nat) (l : List (Nat × Nat)) : Bool :=
  (l.foldl (fun (left : List (Nat × Nat)) r => left.flatMap (leftOf r.1 (r.1 + r.2))) [(0, n)]).isEmpty

/-- A line of an LKTX lands in an egress region; the region's contents leave once every byte of them is there, under the older
generation's encryption (R308, R311, R314). -/
def State.graftLine (s : State) (f : Flight) (idx off : Nat) (bs : List Byte) : State :=
  let pt := f.at_.pt
  let img := stepImage s pt
  let g := graftRec img idx
  let port := absPort s pt g.port
  let a := graftRegion img g 0
  let s := ptWrite s pt (a + off) bs
  let e := (graftOutAt s pt a).getD { port, idx, addr := a }
  let fed := e.fed ++ [(off, bs.length)]
  let sends := coversAll (graftBytes g) fed
  let e := { e with port, idx, fed := if sends then [] else fed, sending := sends }
  let s := s.setBufs pt { s.ptBufs pt with graftOut := e :: (s.ptBufs pt).graftOut.filter fun x => x.addr ≠ a }
  let p := s.port port
  if sends then s.emitBough (.graft port
      (Config.graftSeal p.mode p.keyTx (graftWire (isYelger img g.port) g (ptRead s pt a (graftBytes g)))))
  else s

/-! ## LKTX and LKRX (R59, R112, R113, R277, R278, R299, R302) -/

/-- N of a link word. -/
def linkN (w : OpWord) : Nat := wBits w 46 31 + 1

/-- The segment that a link word names, in the image of its step. -/
def linkSeg (s : State) (f : Flight) : SegRec := segRec (stepImage s f.at_.pt) (wBits f.w 62 47)

/-- LKTX at its start: the occurrence that it feeds or preloads, or an egress region that is free (R299, R314). -/
def lktxStart (s : State) (f : Flight) : Start :=
  let pt := f.at_.pt
  let img := stepImage s pt
  let g := linkSeg s f
  if g.graft then
    let k := graftRec img g.slot
    if (graftOutAt s pt (graftRegion img k 0)).any GraftOut.sending then
      (s.wordFault f 0x0101 1 f.t g.slot (ownLink s (absPort s pt k.port)), none)
    else (s, some f)
  else
    let r := slotRec img g.slot
    let c := acPerBeat (flightRun s f).tier
    let done := (f.t + wDur f.w) * 64000
    match r.firstFrom c (if r.dir = 0 then done + 16384 * c else done) with
    | some k => (s, some { f with place := k })
    | none => (s, none)

/-- An LKTX reads line k in ac k; lines beyond the count are fill bytes (R113). -/
def lktxRead (s : State) (f : Flight) (k : Nat) : Flight :=
  if f.cnt ≤ k ∧ k < linkN f.w then { f with lines := f.lines ++ [(k, zeros 64)] } else lineRead f.cnt s f k

/-- A line of an LKTX reaches the port's buffer after the crossing. -/
def lktxWrite (s : State) (f : Flight) (k : Nat) : State :=
  match lineAt (crossing (flightRun s f).tier) f k with
  | none => s
  | some l =>
    let pt := f.at_.pt
    let g := linkSeg s f
    let off := g.offset + 64 * l.1
    if g.graft then s.graftLine f g.slot off l.2
    else
      let r := slotRec (stepImage s pt) g.slot
      if r.dir = 0 then
        let b := slotBuf (s.ptBufs pt).tx g.slot f.place
        s.setTx pt { b with data := patch (padTo r.payload b.data) off l.2 }
      else s.preload f g.slot off r l.2

/-- LKRX at its start: the latest landed occurrence; a missed broadcast leaves bytes that the manual does not name, and needs
no readiness test (R299, R302). -/
def lkrxStart (s : State) (f : Flight) : Start :=
  let pt := f.at_.pt
  let run := flightRun s f
  let img := stepImage s pt
  let g := linkSeg s f
  if g.graft then (s, some f)
  else
    let r := slotRec img g.slot
    match r.lastBy (manLmax img r.port) (acPerBeat run.tier) (f.t * 64000) with
    | none => (s, none)
    | some k =>
      let b := slotBuf (s.ptBufs pt).rx g.slot k
      if b.arrived then (s, some { f with place := k })
      else if r.type = 2 ∧ (run.replay ∨ afterCommit img r k) then
        ({ s with freeCtr := s.freeCtr + 1 },
          some { f with place := k, bytes := (List.range (64 * f.cnt)).map (Config.freeByte s.freeCtr) })
      else (s.wordFault f 0x0102 2 f.t g.slot (linkSuspect s (absPort s pt r.port)), none)

/-- Line k of what an LKRX takes from a landing buffer or a graft region. -/
def landedLine (s : State) (f : Flight) (k : Nat) : List Byte :=
  let pt := f.at_.pt
  let img := stepImage s pt
  let g := linkSeg s f
  if g.graft then
    ptRead s pt (graftRegion img (graftRec img g.slot) ((flightRun s f).graftStep.toNat % 2) + g.offset + 64 * k) 64
  else if f.bytes.isEmpty then padTo 64 ((slotBuf (s.ptBufs pt).rx g.slot f.place).data.drop (g.offset + 64 * k))
  else (f.bytes.drop (64 * k)).take 64

/-- An LKRX takes line k in ac k, as far as its count reaches, and writes it after the crossing (R113). -/
def lkrxRead (s : State) (f : Flight) (k : Nat) : Flight :=
  if k < f.cnt then { f with lines := f.lines ++ [(k, landedLine s f k)] } else f
def lkrxWrite (s : State) (f : Flight) (k : Nat) : State :=
  match lineAt (crossing (flightRun s f).tier) f k with
  | some l => spadW s f.c (wSrc f.w + 64 * l.1) l.2
  | none => s

end Sys2Proof.Machine
end

