-- ==== Sys2Proof/Machine/Stash.lean ====
section
/-!
DEFINITION. The activation stash (07): zero-run compression, placement, what STPUSH and STPOP do in each of their ac, and the
traffic of records outside Crown. The manual sizes the regions and does not place them; log entry 25 says where the model
puts them.
-/

namespace Sys2Proof.Machine

/-! ## Zero-run compression (R178) -/

/-- Bytes in groups of four; a last shorter group stays short. -/
def groups4 : List Byte → List (List Byte)
  | a :: b :: c :: d :: r => [a, b, c, d] :: groups4 r
  | [] => []
  | r => [r]

/-- A presence map: one bit for each word, as a little-endian bit string. -/
def presence : List Bool → List Byte
  | a :: b :: c :: d :: e :: f :: g :: h :: r =>
    BitVec.ofNat 8 (b2n a + 2 * b2n b + 4 * b2n c + 8 * b2n d + 16 * b2n e + 32 * b2n f + 64 * b2n g + 128 * b2n h)
      :: presence r
  | _ => []

/-- The compressed form of a block's bytes, with its zero padding. -/
def zeroRun (bs : List Byte) : List Byte :=
  let ws := groups4 bs
  let body := presence (ws.map fun w => !allZero w) ++ (ws.filter fun w => !allZero w).flatten
  body ++ zeros (64 * ceilDiv body.length 64 - body.length)

/-- Bits of a presence map, in word order. -/
def presenceBits (map : List Byte) : List Bool := map.flatMap fun b => (List.range 8).map fun i => b.getLsbD i

/-- Words back from the presence bits and the non-zero words. -/
def fillWords : List Bool → List Byte → List Byte
  | [], _ => []
  | false :: bs, ws => [0, 0, 0, 0] ++ fillWords bs ws
  | true :: bs, ws => ws.take 4 ++ fillWords bs (ws.drop 4)

/-- The stored form of a block: compressed where that is smaller, raw otherwise. -/
def storeBlock (bs : List Byte) : List Byte := if (zeroRun bs).length < bs.length then zeroRun bs else bs

/-- A stored block of L lines read back; a stored size of 64 L is a raw block. -/
def loadBlock (lines : Nat) (st : List Byte) : List Byte :=
  if st.length = 64 * lines then st else fillWords (presenceBits (st.take (2 * lines))) (st.drop (2 * lines))

/-- The 16-line blocks of a record of n lines, each with its lines. -/
def stashBlocks (n : Nat) (bs : List Byte) : List (Nat × List Byte) :=
  (List.range (ceilDiv n 16)).map fun j => (min 16 (n - 16 * j), (bs.drop (1024 * j)).take 1024)

/-! ## Placement (R179, R181, R182, R185) -/

/-- Bytes of a cluster's compressed region. -/
def stashRoom (img : List Byte) : Nat := manStashCrown img + manStashHbm img

/-- Occupied bytes of the compressed region. -/
def stashUsed (l : List StashRec) : Nat :=
  (l.flatMap fun r => (r.blocks.filter fun b => !b.spilt).map fun b => b.bytes.length).sum

/-- The overflow region holds part of the stack. -/
def stashOver (l : List StashRec) : Bool := l.any fun r => r.blocks.any fun b => b.spilt

/-- N of a stash word and its TAG. -/
def stashN (w : OpWord) : Nat := wBits w 46 31 + 1
def stashTag (w : OpWord) : Nat := wBits w 62 47

/-- ac of block j's placement and readiness test in a push of n lines (R182). -/
def pushTestAc (n j : Nat) : Nat := min (16 * j + 23) (n + 7)

/-- The block that a push of n lines places in ac k. -/
def pushBlock (n k : Nat) : Option Nat := (List.range (ceilDiv n 16)).find? fun j => pushTestAc n j = k

/-- Change the first record of a stack that satisfies p. -/
def updFirst (p : StashRec → Bool) (f : StashRec → StashRec) : List StashRec → List StashRec
  | [] => []
  | r :: rs => if p r then f r :: rs else r :: updFirst p f rs

/-- The stored form of a block is raw. -/
def StashBlk.raw (b : StashBlk) : Bool :=
  decide ((if b.spilt then storeBlock b.bytes else b.bytes).length = 64 * b.lines)

/-- Put a block into the record of a push, and count it (R179, R185). A block whose stored form is raw counts in RAW_BLOCKS
wherever it goes (Table 7-5 and its worked example). -/
def State.putBlock (s : State) (f : Flight) (b : StashBlk) : State :=
  let y := s.cluster f.c
  let l := updFirst (fun r => r.born == f.t) (fun r => { r with
    at_ := if r.blocks.isEmpty then stashUsed y.stash else r.at_, blocks := r.blocks ++ [b] }) y.stash
  (s.setCluster f.c { y with stash := l }).updRun f.at_.pt fun r => { r with
    ovfBlocks := r.ovfBlocks + b2n b.spilt, rawBlocks := r.rawBlocks + b2n b.raw,
    peakStored := max r.peakStored (ceilDiv (stashUsed l) 64) }

/-- A block has not fitted in a compressed region: FULL_BEAT keeps the earliest beat. In overflow mode too the model takes the
beat of the test that R182 places for compressed-only mode (DESIGN CHOICE, log entry 25). -/
def StepRun.noteFull (r : StepRun) (ac : Nat) : StepRun :=
  let b := ac / acPerBeat r.tier
  { r with fullBeat := some (match r.fullBeat with
    | some x => min x b
    | none => b) }

/-- Place block j of a push in ac k of its word (R179, R181, R182); after a failed test the push places no more. -/
def State.placeBlock (s : State) (f : Flight) (k j lines : Nat) (bs : List Byte) : State :=
  let y := s.cluster f.c
  let img := stepImage s f.at_.pt
  if !(y.stash.any fun r => r.born == f.t && r.blocks.length == j) then s
  else
    let st := storeBlock bs
    let fits := decide (stashUsed y.stash + st.length ≤ stashRoom img)
    let s := if fits then s else s.updRun f.at_.pt fun r => r.noteFull (f.t + k)
    if !stashOver y.stash && fits then s.putBlock f ⟨lines, st, false⟩
    else if manStashMode img = 1 then s.wordFault f 0x0107 7 (f.t + k) 0 (s.suspect 0 0)
    else s.putBlock f ⟨lines, bs, true⟩

/-! ## STPUSH and STPOP (R176, R177, R183) -/

/-- STPUSH at its start: an empty record at the top of the cluster's stack. -/
def stpushStart (s : State) (f : Flight) : Start :=
  let y := s.cluster f.c
  let r := flightRun s f
  let e : StashRec := { tag := stashTag f.w, n := stashN f.w, born := f.t, at_ := 0, blocks := [],
                        pushEnd := r.start + BitVec.ofNat 64 ((f.t + wDur f.w - 1) / acPerBeat r.tier) }
  (s.setCluster f.c { y with stash := e :: y.stash }, some f)

/-- An STPUSH reads line k in ac k. -/
def stpushRead (s : State) (f : Flight) (k : Nat) : Flight := lineRead (stashN f.w) s f k

/-- An STPUSH places a block 8 ac after the block's last line has left the scratchpad. -/
def stpushWrite (s : State) (f : Flight) (k : Nat) : State :=
  match pushBlock (stashN f.w) k with
  | none => s
  | some j =>
    let ls := f.lines.filter fun l => l.1 / 16 = j
    s.placeBlock f k j ls.length (ls.flatMap (·.2))

/-- The stored bytes of a record in the compressed region, and in the overflow region. -/
def StashRec.comp (r : StashRec) : List Byte := (r.blocks.filter fun b => !b.spilt).flatMap fun b => b.bytes
def StashRec.ovf (r : StashRec) : List Byte := (r.blocks.filter fun b => b.spilt).flatMap fun b => b.bytes

/-- A record's bytes from what the two regions hold of it. -/
def restoreBlocks : List StashBlk → List Byte → List Byte → List Byte
  | [], _, _ => []
  | b :: bs, c, o =>
    if b.spilt then o.take b.bytes.length ++ restoreBlocks bs c (o.drop b.bytes.length)
    else loadBlock b.lines (c.take b.bytes.length) ++ restoreBlocks bs (c.drop b.bytes.length) o

/-- The record has a byte outside Crown. -/
def StashRec.outside (r : StashRec) (img : List Byte) : Bool :=
  !r.ovf.isEmpty || decide (manStashCrown img < r.at_ + r.comp.length)

/-- What an STPOP delivers: a record wholly in Crown from the compressed region, any other from the staging area, whose bytes
are free where no fetch has filled it (R180). -/
def popBytes (s : State) (img : List Byte) (r : StashRec) : List Byte :=
  if r.outside img then r.staged.getD ((List.range (64 * r.n)).map (Config.freeByte s.freeCtr))
  else restoreBlocks r.blocks r.comp r.ovf

/-- STPOP at its start: the newest record leaves the stack, where its TAG and N agree (R176, R183). -/
def stpopStart (s : State) (f : Flight) : Start :=
  let y := s.cluster f.c
  match y.stash with
  | r :: rs =>
    if r.tag = stashTag f.w ∧ r.n = stashN f.w then
      ({ s.setCluster f.c { y with stash := rs } with freeCtr := s.freeCtr + 1 },
        some { f with bytes := popBytes s (stepImage s f.at_.pt) r })
    else (s.wordFault f 0x0204 0 f.t 0 (clusterSuspect s f.c), none)
  | [] => (s.wordFault f 0x0204 0 f.t 0 (clusterSuspect s f.c), none)

/-- An STPOP writes line i in ac 104 + i. -/
def stpopWrite (s : State) (f : Flight) (k : Nat) : State :=
  if k < 104 ∨ stashN f.w ≤ k - 104 then s
  else spadW s f.c (wSrc f.w + 64 * (k - 104)) ((f.bytes.drop (64 * (k - 104))).take 64)

/-! ## Records outside Crown (R180; places: DESIGN CHOICE, log entry 25) -/

/-- The stack that holds a relative cluster's part of the compressed region: the first of its grove's; on QZ-A812 the second
of the pair for the odd grove. -/
def stashStack (s : State) (pt cl : Nat) : Nat :=
  let g := absCluster s pt cl / 100
  let l := groveStacks s.variant g
  match s.variant with
  | .a816 => l.getD 0 0
  | .a812 => l.getD (g % 2) 0

/-- Stack byte of a line of the compressed region that lies outside Crown: the regions of a grove's clusters follow one another in
the order of the clusters, and end where the image's use of the stack ends. A region of STASH_HBM bytes has at most that many
lines, rounded up, that lie outside Crown, a straddling one among them. -/
def stashHbm (s : State) (img : List Byte) (pt cl line : Nat) : Nat :=
  let used := manHbmUsed img (relStack s pt (stashStack s pt cl)) / 64
  let each := ceilDiv (manStashHbm img) 64
  64 * (used - 100 * each + cl % 100 * each + (line - manStashCrown img / 64))

/-- Device line of a line of a relative cluster's overflow region: the regions end where the image's use of outer memory
ends. -/
def stashOuter (s : State) (img : List Byte) (pt cl line : Nat) : Nat :=
  let each := ceilDiv (manStashOver img) 64
  64 * firstPage s pt + (manOuterUsed img / 64 - 100 * ptSize s pt * each) + cl * each + line

/-- The lines of a record that lie in HBM: line number in the compressed region and bytes. -/
def StashRec.hbmLines (r : StashRec) (img : List Byte) : List (Nat × List Byte) :=
  ((List.range (r.comp.length / 64)).map fun i => (r.at_ / 64 + i, (r.comp.drop (64 * i)).take 64)).filter fun l =>
    decide (manStashCrown img < 64 * l.1 + 64)

/-- The lines of a record that lie in the overflow region, above `below` bytes of older records. -/
def StashRec.ovfLines (r : StashRec) (below : Nat) : List (Nat × List Byte) :=
  (List.range (r.ovf.length / 64)).map fun i => (below / 64 + i, (r.ovf.drop (64 * i)).take 64)

/-- The records of a stack, newest first, each with the overflow bytes below it. -/
def withBelow : List StashRec → List (StashRec × Nat)
  | [] => []
  | r :: rs => (r, (rs.flatMap StashRec.ovf).length) :: withBelow rs

/-- Change a cluster's record that was born at a stream time. -/
def State.updRec (s : State) (c born : Nat) (f : StashRec → StashRec) : State :=
  let y := s.cluster c
  s.setCluster c { y with stash := updFirst (fun r => r.born == born) f y.stash }

/-- STASH_WRITEBACK: in the beat after a push ends, its record's bytes outside Crown are written (R180, R245, R246). -/
def stashWritebackEffect (pt cl : Nat) (s : State) : State :=
  match (s.part pt).working with
  | none => s
  | some r =>
    let c := absCluster s pt cl
    let img := (s.part pt).image r
    s.each ((withBelow (s.cluster c).stash).filter fun e =>
        e.1.outside img && !e.1.written && e.1.pushEnd + 1 == s.cmb.beat) fun s e =>
      let s := s.each (e.1.hbmLines img) fun s l => hbmWrite s (stashStack s pt cl) (stashHbm s img pt cl l.1) l.2
      let s := s.each (e.1.ovfLines e.2) fun s l => s.omStepWrite pt (stashOuter s img pt cl l.1) 0 l.2
      s.updRec c e.1.born fun x => { x with written := true }

/-- Pushes and pops of a relative cluster that are still to start: their start ac, and whether they push. -/
def stashAhead (s : State) (pt cl : Nat) (r : StepRun) : List (Nat × Bool) :=
  [Stream.f, Stream.b, Stream.u].flatMap fun st =>
    let ws := timedWords (secStream ((s.part pt).image r) r.tier cl (streamNum st))
    (ws.drop (mget {} (s.cluster (absCluster s pt cl)).streams (streamNum st) : StreamSt).words).filterMap fun w =>
      if wOp w.2 = 0x38 then some (w.1, true) else if wOp w.2 = 0x39 then some (w.1, false) else none

/-- Insert by start ac. -/
def insertAhead (x : Nat × Bool) : List (Nat × Bool) → List (Nat × Bool)
  | [] => [x]
  | y :: ys => if x.1 < y.1 then x :: y :: ys else y :: insertAhead x ys

/-- The records of a stack that pops remove in ac lo to hi - 1, pushes and pops running in their order; a push that is still
to start stands as none. -/
def popsIn (lo hi : Nat) : List (Nat × Bool) → List (Option StashRec) → List StashRec
  | [], _ => []
  | (_, true) :: es, l => popsIn lo hi es (none :: l)
  | (_, false) :: es, [] => popsIn lo hi es []
  | (t, false) :: es, x :: l =>
    (if lo ≤ t ∧ t < hi then x.toList else []) ++ popsIn lo hi es l

/-- The bytes of a record outside Crown as the two memories hold them: HBM bursts with their poison, overflow lines delivered
before their MAC is checked (R180, R216, R217, R242). -/
def State.fetchRec (s : State) (pt cl : Nat) (img : List Byte) (e : StashRec × Nat) (ecc : List EccObs) : State :=
  let hl := e.1.hbmLines img
  let h := stashStack s pt cl
  let a := s.stepRead pt h (stashHbm s img pt cl ((hl.map (·.1)).headD 0)) hl.length ecc
  let s := if hl.isEmpty then s else a.1
  let ol := (e.1.ovfLines e.2).map fun l => stashOuter s img pt cl l.1
  let s := s.each ol fun s l => s.expectCheck l 1
  let comp := e.1.comp.take (e.1.comp.length - 64 * hl.length) ++ (if hl.isEmpty then [] else a.2.flatten)
  let bytes := restoreBlocks e.1.blocks comp (ol.flatMap (omRead s))
  s.updRec (absCluster s pt cl) e.1.born fun x => { x with staged := some bytes }

/-- STASH_FETCH: in the beat eight before the one in which its STPOP starts, every record with a byte outside Crown is read
into the staging area. -/
def stashFetchEffect (pt cl : Nat) (ecc : List EccObs) (s : State) : State :=
  match (s.part pt).working with
  | none => s
  | some r =>
    let l := (s.cluster (absCluster s pt cl)).stash
    let img := (s.part pt).image r
    let c := acPerBeat r.tier
    let ahead := (stashAhead s pt cl r).foldl (fun l x => insertAhead x l) []
    let due := popsIn ((s.offset r + 8) * c) ((s.offset r + 9) * c) ahead (l.map some)
    s.each ((withBelow l).filter fun e => e.1.outside img && e.1.staged.isNone && due.any fun d => d.born == e.1.born)
      fun s e => s.fetchRec pt cl img e ecc

/-! ## Meanings -/

def execStashWriteback (pt cl : Nat) (s : State) := checked (.stashWriteback pt cl) s (stashWritebackEffect pt cl s)
def execStashFetch (pt cl : Nat) (ecc : List EccObs) (s : State) :=
  checked (.stashFetch pt cl ecc) s (stashFetchEffect pt cl ecc s)

end Sys2Proof.Machine
end

