-- ==== Sys2Proof/Machine/Cycles.lean ====
section
/-!
DEFINITION. Stream time (04, R101 to R104, R111, R136): what a word under way reads and writes in each of its ac, the ac of
every cluster of a partition in one order, and what a step that is dropped leaves of its words.
-/

namespace Sys2Proof.Machine

/-! ## The ac of one word (R111, R522, Table 4-5) -/

/-- What a word reads in its ac k, from the state at the start of that ac (R102). -/
def readAc (s : State) (f : Flight) (k : Nat) : Flight :=
  match f.op with
  | 0x10 => wldRead s f k
  | 0x11 => if k < 64 then wldtRead s f k else f
  | 0x12 => mmRead s f k
  | 0x13 => mmtRead s f k
  | 0x20 => chainRead s f k
  | 0x22 => vmoveRead s f k
  | 0x30 => ldcRead s f k
  | 0x31 => lineRead (crownN f.w) s f k
  | 0x32 => lineRead (sendN f.w) s f k
  | 0x33 => lineRead (sendN f.w) s f k
  | 0x34 => lktxRead s f k
  | 0x35 => lkrxRead s f k
  | 0x38 => stpushRead s f k
  | _ => f

/-- What a word writes in its ac k over its cluster's own accesses, XA excepted. -/
def writeAc (s : State) (f : Flight) (k : Nat) : State :=
  match f.op with
  | 0x10 => wldWrite s f k
  | 0x11 => wldtWrite s f k
  | 0x13 => mmtFilled s f k
  | 0x20 => chainWrite s f k
  | 0x21 => vrouteWrite s f k
  | 0x22 => vmoveWrite s f k
  | 0x30 => ldcWrite s f k
  | 0x31 => stcWrite s f k
  | 0x33 => gvsendWrite s f k
  | 0x34 => lktxWrite s f k
  | 0x35 => lkrxWrite s f k
  | 0x38 => stpushWrite s f k
  | 0x39 => stpopWrite s f k
  | _ => s

/-- The word is a pass of the array. -/
def Flight.isPass (f : Flight) : Bool := f.op == 0x12 || f.op == 0x13

/-! ## One ac of a partition -/

/-- The ac of a word at stream time t. -/
def Flight.acAt (f : Flight) (t : Nat) : Nat := t - f.t

/-- The word still acts at stream time t. -/
def Flight.alive (f : Flight) (t : Nat) : Bool := decide (t < f.t + wDur f.w)

/-- One ac of every cluster of a partition: swaps of weight buffers (R119); every read, of the state at the start of the ac
(R102); the cluster-side writes, in ascending cluster (R328); XA's, formed from the state at the start of the ac (R136); the
writes that come in over the fabric (R101). -/
def State.cycle (s : State) (pt : Nat) : State :=
  match (s.part pt).cur with
  | none => s
  | some r =>
    let t := r.clock
    let old := s.each (r.flights.filter Flight.isPass) fun s f => passBegin s f (f.acAt t)
    let fs := r.flights.map fun f => readAc old f (f.acAt t)
    let s := old.each fs fun s f => writeAc s f (f.acAt t)
    let s := s.each (fs.filter Flight.isPass) fun s f => passWrite old s f (f.acAt t)
    let s := s.each (fs.filter fun f => f.op == 0x32) fun s f => sendWrite s f (f.acAt t)
    let s := s.each r.emits fun s e => e.land s t
    s.updRun pt fun r => { r with
      clock := t + 1, flights := fs.filter fun f => f.alive (t + 1), emits := r.emits.filter fun e => !e.done (t + 1) }

/-- Nothing of a partition's step is under way. -/
def quiet (s : State) (pt : Nat) : Bool :=
  match (s.part pt).cur with
  | some r => r.flights.isEmpty && r.emits.isEmpty
  | none => true

/-- At most n ac. -/
def State.cycles : Nat → Nat → State → State
  | 0, _, s => s
  | n + 1, pt, s => if quiet s pt then s else State.cycles n pt (s.cycle pt)

/-- Stream time of a partition's step runs on to ac t. -/
def State.advance (s : State) (pt t : Nat) : State :=
  match (s.part pt).cur with
  | none => s
  | some r => (State.cycles (t - r.clock) pt s).updRun pt fun r => { r with clock := max r.clock t }

/-- Stream time runs to the end of the beat that runs. -/
def State.advanceBeat (s : State) (pt : Nat) : State :=
  match (s.part pt).running with
  | none => s
  | some r => s.advance pt ((s.offset r + 1) * acPerBeat r.tier)

/-- The ac of a step that holds an instant u, in 1/64 ns from its start beat (R76). -/
def acOfTime (tier u : Nat) : Nat := u * acPerBeat tier / 64000

/-- Stream time runs on to an instant of the step. -/
def State.advanceTo (s : State) (pt u : Nat) : State :=
  match (s.part pt).running with
  | none => s
  | some r => s.advance pt (acOfTime r.tier u)

/-! ## The bytes that a word writes (R110, R163, R348) -/

/-- One past the last byte of n elements of a vector stream (R117, R139, Table 12-1, R320). -/
def vecEnd (fmt row n base : Nat) : Nat :=
  if fmt = 0xA then base + 4 * n
  else if fmt = 0xB then base + 262144 + 4 * n
  else if fmt = 0xC then base + 72 * ceilDiv n 32
  else if fmt = 0xD then base + 16 * ceilDiv n 32
  else if isMx fmt then base + ceilDiv n (max row 1) * rowBytes fmt row
  else base + ceilDiv (n * (elemFmt fmt).width) 8

/-- The chain writes its FUSE_ADDR: it ends in a CVT to RB1, or in one to RB16 of a thinned tensor (R321, R322). -/
def writesFuse (thin : Nat → Bool) (d : List Byte) : Bool :=
  match dCvt d with
  | some g => g.fmt == 0xD || (g.fmt == 0xC && thin (dTensor d))
  | none => false

/-- E − 1 and row length of a VMOVE word. -/
def moveE (w : OpWord) : Nat := wBits w 63 52 + 1
def moveR (w : OpWord) : Nat := wBits w 51 46 + 1

/-- X of a VROUTE word. -/
def routeX (w : OpWord) : Nat := wBits w 51 44 + 1

/-- Scratchpad ranges that a word with a descriptor writes in its own cluster or its target: first byte and length. The rows
that COMBINE adds to are those of its records' tokens; without them the first E rows stand for them. -/
def wordRegions (thin : Nat → Bool) (w : OpWord) (d : List Byte) : List (Nat × Nat) :=
  match wOp w with
  | 0x20 =>
    let e := chainE w
    let dst := 32 * dDstAddr d
    (if dDstKind d = 0 then [(dst, vecEnd (dDstFmt d) (dRow d) e dst - dst)] else []) ++
      (if writesFuse thin d then [(32 * dFuseAddr d, 4 * e)] else []) ++
      ((dStages d).filter fun g => isReduction g.op).map fun g => (32 * g.addr, 4 * (e / max (dRow d) 1))
  | 0x21 =>
    let rx := routeX w
    ((List.range (getLE d 2 1)).flatMap fun k =>
      let o := rtBucketOff rx k
      [(32 * getLE d o 4, 8 * getLE d (o + 8) 4), (32 * getLE d (o + 4) 4, 64)]) ++
      (if bitAt (getLE d 3 1) 0 then [(32 * getLE d 12 4, 8 * rx)] else [])
  | 0x22 =>
    if getLE d 1 1 = 3 then []
    else (List.range (moveE w)).map fun i => (32 * (getLE d 16 4 + i * getLE d 20 4), 64 * moveR w)
  | 0x30 => [(wSrc w, 64 * crownN w)]
  | 0x32 => [(32 * wBits w 62 46, 64 * sendN w)]
  | 0x35 => [(wSrc w, 64 * linkN w)]
  | 0x39 => [(wSrc w, 64 * stashN w)]
  | _ => []

/-- The cluster whose scratchpad a word writes. -/
def destCluster (s : State) (f : Flight) : Nat :=
  if f.op = 0x32 then absCluster s f.at_.pt (sendDst f.w) else f.c

/-- Device bytes that a word under way writes: scratchpad, accumulator rows, Crown lines, an egress region. -/
def flightDest (s : State) (f : Flight) : List (Nat × Nat) :=
  let spad := (wordRegions (thinned s f.at_.pt) f.w f.desc).map fun r => (spadBase (destCluster s f) + r.1, r.2)
  let rows := if f.isPass && wBits f.w 22 21 != 3 then
      ((List.range f.cnt).filter fun m => f.op == 0x12 || maskRow f.desc m).map fun m =>
        (accBase f.c + (accRowAt f.w m).1, (accRowAt f.w m).2)
    else []
  let acc := if f.op = 0x20 ∧ dDstKind f.desc = 1 then
      [(accBase f.c + 64 * dDstAddr f.desc, (if dDstFmt f.desc = 0xB then 8 else 4) * chainE f.w)]
    else []
  let tokens := if f.op = 0x22 ∧ mvMode f.desc = 1 then
      (List.range f.cnt).filterMap fun i =>
        let a := mvDst f (mvRecord s f i).1
        if a + mvLen f.w ≤ spadSize then some (spadBase f.c + a, mvLen f.w) else none
    else []
  let crown := if f.op = 0x31 then [(f.place, 64 * crownN f.w)] else []
  let graft := if f.op = 0x34 ∧ (linkSeg s f).graft then
      match resolve s f.at_.pt (graftRegion (stepImage s f.at_.pt) (graftRec (stepImage s f.at_.pt) (linkSeg s f).slot) 0) with
      | .crown g off => [(crownBase g + off + (linkSeg s f).offset, 64 * linkN f.w)]
      | _ => []
    else []
  spad ++ rows ++ acc ++ tokens ++ crown ++ graft

/-- Bytes whose contents the manual leaves undefined take free values. -/
def State.freeBytes (s : State) (a n : Nat) : State :=
  writeN { s with freeCtr := s.freeCtr + 1 } a ((List.range n).map (Config.freeByte s.freeCtr))

/-- Device bytes of the windows whose fill is still landing when a step is dropped (R229). -/
def fillingBytes (s : State) (pt : Nat) (r : StepRun) : List (Nat × Nat) :=
  (s.mb.windows.filter fun w => w.pt == pt && w.entry.fill && decide (s.offset r ≤ w.entry.fillBeat + 1)).map fun w =>
    (windowAddr s pt w.grove w.entry, 64 * w.entry.lines)

/-- What a step is part-way through when it is dropped is abandoned, and what it was writing holds undefined values (R148,
R348): every byte that a word under way writes, before the drop or after it (DESIGN CHOICE, log entry 24). -/
def State.abandon (s : State) (pt : Nat) : State :=
  match (s.part pt).cur with
  | none => s
  | some r =>
    let sums := r.emits.map fun e => (spadBase e.c + e.spa, e.bytes.length)
    s.each (r.flights.flatMap (flightDest s) ++ sums ++ fillingBytes s pt r) fun s x => s.freeBytes x.1 x.2

/-- A running step is dropped at the boundary that ends the beat (R348). -/
def State.dropNow (s : State) (pt : Nat) : State := (((s.advanceBeat pt).abandon pt).dropStep pt)

/-- A step with a fault of this beat or a notice taken in is dropped, before its commit (R348). -/
def State.dropFaulted (s : State) (pt : Nat) : State :=
  match (s.part pt).running with
  | some r => if r.faulted ∨ r.noticed then s.dropNow pt else s
  | none => s

end Sys2Proof.Machine
end

