-- ==== Sys2Proof/Machine/Words.lean ====
section
/-!
DEFINITION. Operation words as commands (04, R104, R107, R113): the descriptors that a word names in its stream section, how a
word of the running step starts, and the meanings of the words and of GVE_EMIT.
-/

namespace Sys2Proof.Machine

/-! ## The descriptors of a stream section (R138, R171, R188, R200) -/

/-- The descriptor slots of a stream section from the one that a word names. -/
def chainDesc (sec : List Byte) (w : OpWord) : List Byte := sec.drop (64 + 16 * getLE sec 0 4 + 64 * wBits w 79 64)

/-- T of a VROUTE word, and its k. -/
def routeT (w : OpWord) : Nat := wBits w 63 52 + 1
def routeK (w : OpWord) : Nat := wBits w 43 41 + 1

/-- DESC of a VCHAIN, VROUTE or VMOVE word. -/
def wDesc (w : OpWord) : Nat := wBits w 79 64

/-- Descriptor slots that a word names, by their number (R138, R188, R200). -/
def descSlots (sec : List Byte) (w : OpWord) : Nat :=
  if wOp w = 0x20 then 2
  else if wOp w = 0x21 then 1 + ceilDiv (routeX w) 8 + ceilDiv (getLE (chainDesc sec w) 2 1) 4
  else if wOp w = 0x22 then 1
  else 0

/-- The slot numbers that the words of a section name. -/
def namedSlots (sec : List Byte) : List Nat :=
  (streamWords sec).flatMap fun w => (List.range (descSlots sec w)).map (wDesc w + ·)

/-- A mask descriptor of a section (R171): its slot and bytes. -/
structure MaskDesc where
  slot : Nat
  bytes : List Byte
deriving DecidableEq, Repr

/-- Slots of a mask descriptor (R171). -/
def MaskDesc.slots (m : MaskDesc) : Nat := if getLE m.bytes 2 1 = 0 then 3 else 1

/-- The mask descriptors from slot i on: a slot of TYPE 04h that no word names and no earlier mask holds. -/
def masksFrom (sec : List Byte) (named : List Nat) : Nat → Nat → List MaskDesc
  | 0, _ => []
  | fuel + 1, i =>
    if getLE sec 4 4 ≤ i then []
    else
      let d := sec.drop (64 + 16 * getLE sec 0 4 + 64 * i)
      let m : MaskDesc := ⟨i, d.take 192⟩
      if !named.contains i && getLE d 0 1 == 4 then m :: masksFrom sec named fuel (i + m.slots)
      else masksFrom sec named fuel (i + 1)

def maskDescs (sec : List Byte) : List MaskDesc := masksFrom sec (namedSlots sec) (getLE sec 4 4) 0

/-- The descriptor of a word: the slots it names; for an MMT the mask with its ID, empty where it has none (R138, R172, R188,
R200). -/
def wordDesc (sec : List Byte) (w : OpWord) : List Byte :=
  if wOp w = 0x13 then
    if wBits w 20 17 = 0 then []
    else (((maskDescs sec).find? fun m => getLE m.bytes 1 1 == wBits w 20 17).map MaskDesc.bytes).getD []
  else (chainDesc sec w).take (64 * descSlots sec w)

/-! ## How a word starts (R72, R104, R107, R113) -/

/-- The count that a word takes at its start (R113). -/
def wordCount (s : State) (c : Nat) (w : OpWord) : Nat :=
  match wOp w with
  | 0x12 => countOf s c w (wBits w 43 40) (passM w)
  | 0x13 => countOf s c w (wBits w 43 40) (passM w)
  | 0x20 => countOf s c w (wBits w 43 40) (chainE w)
  | 0x21 => countOf s c w (wBits w 40 37) (routeT w)
  | 0x22 => countOf s c w (wBits w 45 42) (moveE w)
  | 0x34 => countOf s c w (wBits w 30 27) (linkN w)
  | 0x35 => countOf s c w (wBits w 30 27) (linkN w)
  | _ => 0

/-- What a word does at its start: its readiness test, and the place that it finds (Table 3-1). -/
def startWord (s : State) (f : Flight) : Start :=
  match f.op with
  | 0x00 => (s, none)
  | 0x01 => (s, none)
  | 0x30 => ldcStart s f
  | 0x31 => stcStart s f
  | 0x32 => sendStart s f
  | 0x34 => lktxStart s f
  | 0x35 => lkrxStart s f
  | 0x38 => stpushStart s f
  | 0x39 => stpopStart s f
  | _ => (s, some f)

/-- Words under way stand in ascending cluster, those of one cluster in the order of their starts. -/
def insertFlight (f : Flight) : List Flight → List Flight
  | [] => [f]
  | g :: l => if f.c < g.c then f :: g :: l else g :: insertFlight f l

/-- A word is under way. -/
def State.fly (s : State) (f : Flight) : State :=
  s.updRun f.at_.pt fun r => { r with flights := insertFlight f r.flights }

/-- The state of a word's stream. -/
def streamAt (s : State) (a : WordAt) : StreamSt :=
  mget {} (s.cluster (absCluster s a.pt a.cl)).streams (streamNum a.st)

/-- A stream goes on to its next word. -/
def State.setStream (s : State) (a : WordAt) (y : StreamSt) : State :=
  let c := absCluster s a.pt a.cl
  let x := s.cluster c
  s.setCluster c { x with streams := mput {} x.streams (streamNum a.st) y }

/-- The word under way that starts at stream time t. -/
def newFlight (s : State) (a : WordAt) (w : OpWord) (t : Nat) (d : List Byte) : Flight :=
  let c := absCluster s a.pt a.cl
  { at_ := a, c, idx := (streamAt s a).words, t, w, desc := d, cnt := wordCount s c w }

/-- A word starts. In a replay of broadcasts every word but a receive of a working copy only takes its time (R278). -/
def State.launch (s : State) (replay : Bool) (a : WordAt) (w : OpWord) (t : Nat) (d : List Byte) : State :=
  let f := newFlight s a w t d
  let s := s.setStream a { t, words := (streamAt s a).words + 1, ended := wOp w == 1 }
  if replay && !copyReceive (stepImage s a.pt) w then s
  else
    let x := startWord s f
    match x.2 with
    | some f => x.1.fly f
    | none => x.1

/-- The section of a word's stream in the tier of a step. -/
def wordSec (s : State) (a : WordAt) (r : StepRun) : List Byte :=
  secStream ((s.part a.pt).image r) r.tier a.cl (streamNum a.st)

/-- The word is the next one of its stream in the image of the running step r, and its start ac lies in the beat that runs and
has not passed, and the current limiter has not tripped (R71 to R73, R104, R455). -/
def wordDue (s : State) (a : WordAt) (w : OpWord) (r : StepRun) : Bool :=
  let y := streamAt s a
  let t := y.t + wDelta w
  decide (a.cl < 100 * ptSize s a.pt) && !r.tripped && !y.ended && (streamWords (wordSec s a r))[y.words]? == some w &&
    t / acPerBeat r.tier == s.offset r && decide (r.clock ≤ t)

/-- A word of the running step's stream starts: stream time runs on to its start ac, which lies DELTA after the start of the
word before it. -/
def State.startNext (s : State) (a : WordAt) (w : OpWord) (r : StepRun) : State :=
  let t := (streamAt s a).t + wDelta w
  (s.advance a.pt t).launch r.replay a w t (wordDesc (wordSec s a r) w)

/-- Run a word of an opcode. -/
def State.onWord (s : State) (a : WordAt) (w : OpWord) (op : Nat) : State :=
  match (s.part a.pt).running with
  | none => s
  | some r => if wOp w = op ∧ wordDue s a w r then s.startNext a w r else s

/-- Run a word of an opcode with the descriptor or mask that it names (R138, R171). -/
def State.onDesc (s : State) (a : WordAt) (w : OpWord) (op : Nat) (d : List Byte) : State :=
  match (s.part a.pt).running with
  | none => s
  | some r => if wordDesc (wordSec s a r) w = d then s.onWord a w op else s

/-- Run a VMOVE word of a mode with its descriptor. -/
def State.onMove (s : State) (a : WordAt) (w : OpWord) (mode : Nat) (d : List Byte) : State :=
  if mvMode d = mode then s.onDesc a w 0x22 d else s

/-- NOP: takes its time alone (R107). -/
def nopEffect (a : WordAt) (w : OpWord) (s : State) : State := s.onWord a w 0x00
/-- END: ends its stream (R107). -/
def endWordEffect (a : WordAt) (w : OpWord) (s : State) : State := s.onWord a w 0x01
/-- WLD: loads a weight tile (R118, R120, R522). -/
def wldEffect (a : WordAt) (w : OpWord) (s : State) : State := s.onWord a w 0x10
/-- WLDT: loads a tile across its diagonal (R118, R124). -/
def wldtEffect (a : WordAt) (w : OpWord) (s : State) : State := s.onWord a w 0x11
/-- MM: a pass over rows (R113, R117, R119 to R122, R126 to R129). -/
def mmEffect (a : WordAt) (w : OpWord) (s : State) : State := s.onWord a w 0x12
/-- MMT: a pass over columns (R125, R171 to R174). -/
def mmtEffect (a : WordAt) (w : OpWord) (m : List Byte) (s : State) : State := s.onDesc a w 0x13 m
/-- VCHAIN: a chain of the vector engine (R137 to R147). -/
def vchainEffect (a : WordAt) (w : OpWord) (d : List Byte) (s : State) : State := s.onDesc a w 0x20 d
/-- VROUTE: the router (R188 to R198). -/
def vrouteEffect (a : WordAt) (w : OpWord) (d : List Byte) (s : State) : State := s.onDesc a w 0x21 d
/-- LDC: lines from Crown (R208, R209, R231). -/
def ldcEffect (a : WordAt) (w : OpWord) (s : State) : State := s.onWord a w 0x30
/-- STC: lines to Crown (R208, R209). -/
def stcEffect (a : WordAt) (w : OpWord) (s : State) : State := s.onWord a w 0x31
/-- SEND: lines to another cluster (R22, R36, R100). -/
def sendEffect (a : WordAt) (w : OpWord) (s : State) : State := s.onWord a w 0x32
/-- GVSEND: a chunk to the grove vector engine (R325, R326, R328). -/
def gvsendEffect (a : WordAt) (w : OpWord) (s : State) : State := s.onWord a w 0x33
/-- LKTX: lines to a port's buffer or a graft region (R113, R299, R314). -/
def lktxEffect (a : WordAt) (w : OpWord) (s : State) : State := s.onWord a w 0x34
/-- LKRX: lines from a landing buffer or a graft region (R113, R299, R302). -/
def lkrxEffect (a : WordAt) (w : OpWord) (s : State) : State := s.onWord a w 0x35
/-- STPUSH: a record onto the stash (R176, R179, R181, R182). -/
def stpushEffect (a : WordAt) (w : OpWord) (s : State) : State := s.onWord a w 0x38
/-- STPOP: a record back from it (R176, R177, R183). -/
def stpopEffect (a : WordAt) (w : OpWord) (s : State) : State := s.onWord a w 0x39
/-- GATHER: a VMOVE of mode 0 (R199 to R204). -/
def gatherEffect (a : WordAt) (w : OpWord) (d : List Byte) (s : State) : State := s.onMove a w 0 d
/-- COMBINE: a VMOVE of mode 1 (R199 to R204). -/
def combineEffect (a : WordAt) (w : OpWord) (d : List Byte) (s : State) : State := s.onMove a w 1 d
/-- SCALE_GATHER: a VMOVE of mode 2 (R199 to R204). -/
def scaleGatherEffect (a : WordAt) (w : OpWord) (d : List Byte) (s : State) : State := s.onMove a w 2 d
/-- COUNT_LOAD: a VMOVE of mode 3 (R199 to R204). -/
def countLoadEffect (a : WordAt) (w : OpWord) (d : List Byte) (s : State) : State := s.onMove a w 3 d

/-! ## GVE_EMIT (R101, R328) -/

/-- GVE_EMIT: 56 ac after the last ac of the GVSEND that completed a key its sum begins to land. -/
def gveEmitEffect (pt grove : Nat) (x : KeyAt) (s : State) : State :=
  match (s.part pt).working with
  | none => s
  | some r =>
    if x.ac / acPerBeat r.tier = s.offset r ∧ r.clock ≤ x.ac ∧ grove < ptSize s pt then
      let u := s.advance pt x.ac
      match gveDue u (ptFirst u pt + grove) x.key x.ac with
      | some k => u.gveSend pt grove k x.ac
      | none => s
    else s

/-! ## Meanings -/

def execNop (a : WordAt) (w : OpWord) (s : State) := checked (.nop a w) s (nopEffect a w s)
def execEndWord (a : WordAt) (w : OpWord) (s : State) := checked (.endWord a w) s (endWordEffect a w s)
def execWld (a : WordAt) (w : OpWord) (s : State) := checked (.wld a w) s (wldEffect a w s)
def execWldt (a : WordAt) (w : OpWord) (s : State) := checked (.wldt a w) s (wldtEffect a w s)
def execMm (a : WordAt) (w : OpWord) (s : State) := checked (.mm a w) s (mmEffect a w s)
def execMmt (a : WordAt) (w : OpWord) (m : List Byte) (s : State) := checked (.mmt a w m) s (mmtEffect a w m s)
def execVchain (a : WordAt) (w : OpWord) (d : List Byte) (s : State) :=
  checked (.vchain a w d) s (vchainEffect a w d s)
def execVroute (a : WordAt) (w : OpWord) (d : List Byte) (s : State) :=
  checked (.vroute a w d) s (vrouteEffect a w d s)
def execLdc (a : WordAt) (w : OpWord) (s : State) := checked (.ldc a w) s (ldcEffect a w s)
def execStc (a : WordAt) (w : OpWord) (s : State) := checked (.stc a w) s (stcEffect a w s)
def execSend (a : WordAt) (w : OpWord) (s : State) := checked (.send a w) s (sendEffect a w s)
def execGvsend (a : WordAt) (w : OpWord) (s : State) := checked (.gvsend a w) s (gvsendEffect a w s)
def execLktx (a : WordAt) (w : OpWord) (s : State) := checked (.lktx a w) s (lktxEffect a w s)
def execLkrx (a : WordAt) (w : OpWord) (s : State) := checked (.lkrx a w) s (lkrxEffect a w s)
def execStpush (a : WordAt) (w : OpWord) (s : State) := checked (.stpush a w) s (stpushEffect a w s)
def execStpop (a : WordAt) (w : OpWord) (s : State) := checked (.stpop a w) s (stpopEffect a w s)
def execGather (a : WordAt) (w : OpWord) (d : List Byte) (s : State) :=
  checked (.gather a w d) s (gatherEffect a w d s)
def execCombine (a : WordAt) (w : OpWord) (d : List Byte) (s : State) :=
  checked (.combine a w d) s (combineEffect a w d s)
def execScaleGather (a : WordAt) (w : OpWord) (d : List Byte) (s : State) :=
  checked (.scaleGather a w d) s (scaleGatherEffect a w d s)
def execCountLoad (a : WordAt) (w : OpWord) (d : List Byte) (s : State) :=
  checked (.countLoad a w d) s (countLoadEffect a w d s)
def execGveEmit (pt g : Nat) (k : KeyAt) (s : State) := checked (.gveEmit pt g k) s (gveEmitEffect pt g k s)
def execGveKeyExpiry (pt : Nat) (s : State) := checked (.gveKeyExpiry pt) s (gveKeyExpiryEffect pt s)

end Sys2Proof.Machine
end

