-- ==== Sys2Proof/Machine/Pith.lean ====
section
/-!
DEFINITION. Pith units (10, 12): stack access by tensor area, VERIFY with the replica slices, the clipping coefficient,
the four update rules in PREP, APPLY and REFRESH, COPY, and what a late phase does.
-/

namespace Sys2Proof.Machine

/-! ## FP32 operators of the vector lanes (R253) -/

def fAdd (a b : Word) : Word := rne ((ofF32 a).add (ofF32 b))
def fSub (a b : Word) : Word := rne ((ofF32 a).add (ofF32 b).negate)
def fMul (a b : Word) : Word := rne ((ofF32 a).mul (ofF32 b))
def fRoot (a : Word) : Word := fSqrt (ofF32 a)

/-- Correctly rounded quotient; 0/0 and inf/inf are NaN, a finite non-zero value over zero is an infinity. -/
def fDiv (a b : Word) : Word :=
  match ofF32 a, ofF32 b with
  | .nan, _ => nanF32
  | _, .nan => nanF32
  | .inf _, .inf _ => nanF32
  | .inf x, .fin y _ _ => rne (.inf (x != y))
  | .fin x _ _, .inf y => rne (.fin (x != y) 0 0)
  | .fin x m e, .fin y n f =>
    if n = 0 then (if m = 0 then nanF32 else rne (.inf (x != y))) else rneQuot (x != y) m n (e - f)

/-- a ≤ b among FP32 values; NaN compares false. -/
def fLe (a b : Word) : Bool := !(ofF32 a).isNan && !(ofF32 b).isNan && !(ofF32 b).lt (ofF32 a)

/-! ## Phase records (Table 10-4) -/

/-- A phase record. -/
structure PhaseRec where
  op : Nat
  units : Nat
  first : Nat
  count : Nat
  start : Nat
  stop : Nat
  pace : Nat
deriving DecidableEq, Repr

def phaseRec (prog : List Byte) (i : Nat) : PhaseRec :=
  let o := 64 + 128 * getLE prog 0 4 + 32 * i
  { op := getLE prog o 1, units := getLE prog (o + 1) 1, first := getLE prog (o + 4) 4, count := getLE prog (o + 8) 4,
    start := getLE prog (o + 12) 4, stop := getLE prog (o + 16) 4, pace := getLE prog (o + 20) 4 }

def phaseRecs (prog : List Byte) : List PhaseRec := (List.range (getLE prog 4 4)).map (phaseRec prog)

/-- Named units of a phase. -/
def PhaseRec.unitCount (p : PhaseRec) : Nat := b2n (bitAt p.units 0) + b2n (bitAt p.units 1)

/-- Elements of an APPLY of a tensor (R258). -/
def Desc.applyTotal (d : TensorDesc) : Nat :=
  Desc.elems d + (if d.rule = 4 then d.rows * d.rows + d.cols * d.cols else 0)

/-- Elements of a tensor in an element phase (R258). -/
def phaseElems (op : Nat) (d : TensorDesc) : Nat := if op = 4 then Desc.applyTotal d else Desc.elems d

/-- The phases of an operation that name a descriptor, each with the elements of the tensors before it. -/
def phasePlaces (prog : List Byte) (op : Nat) (d : TensorDesc) : List (PhaseRec × Nat) :=
  let ds := descs prog
  ((phaseRecs prog).filter fun p => p.op == op).flatMap fun p =>
    ((List.range p.count).filter fun i => ds[p.first + i]? == some d).map fun i =>
      (p, (((ds.drop p.first).take i).map (phaseElems op)).sum)

/-- The beat offset in which an element phase processes its element n (R258). -/
def PhaseRec.beatOf (p : PhaseRec) (n : Nat) : Nat := p.start + n / max (p.pace * p.unitCount) 1

/-- Elements lo to hi - 1 of a tensor are due in the beat that runs (R71, R258). -/
def elemsDue (s : State) (pt stack : Nat) (r : StepRun) (op : Nat) (d : TensorDesc) (lo hi : Nat) : Bool :=
  decide (lo < hi) && (phasePlaces (secPith ((s.part pt).image r) stack) op d).any fun p =>
    p.1.beatOf (p.2 + lo) == s.offset r && p.1.beatOf (p.2 + hi - 1) == s.offset r

/-- A matrix phase of the descriptor runs (R258). -/
def matrixDue (s : State) (pt stack : Nat) (r : StepRun) (op : Nat) (d : TensorDesc) : Bool :=
  (phasePlaces (secPith ((s.part pt).image r) stack) op d).any fun p =>
    decide (p.1.start ≤ s.offset r) && decide (s.offset r ≤ p.1.stop)

/-! ## Generators of the lanes (R160, R161) -/

/-- lane_id of lane l of relative Pith unit u. -/
def pithLane (u l : Nat) : Nat := 0x100000 + 512 * u + l

/-- The bits of a Pith lane's generator in its cycle n of a step: it is seeded as a vector lane is, and no rule of this file
draws from it (R160, R161, R253). -/
def pithBits (r : StepRun) (u l n : Nat) : Nat := genBits r.seed (pithLane u l) n

/-! ## Stack bytes by area (R256) -/

/-- n bytes of a stack from byte address a. -/
def stackR (s : State) (h a n : Nat) : List Byte :=
  (((List.range (ceilDiv (a % 64 + n) 64)).flatMap fun i => hbmRead s h (a / 64 * 64 + 64 * i)).drop (a % 64)).take n

/-- Write part of one burst; a part of a poisoned burst leaves it poisoned (R215). -/
def burstPart (s : State) (h a off : Nat) (bs : List Byte) : State :=
  if bs.length = 64 then hbmWrite s h a bs
  else if bs.isEmpty || poisoned s h a then s
  else hbmWrite s h a (patch (hbmRead s h a) off bs)

/-- Write bytes at a stack byte address. -/
def stackW (s : State) (h a : Nat) (bs : List Byte) : State :=
  s.each (List.range (ceilDiv (a % 64 + bs.length) 64)) fun s i =>
    let lo := if i = 0 then a % 64 else 0
    let skip := 64 * i - a % 64
    burstPart s h (a / 64 * 64 + 64 * i) lo ((bs.drop skip).take (64 - lo))

/-- FP32 words of a stack. -/
def stackWords (s : State) (h a n : Nat) : List Word := words32 (stackR s h a (4 * n))

/-- Read the bursts under n bytes with what the DRAM returned: the state, and the poisoned burst addresses. -/
def touch (s : State) (h a n : Nat) (ecc : List EccObs) : State × List Nat :=
  let r := readBursts s h (a / 64 * 64) (ceilDiv (a % 64 + n) 64) ecc
  (r.s, r.bad)

/-- n stack bytes as a reader gets them: those of poisoned bursts are free (R216; DESIGN CHOICE, log entry 2). -/
def stackX (s : State) (h a n : Nat) : List Byte :=
  (((readBursts s h (a / 64 * 64) (ceilDiv (a % 64 + n) 64) []).lines.flatten).drop (a % 64)).take n

/-- n master words of a tensor from element i, free where their bursts are poisoned. -/
def masterWords (s : State) (h : Nat) (d : TensorDesc) (i n : Nat) : List Word :=
  words32 (stackX s h (d.masterAddr + 4 * i) (4 * n))

/-- Read areas of a stack, address and bytes: the state, and the poisoned burst addresses. -/
def touchAll (s : State) (h : Nat) (l : List (Nat × Nat)) (ecc : List EccObs) : State × List Nat :=
  l.foldl (fun (k : State × List Nat) a =>
    let t := touch k.1 h a.1 a.2 ecc
    (t.1, k.2 ++ t.2)) (s, [])

/-- A Pith phase or the checkpoint engine reads areas of its stack with what the DRAM returned: poison discards a running
step, and is noticed in a committed one (R214 to R217); answers whether every burst was good. -/
def State.pithReads (s : State) (pt h : Nat) (r : StepRun) (l : List (Nat × Nat)) (ecc : List EccObs) : State × Bool :=
  let rd := touchAll s h l ecc
  (rd.1.each rd.2 fun s a => if r.ph = .running then s.poisonedRead pt h a else s.poisonNotice pt h a, rd.2.isEmpty)

/-- Address of an exported part: 0 header, 1 master, 2 C, 3 m, 4 v, 5 L, 6 R, 7 PL, 8 PR (R280). -/
def Desc.partAddr (d : TensorDesc) (p : Nat) : Nat := if p = 1 then d.masterAddr else Desc.itemAddr d (p - 1)

/-- Bitwise XOR of two byte strings. -/
def xorBytes (a b : List Byte) : List Byte := List.zipWith (· ^^^ ·) a b

/-- Words that APPLY leaves as they are differ by zero (R280). -/
def State.zeroDiff (s : State) (h : Nat) (d : TensorDesc) (half p off n : Nat) : State :=
  if Desc.flag d 3 then stackW s h (Desc.halfAddr d half + Desc.halfOff d p + off) (zeros n) else s

/-- APPLY writes part of a tensor, and its difference where the tensor exports differences (R280). -/
def State.applyPart (s : State) (h : Nat) (d : TensorDesc) (half p off : Nat) (new : List Byte) : State :=
  let a := Desc.partAddr d p + off
  let old := stackR s h a new.length
  let s := stackW s h a new
  if Desc.flag d 3 then stackW s h (Desc.halfAddr d half + Desc.halfOff d p + off) (xorBytes old new) else s

/-! ## Tensor header (R256) -/

structure THead where
  t : Nat
  p1 : Word
  p2 : Word
  r : Nat
  snaps : Nat
deriving DecidableEq, Repr

def tHead (s : State) (h : Nat) (d : TensorDesc) : THead :=
  let b := stackR s h d.stateAddr 64
  { t := getLE b 0 8, p1 := f32At b 8, p2 := f32At b 12, r := getLE b 16 4, snaps := getLE b 20 4 }

def THead.bytes (x : THead) : List Byte :=
  toLE 8 x.t ++ f32Bytes [x.p1, x.p2] ++ toLE 4 x.r ++ toLE 4 x.snaps ++ zeros 40

/-! ## The landed gradient (R261, R333) -/

/-- Landed block j of a tensor. -/
def gradBlock (s : State) (h : Nat) (d : TensorDesc) (j : Nat) : RBlock := rb16Of (stackR s h (d.gradAddr + 72 * j) 72)

def gradBlocks (s : State) (h : Nat) (d : TensorDesc) : List RBlock :=
  (List.range (Desc.blocks d)).map (gradBlock s h d)

/-- Chunk header i of a tensor. -/
def gradHead (s : State) (h : Nat) (d : TensorDesc) (i : Nat) : List Byte := stackR s h (Desc.chunkAddr d i) 64

/-- The tensor is updated at a commit counter (R262). -/
def Desc.due (d : TensorDesc) (commits : Nat) : Bool := decide (commits % max d.thinN 1 = d.thinPhase)

/-- The first failing block of one landed chunk (R333). -/
def chunkFault (s : State) (pt : Nat) (r : StepRun) (d : TensorDesc) (hd : List Byte) (ks : List RBlock) : Option Nat :=
  let first := chFirst hd
  let commits := (s.part pt).commits.toNat
  if chCommit hd ≠ commits ∨ chThin hd ≠ d.thinN - 1 ∨ chPhase hd ≠ d.thinPhase then some first
  else if !Desc.due d (commits + 1) then none
  else
    let b := stepB r d.tensor
    match firstBad (fun (p : RBlock × Nat) => (p.1.empty || p.1.b == b) && p.1.seq == (first + p.2) % 2 ^ 32 &&
        p.1.residueOk) ks.zipIdx with
    | some j => some (first + j)
    | none => if chDigest hd = blocksDigest (digestBase s pt d.tensor) ks then none else some first

/-- Check the landed chunks in order from block `at_` (R333). -/
def landedFault (s : State) (pt : Nat) (r : StepRun) (d : TensorDesc) : List (List Byte) → List RBlock → Nat → Option Nat
  | [], ks, at_ => if ks.isEmpty then none else some at_
  | hd :: hs, ks, at_ =>
    if chFirst hd ≠ at_ ∨ ks.length < chBlocks hd then some at_
    else
      match chunkFault s pt r d hd (ks.take (chBlocks hd)) with
      | some j => some j
      | none => landedFault s pt r d hs (ks.drop (chBlocks hd)) (at_ + chBlocks hd)

/-! ## Replica slices (R340) -/

/-- Words of a descriptor's master, compensation and state, in that order. -/
def replicaWords (s : State) (h : Nat) (d : TensorDesc) : List Word :=
  [1, 2, 0, 3, 4, 5, 6, 7, 8].flatMap fun p => words32 (padTo (4 * ceilDiv (Desc.halfSize d p) 4)
    (stackR s h (Desc.partAddr d p) (Desc.halfSize d p)))

/-- The number of those words. -/
def Desc.replicaCount (d : TensorDesc) : Nat := ((List.range 9).map fun p => ceilDiv (Desc.halfSize d p) 4).sum

/-- The digest of a descriptor's slice, its words numbered from base. -/
def sliceDigest (rho base k i : Nat) (ws : List Word) : Nat :=
  ((ws.zipIdx.filter fun p => p.2 % k = i).map fun p => p.1.toNat * powMod rho 64 (base + p.2) % mersenne).sum % mersenne

/-- Words of the descriptors before d in its stack's program. -/
def replicaBase (prog : List Byte) (d : TensorDesc) : Nat :=
  ((((descs prog).takeWhile fun e => e.stateAddr ≠ d.stateAddr)).map Desc.replicaCount).sum

/-- A VERIFY phase's replica slice of one descriptor. -/
def replicaSlice (s : State) (pt h : Nat) (r : StepRun) (d : TensorDesc) : Nat :=
  let x := (s.redPt pt).rep
  let k := x.km1 + 1
  if x.gm1 = 0 then 0
  else sliceDigest (digestBase s pt 0xFFFF)
    (replicaBase (secPith ((s.part pt).image r) (relStack s pt h)) d) k ((s.part pt).commits.toNat % k)
    (replicaWords s h d)

/-- Bursts that hold words of a slice, from the descriptor's parts in the order of `replicaWords` and the words before
them. -/
def sliceBursts (d : TensorDesc) (k i : Nat) : List Nat → Nat → List Nat
  | [], _ => []
  | p :: ps, before =>
    let n := ceilDiv (Desc.halfSize d p) 4
    ((List.range n).filter fun j => (before + j) % k = i).map (fun j => (Desc.partAddr d p + 4 * j) / 64 * 64) ++
      sliceBursts d k i ps (before + n)

/-- The areas that a VERIFY of a tensor reads: its landed blocks and chunk headers, and the bursts of its replica slice (R333,
R340). -/
def verifyReads (s : State) (pt : Nat) (d : TensorDesc) : List (Nat × Nat) :=
  let x := (s.redPt pt).rep
  (d.gradAddr, 72 * Desc.blocks d) :: (Desc.chunkAddr d 0, 64 * d.chunks) ::
    (if x.gm1 = 0 then []
     else ((sliceBursts d (x.km1 + 1) ((s.part pt).commits.toNat % (x.km1 + 1)) [1, 2, 0, 3, 4, 5, 6, 7, 8] 0).eraseDups).map
       fun a => (a, 64))

/-- The step and absolute stack of a Pith command; none acts once the current limiter has tripped (R455). -/
def State.onPith (s : State) (pt stack : Nat) (f : StepRun → Nat → State → State) : State :=
  match (s.part pt).working, (ptStacks s pt)[stack]? with
  | some r, some h => if r.tripped then s else f r h s
  | _, _ => s

/-- PITH_VERIFY: the landed chunks of one tensor and its replica slice, in the beat of the tensor's last element (R258, R333,
R340); what it reads poisoned is not checked beside (DESIGN CHOICE, log entry 26). -/
def pithVerifyEffect (pt stack : Nat) (d : TensorDesc) (ecc : List EccObs) (s : State) : State :=
  s.onPith pt stack fun r h s =>
    if !elemsDue s pt stack r 1 d (Desc.elems d - 1) (Desc.elems d) then s
    else
      let rd := (s.checkLost pt h).pithReads pt h r (verifyReads s pt d) ecc
      let s := rd.1
      if !rd.2 then s
      else
        let bad := landedFault s pt r d ((List.range d.chunks).map (gradHead s h d)) (gradBlocks s h d) 0
        let dig := replicaSlice s pt h r d
        let s := s.updRun pt fun r => { r with repSlice := (r.repSlice + dig) % mersenne }
        s.checked? pt (s.suspect 0 0) bad

/-! ## Clipping (R263 to R265) -/

/-- Q of a step (R264, R337). -/
def stepQ (r : StepRun) : Word :=
  if r.swNorm then r.normQ
  else match r.lane with
    | some b => rne (laneNorm b)
    | none => 0

/-- CLIP of an image. -/
def imgClip (img : List Byte) : Word :=
  match pithPrograms img with
  | [] => pInf
  | (_, p) :: _ => f32At p 20

/-- The clipping coefficient of Q; none where Q is NaN or infinite. -/
def clipCoef (q clip : Word) : Option Word :=
  if !(ofF32 q).isFin then none
  else
    let r := fRoot q
    some (if fLe r clip then oneF32 else fDiv clip r)

/-- Form the step's coefficient once, with its commit flags (R263, R265, Table 10-6). -/
def State.formCoef (s : State) (pt : Nat) : State :=
  match (s.part pt).working with
  | none => s
  | some r =>
    if r.coef.isSome ∨ r.skip then s
    else
      match clipCoef (stepQ r) (imgClip ((s.part pt).image r)) with
      | none => s.updRun pt fun r => { r with skip := true, flags := r.flags ||| 2 }
      | some c => s.updRun pt fun r =>
        { r with coef := some c, flags := if c = oneF32 then r.flags else r.flags ||| 1 }

/-- PITH_NORM: the coefficient is formed in the beat of a NORM phase (R258, R263). -/
def pithNormEffect (pt : Nat) (s : State) : State :=
  match (s.part pt).working with
  | none => s
  | some r =>
    if (pithPrograms ((s.part pt).image r)).any fun p =>
        (phaseRecs p.2).any fun x => x.op == 2 && x.start == s.offset r then s.formCoef pt
    else s

/-! ## Matrices (R254) -/

abbrev Mat := List (List Word)

/-- Round an FP32 value to BF16. -/
def toBf16 (w : Word) : Ext := decodeN fBF16 (encodeN fBF16 .near (ofF32 w)).1

/-- Chunks of 64 products summed in order. -/
def dotChunks : Nat → List Ext → Word → Word
  | 0, _, acc => acc
  | n + 1, ps, acc => dotChunks n (ps.drop 64) (rne ((ofF32 acc).add (Ext.sum (ps.take 64))))

/-- pith_dot of R254. -/
def pithDot (a b : List Word) : Word :=
  let ps := List.zipWith (fun x y => (toBf16 x).mul (toBf16 y)) a b
  dotChunks (ceilDiv ps.length 64) ps 0

/-- Column j of a matrix. -/
def Mat.colAt (m : Mat) (j : Nat) : List Word := m.map fun r => r.getD j 0

/-- The transpose of a matrix of n columns. -/
def Mat.transpose (m : Mat) (n : Nat) : Mat := (List.range n).map m.colAt

/-- A · B for B of n columns. -/
def Mat.mul (a b : Mat) (n : Nat) : Mat :=
  let bt := b.transpose n
  a.map fun r => bt.map fun c => pithDot r c

/-- Element by element. -/
def Mat.zip (f : Word → Word → Word) (a b : Mat) : Mat := List.zipWith (List.zipWith f) a b
def Mat.each (f : Word → Word) (a : Mat) : Mat := a.map (List.map f)

/-- The identity matrix of n rows times a value. -/
def Mat.diag (n : Nat) (v : Word) : Mat :=
  (List.range n).map fun i => (List.range n).map fun j => if i = j then v else 0

/-- sqrt of the exact sum of squares, which is rounded once. -/
def frobenius (m : Mat) : Word := fRoot (rne (Ext.sum (m.flatten.map fun w => (ofF32 w).mul (ofF32 w))))

/-- A matrix of a stack in row-major order. -/
def matR (s : State) (h a rows cols : Nat) : Mat :=
  let ws := stackWords s h a (rows * cols)
  (List.range rows).map fun i => (ws.drop (i * cols)).take cols

def matW (s : State) (h a : Nat) (m : Mat) : State := stackW s h a (f32Bytes m.flatten)

/-- The decoded gradient with the coefficient applied; a skipped block is zeros (R261, R263). -/
def gradElem (k : RBlock) (coef : Word) (i : Nat) : Word :=
  let g := rne (k.elem i)
  if coef = oneF32 then g else fMul coef g

def gradMat (s : State) (h : Nat) (d : TensorDesc) (coef : Word) : Mat :=
  let ws := (gradBlocks s h d).flatMap fun k => (List.range 32).map fun i => if k.ovf then 0 else gradElem k coef i
  (List.range d.rows).map fun i => (ws.drop (i * d.cols)).take d.cols

/-! ## The work area (R268 to R271; DESIGN CHOICE, log entry 26) -/

/-- Work area of rule 3: X, then the new m. -/
def Desc.workX (d : TensorDesc) : Nat := Desc.itemAddr d 8
def Desc.workM (d : TensorDesc) : Nat := Desc.itemAddr d 8 + 4 * Desc.elems d

/-- Work area of rule 4, matrix i of factor f (0 L, 1 R): S, X and M of two alternating halves, the iteration's
temporary, and the product of this step's gradient. -/
def Desc.factor (d : TensorDesc) (f i : Nat) : Nat :=
  let n := if f = 0 then d.rows else d.cols
  Desc.itemAddr d 8 + (if f = 0 then 0 else 28 * (d.rows * d.rows)) + 4 * (n * n) * i

/-- Where rule 4's u stands. -/
def Desc.workU (d : TensorDesc) : Nat := Desc.itemAddr d 8 + 28 * (d.rows * d.rows + d.cols * d.cols)

/-- Rows of factor f. -/
def Desc.side (d : TensorDesc) (f : Nat) : Nat := if f = 0 then d.rows else d.cols

/-- REFRESH of the tensor has run in this step. -/
def StepRun.hasRefreshed (r : StepRun) (h : Nat) (d : TensorDesc) : Bool := r.refreshed.contains (h, d.stateAddr)

/-- Iterations done, this step's slice included (R270, R271). -/
def progress (r : StepRun) (h : Nat) (d : TensorDesc) (x : THead) : Nat :=
  if r.ph = .running ∧ r.hasRefreshed h d then min d.iters (x.r + d.rslice) else x.r

/-- The half in which the matrices after n iterations stand. -/
def Desc.half (d : TensorDesc) (n : Nat) : Nat := ceilDiv n (max d.rslice 1) % 2

/-- This step's applied update installs new roots (R270). -/
def installs (d : TensorDesc) (x : THead) (n t : Nat) : Bool :=
  d.rule == 4 && decide (0 < x.snaps) && decide (t % max d.k 1 = 0) && decide (d.iters ≤ n)

/-! ## PREP (R268, R269) -/

/-- u and m of the momentum lines for one element. -/
def momentum (d : TensorDesc) (m g : Word) : Word × Word :=
  let m := fAdd (fMul d.beta1 m) g
  (m, if Desc.flag d 1 then fAdd g (fMul d.beta1 m) else m)

/-- One iteration of rule 3 on a matrix of n rows and c columns. -/
def nsStep (d : TensorDesc) (n c : Nat) (x : Mat) : Mat :=
  let a := x.mul (x.transpose c) n
  let b := Mat.zip fAdd (a.each (fMul d.nsB)) ((a.mul a n).each (fMul d.nsC))
  Mat.zip fAdd (x.each (fMul d.nsA)) (b.mul x c)

/-- The orthogonalised update of rule 3. -/
def orthogonal (d : TensorDesc) (u : Mat) : Mat :=
  let f := fAdd (frobenius u) d.eps
  let x := u.each fun w => fDiv w f
  let turned := decide (d.cols < d.rows)
  let x := if turned then x.transpose d.cols else x
  let n := if turned then d.cols else d.rows
  let c := if turned then d.rows else d.cols
  let x := (List.range d.iters).foldl (fun x _ => nsStep d n c x) x
  if turned then x.transpose d.rows else x

def prepRule3 (s : State) (h : Nat) (d : TensorDesc) (coef : Word) : State :=
  let g := gradMat s h d coef
  let m := matR s h (Desc.itemAddr d 2) d.rows d.cols
  let mu := List.zipWith (List.zipWith (momentum d)) m g
  let s' := matW s h (Desc.workM d) (mu.map (List.map (·.1)))
  matW s' h (Desc.workX d) (orthogonal d (mu.map (List.map (·.2))))

def prepRule4 (s : State) (h : Nat) (d : TensorDesc) (coef : Word) (r : StepRun) : State :=
  let g := gradMat s h d coef
  let gt := g.transpose d.cols
  let x := tHead s h d
  let n := progress r h d x
  let new := installs d x n (x.t + 1)
  let root (f : Nat) : Mat :=
    matR s h (if new then Desc.factor d f (1 + 2 * Desc.half d n) else Desc.itemAddr d (6 + f)) (Desc.side d f)
      (Desc.side d f)
  let u := ((root 0).mul g d.cols).mul (root 1) d.cols
  let s := matW s h (Desc.factor d 0 6) (g.mul gt d.rows)
  let s := matW s h (Desc.factor d 1 6) (gt.mul g d.cols)
  matW s h (Desc.workU d) u

/-- The areas that a PREP reads: the landed gradient, and the momentum of rule 3 or the header and roots of rule 4. -/
def prepReads (s : State) (h : Nat) (d : TensorDesc) (r : StepRun) : List (Nat × Nat) :=
  let x := tHead s h d
  let n := progress r h d x
  let root (f : Nat) : Nat × Nat :=
    (if installs d x n (x.t + 1) then Desc.factor d f (1 + 2 * Desc.half d n) else Desc.itemAddr d (6 + f),
      4 * (Desc.side d f * Desc.side d f))
  (d.gradAddr, 72 * Desc.blocks d) ::
    (if d.rule = 3 then [(Desc.itemAddr d 2, 4 * Desc.elems d)]
      else if d.rule = 4 then [(d.stateAddr, 64), root 0, root 1] else [])

/-- PITH_PREP: the matrix work of rules 3 and 4 into the work area, in a beat of its phase (DESIGN CHOICE, log entry 26); where it reads
poison it writes nothing. -/
def pithPrepEffect (pt stack : Nat) (d : TensorDesc) (ecc : List EccObs) (s : State) : State :=
  s.onPith pt stack fun r h s =>
    if !matrixDue s pt stack r 3 d ∨ !Desc.due d ((s.part pt).commits.toNat + 1) then s
    else
      let rd := (s.checkLost pt h).pithReads pt h r (prepReads s h d r) ecc
      let s := rd.1
      match clipCoef (stepQ r) (imgClip ((s.part pt).image r)) with
      | none => s
      | some c =>
        if !rd.2 then s
        else if d.rule = 3 then prepRule3 s h d c
        else if d.rule = 4 then prepRule4 s h d c r
        else s

/-! ## REFRESH (R270, R271) -/

/-- a and x, m at the start of the coupled iteration. -/
def coupledStart (d : TensorDesc) (n : Nat) (sn : Mat) : Mat × Mat :=
  let a := Mat.zip fAdd sn ((Mat.diag n oneF32).each (fMul d.damp))
  let c := frobenius a
  let root := if d.pRoot = 2 then fRoot c else fRoot (fRoot c)
  ((Mat.diag n oneF32).each (fMul (fDiv oneF32 root)), a.each fun w => fDiv w c)

/-- One coupled iteration. -/
def coupledStep (d : TensorDesc) (n : Nat) (p : Mat × Mat) : Mat × Mat :=
  let pw := rne (.fin false d.pRoot 0)
  let p1 := rne (.fin false (d.pRoot + 1) 0)
  let t := (Mat.zip fSub ((Mat.diag n oneF32).each (fMul p1)) p.2).each fun w => fDiv w pw
  let t2 := t.mul t n
  (p.1.mul t n, (if d.pRoot = 2 then t2 else t2.mul t2 n).mul p.2 n)

/-- Run one slice of factor f after done iterations, from one half into the other. -/
def refreshFactor (s : State) (h : Nat) (d : TensorDesc) (done f : Nat) : State :=
  let n := Desc.side d f
  let src := Desc.half d done
  let start := if done = 0 then coupledStart d n (matR s h (Desc.factor d f 0) n n)
    else (matR s h (Desc.factor d f (1 + 2 * src)) n n, matR s h (Desc.factor d f (2 + 2 * src)) n n)
  let r := (List.range (min d.rslice (d.iters - done))).foldl (fun p _ => coupledStep d n p) start
  let s := matW s h (Desc.factor d f (1 + 2 * (1 - src))) r.1
  matW s h (Desc.factor d f (2 + 2 * (1 - src))) r.2

/-- The refresh progress of a committed step (R271). -/
def State.pushRefresh (s : State) (h : Nat) (d : TensorDesc) : State :=
  let x := tHead s h d
  stackW s h d.stateAddr { x with r := min d.iters (x.r + d.rslice) }.bytes

/-- The areas that a REFRESH after n iterations reads: the header, and each factor's snapshot or X and M. -/
def refreshReads (d : TensorDesc) (n : Nat) : List (Nat × Nat) :=
  let src := Desc.half d n
  (d.stateAddr, 64) :: [0, 1].flatMap fun f =>
    (if n = 0 then [0] else [1 + 2 * src, 2 + 2 * src]).map fun i =>
      (Desc.factor d f i, 4 * (Desc.side d f * Desc.side d f))

/-- PITH_REFRESH: one slice for both factors, in a beat of its phase; its progress counts only once the step is committed.
Where it reads poison it writes nothing. -/
def pithRefreshEffect (pt stack : Nat) (d : TensorDesc) (ecc : List EccObs) (s : State) : State :=
  s.onPith pt stack fun r h s =>
    let x := tHead s h d
    if !matrixDue s pt stack r 6 d ∨ d.rule ≠ 4 ∨ x.snaps = 0 ∨ d.iters ≤ x.r ∨ r.hasRefreshed h d then s
    else
      let rd := (if r.ph = .running then s.checkLost pt h else s).pithReads pt h r (refreshReads d x.r) ecc
      let s := rd.1
      if !rd.2 then s
      else
      let s := refreshFactor (refreshFactor s h d x.r 0) h d x.r 1
      let s := s.updRun pt fun r => { r with refreshed := r.refreshed ++ [(h, d.stateAddr)] }
      if r.ph = .committed then s.pushRefresh h d else s

/-! ## APPLY (R261, R262, R265 to R269) -/

/-- Exponent of q(w) (R267). -/
def qExp (w : Word) : Int :=
  let v := ofF32 w
  if v.isZero then -149 else max (floorLogV v) (-126) - 23

/-- apply(w, c, d) of R267. -/
def applyComp (w : Word) (c : Int) (d : Word) : Word × Int :=
  let mid : Ext := .fin (decide (c < 0)) c.natAbs (qExp w - 16)
  let x := if c = 0 then (ofF32 w).add (ofF32 d).negate else ((ofF32 w).add mid).add (ofF32 d).negate
  let w' := rne x
  if !(ofF32 w').isFin then (w', 0)
  else
    match x.add (ofF32 w').negate with
    | .fin n m e =>
      let k := roundInt .near m 1 (e + 16 - qExp w')
      let v : Int := if n then -((k : Nat) : Int) else ((k : Nat) : Int)
      (w', max (-32768) (min 32767 v))
    | _ => (w', 0)

/-- The decrement of one element and its new m and v, by rule; u comes from the work area in rules 3 and 4 (R266, R268,
R269). -/
def elemRule (d : TensorDesc) (x : THead) (g w m v u : Word) : Word × Word × Word :=
  if d.rule = 1 then
    let mu := momentum d m g
    (fMul d.lr (fAdd mu.2 (fMul d.wd w)), mu.1, v)
  else if d.rule = 2 then
    let m := fAdd (fMul d.beta1 m) (fMul (fSub oneF32 d.beta1) g)
    let v := fAdd (fMul d.beta2 v) (fMul (fSub oneF32 d.beta2) (fMul g g))
    let mh := fDiv m (fSub oneF32 x.p1)
    let vh := fDiv v (fSub oneF32 x.p2)
    (fMul d.lr (fAdd (fDiv mh (fAdd (fRoot vh) d.eps)) (fMul d.wd w)), m, v)
  else
    (fMul d.lr (fAdd (fMul d.scale u) (fMul d.wd w)), if d.rule = 3 then (momentum d m g).1 else m, v)

/-- The words of an area from element i, zeros where the rule keeps none. -/
def areaWords (s : State) (h : Nat) (d : TensorDesc) (p i n : Nat) : List Word :=
  if Desc.halfSize d p = 0 then List.replicate n 0 else stackWords s h (Desc.partAddr d p + 4 * i) n

/-- One element's values before and after. -/
structure Elem where
  w : Word
  c : Int
  m : Word
  v : Word
deriving DecidableEq, Repr

/-- Update element i (R261, R266 to R269). -/
def Elem.update (e : Elem) (d : TensorDesc) (x : THead) (coef : Word) (k : RBlock) (i : Nat) (u : Word) : Elem :=
  if k.ovf then e
  else
    let r := elemRule d x (gradElem k coef i) e.w e.m e.v u
    if Desc.flag d 0 then
      let a := applyComp e.w e.c r.1
      { w := a.1, c := a.2, m := r.2.1, v := r.2.2 }
    else { w := fSub e.w r.1, c := e.c, m := r.2.1, v := r.2.2 }

/-- Apply parameter elements first to first + n - 1 of a tensor. -/
def State.applyElems (s : State) (h : Nat) (d : TensorDesc) (half : Nat) (coef : Word) (x : THead) (first n : Nat) :
    State :=
  let ws := areaWords s h d 1 first n
  let ms := areaWords s h d 3 first n
  let vs := areaWords s h d 4 first n
  let us := if d.rule = 3 then stackWords s h (Desc.workX d + 4 * first) n
    else if d.rule = 4 then stackWords s h (Desc.workU d + 4 * first) n else []
  let cb := if Desc.flag d 0 then stackR s h (Desc.partAddr d 2 + 2 * first) (2 * n) else []
  let out := (List.range n).map fun j =>
    let i := first + j
    Elem.update ⟨ws.getD j 0, (BitVec.ofNat 16 (getLE cb (2 * j) 2)).toInt, ms.getD j 0, vs.getD j 0⟩ d x coef
      (gradBlock s h d (i / 32)) (i % 32) (us.getD j 0)
  let s := s.applyPart h d half 1 (4 * first) (f32Bytes (out.map Elem.w))
  let s := if Desc.flag d 0 then
      s.applyPart h d half 2 (2 * first) (out.flatMap fun e => toLE 2 (BitVec.ofInt 16 e.c).toNat) else s
  let s := if d.rule = 4 then s else s.applyPart h d half 3 (4 * first) (f32Bytes (out.map Elem.m))
  if d.rule = 2 then s.applyPart h d half 4 (4 * first) (f32Bytes (out.map Elem.v)) else s

/-- Update elements of factor f of rule 4 from the work area (R269). -/
def State.applyFactor (s : State) (h : Nat) (d : TensorDesc) (half f first n : Nat) : State :=
  let old := stackWords s h (Desc.itemAddr d (4 + f) + 4 * first) n
  let gg := stackWords s h (Desc.factor d f 6 + 4 * first) n
  let new := List.zipWith (fun l g => fAdd (fMul d.beta2 l) (fMul (fSub oneF32 d.beta2) g)) old gg
  s.applyPart h d half (5 + f) (4 * first) (f32Bytes new)

/-- The part of a range [first, first + n) that lies in [lo, lo + len): its offset there and its length. -/
def cut (first n lo len : Nat) : Nat × Nat :=
  (max first lo - lo, min (first + n) (lo + len) - max first lo)

/-- What happens once per tensor before its first element: the counts and powers, and new roots (R266, R270). -/
def State.applyStart (s : State) (pt h : Nat) (d : TensorDesc) (half : Nat) : State :=
  let x := tHead s h d
  let x' := { x with t := x.t + 1, p1 := if d.rule = 2 then fMul x.p1 d.beta1 else x.p1,
                     p2 := if d.rule = 2 then fMul x.p2 d.beta2 else x.p2 }
  let s := s.applyPart h d half 0 0 x'.bytes
  if installs d x x.r x'.t then
    let s := s.each [0, 1] fun s f =>
      s.applyPart h d half (7 + f) 0
        (stackR s h (Desc.factor d f (1 + 2 * Desc.half d x.r)) (4 * (Desc.side d f * Desc.side d f)))
    s.updRun pt fun r => { r with flags := r.flags ||| 16 }
  else (s.zeroDiff h d half 7 0 (Desc.halfSize d 7)).zeroDiff h d half 8 0 (Desc.halfSize d 8)

/-- What follows the last element of rule 4: the snapshots (R270). -/
def State.applyEnd (s : State) (h : Nat) (d : TensorDesc) (half : Nat) : State :=
  let x := tHead s h d
  if d.rule = 4 ∧ x.t % max d.k 1 = 0 then
    let s := s.each [0, 1] fun s f =>
      stackW s h (Desc.factor d f 0) (stackR s h (Desc.itemAddr d (4 + f)) (4 * (Desc.side d f * Desc.side d f)))
    let old := stackR s h d.stateAddr 64
    let new := { x with r := 0, snaps := x.snaps + 1 }.bytes
    let s := stackW s h d.stateAddr new
    if Desc.flag d 3 then
      let a := Desc.halfAddr d half
      stackW s h a (xorBytes (stackR s h a 64) (xorBytes old new))
    else s
  else s

/-- The areas that the start of an APPLY reads: the tensor header, the roots that it installs, and for the difference those
that it replaces (R266, R270, R280). -/
def startReads (s : State) (h : Nat) (d : TensorDesc) : List (Nat × Nat) :=
  let x := tHead s h d
  (d.stateAddr, 64) :: if installs d x x.r (x.t + 1) then
      [0, 1].flatMap fun f =>
        let n := 4 * (Desc.side d f * Desc.side d f)
        (Desc.factor d f (1 + 2 * Desc.half d x.r), n) :: if Desc.flag d 3 then [(Desc.partAddr d (7 + f), n)] else []
    else []

/-- The areas that an APPLY chunk reads: address and bytes. -/
def applyReads (d : TensorDesc) (first n : Nat) : List (Nat × Nat) :=
  let p := cut first n 0 (Desc.elems d)
  let l := cut first n (Desc.elems d) (d.rows * d.rows)
  let q := cut first n (Desc.elems d + d.rows * d.rows) (d.cols * d.cols)
  let at4 (i : Nat) : List (Nat × Nat) := if Desc.itemSize d i = 0 then [] else [(Desc.itemAddr d i + 4 * p.1, 4 * p.2)]
  let factor (f : Nat) (c : Nat × Nat) : List (Nat × Nat) :=
    if d.rule ≠ 4 ∨ c.2 = 0 then []
    else [(Desc.itemAddr d (4 + f) + 4 * c.1, 4 * c.2), (Desc.factor d f 6 + 4 * c.1, 4 * c.2)]
  (if p.2 = 0 then []
  else [(d.gradAddr + 72 * (p.1 / 32), 72 * (ceilDiv (p.1 + p.2) 32 - p.1 / 32)), (d.masterAddr + 4 * p.1, 4 * p.2)] ++
    (if Desc.flag d 0 then [(Desc.itemAddr d 1 + 2 * p.1, 2 * p.2)] else []) ++ at4 2 ++ at4 3 ++
    (if d.rule = 3 then [(Desc.workX d + 4 * p.1, 4 * p.2)]
      else if d.rule = 4 then [(Desc.workU d + 4 * p.1, 4 * p.2)] else [])) ++ factor 0 l ++ factor 1 q

/-- A range of parameter elements meets a block with OVF, which the commit skips (R261, Table 12-9). -/
def skipsBlock (s : State) (h : Nat) (d : TensorDesc) (first n : Nat) : Bool :=
  (List.range (ceilDiv (first + n) 32 - first / 32)).any fun j =>
    decide (0 < n) && (gradBlock s h d (first / 32 + j)).ovf

/-- The differences of a chunk that writes nothing (R280). -/
def State.zeroChunk (s : State) (h : Nat) (d : TensorDesc) (half first n : Nat) : State :=
  let p := cut first n 0 (Desc.elems d)
  let l := cut first n (Desc.elems d) (d.rows * d.rows)
  let q := cut first n (Desc.elems d + d.rows * d.rows) (d.cols * d.cols)
  let part (s : State) (i off len : Nat) : State := if Desc.halfSize d i = 0 then s else s.zeroDiff h d half i off len
  let s := if first = 0 then s.each [0, 7, 8] fun s i => part s i 0 (Desc.halfSize d i) else s
  let s := part (part (part (part s 1 (4 * p.1) (4 * p.2)) 2 (2 * p.1) (2 * p.2)) 3 (4 * p.1) (4 * p.2)) 4 (4 * p.1) (4 * p.2)
  part (part s 5 (4 * l.1) (4 * l.2)) 6 (4 * q.1) (4 * q.2)

/-- A failing APPLY chunk: its tensor's shard is lost, and the step ends COMMITTED with APPLY_FAULT (R275). -/
def State.applyFault (s : State) (pt h tensor line count : Nat) : State :=
  (s.loseShard pt tensor h line count).updRun pt fun r => { r with flags := r.flags ||| 8 }

/-- PITH_APPLY: elements of a tensor of a committed step, in the beat that its phase plans for them (R258). Where one reads
poison, none of them is written (R275). -/
def pithApplyEffect (pt stack : Nat) (d : TensorDesc) (first count : Nat) (ecc : List EccObs) (s : State) : State :=
  s.onPith pt stack fun r h s =>
    let commits := (s.part pt).commits.toNat
    let n := min (first + count) (Desc.applyTotal d) - first
    if r.ph ≠ .committed ∨ !Desc.due d commits ∨ !elemsDue s pt stack r 4 d first (first + n) then s
    else
      let s := s.formCoef pt
      let half := commits % 2
      let rd := touchAll s h ((if first = 0 then startReads s h d else []) ++ applyReads d first n) ecc
      let s := rd.1
      if !rd.2.isEmpty then
        (s.zeroChunk h d half first n).each rd.2 fun s a => (s.notifyLines pt 1 d.tensor h (extentOf s pt h a).line 1).applyFault pt h d.tensor 0 (ceilDiv (4 * Desc.elems d) 64)
      else
        match ((s.part pt).working.bind fun r => r.coef) with
        | none => s
        | some coef =>
          let s := if first = 0 then s.applyStart pt h d half else s
          let x := tHead s h d
          let p := cut first n 0 (Desc.elems d)
          let s := if skipsBlock s h d p.1 p.2 then s.event (.red pt) 0 pt else s
          let s := s.applyElems h d half coef x p.1 p.2
          let s := if d.rule = 4 then
              let l := cut first n (Desc.elems d) (d.rows * d.rows)
              let q := cut first n (Desc.elems d + d.rows * d.rows) (d.cols * d.cols)
              (s.applyFactor h d half 0 l.1 l.2).applyFactor h d half 1 q.1 q.2
            else s
          if first + n = Desc.applyTotal d then s.applyEnd h d half else s

/-! ## COPY and regeneration (R217, R276) -/

/-- Little-endian bytes of codes of w bits. -/
def packCodes (w : Nat) (cs : List Nat) : List Byte :=
  toLE (w * cs.length / 8) ((cs.zipIdx.map fun p => p.1 * 2 ^ (w * p.2)).sum)

/-- What one conversion of words gave: bytes, scale byte, and the counts of the census. -/
structure Conv where
  bytes : List Byte
  scale : Option Nat
  zeros : Nat
  sats : Nat

/-- Convert values of one row, or of one MX block, to a copy format (R276). -/
def convertX (hist : List Word) (fmt : Nat) (xs : List Ext) : Conv :=
  let f := elemFmt fmt
  if isMx fmt then
    let r := encodeMx fmt (xs.map fun x => (x, .near))
    ⟨packCodes f.width r.2.1, some r.1, if r.1 = 0xFF then 0 else (r.2.1.filter (zeroCode fmt)).length, r.2.2⟩
  else
    let k : Int := if fmt = 2 then 0 else (scaleExp hist fmt).1
    let cs := xs.map fun x => encodeN f .near (x.scale k)
    ⟨packCodes f.width (cs.map (·.1)), none, (cs.filter fun c => zeroCode fmt c.1).length, (cs.filter (·.2)).length⟩

/-- Convert master words. -/
def convert (hist : List Word) (fmt : Nat) (ws : List Word) : Conv := convertX hist fmt (ws.map ofF32)

/-- Stack address of element i of a working copy. -/
def Desc.copyElem (d : TensorDesc) (i : Nat) : Nat :=
  d.copyAddr + i / d.cols * rowBytes d.copyFmt d.cols + (elemFmt d.copyFmt).width * (i % d.cols) / 8

/-- Stack address of the scale of element i's block. -/
def Desc.copyScale (d : TensorDesc) (i : Nat) : Nat :=
  d.copyAddr + i / d.cols * rowBytes d.copyFmt d.cols + (elemFmt d.copyFmt).width * d.cols / 8 + i % d.cols / 32

/-- The units in which elements first to first + n - 1 are converted: the MX blocks that end there, or parts of rows. -/
def copyUnits (d : TensorDesc) (first n : Nat) : List (Nat × Nat) :=
  if d.cols = 0 then []
  else if isMx d.copyFmt then (List.range ((first + n) / 32 - first / 32)).map fun j => (32 * (first / 32 + j), 32)
  else (List.range (ceilDiv (first + n) d.cols - first / d.cols)).map fun j =>
    let row := first / d.cols + j
    let c := cut first n (row * d.cols) d.cols
    (row * d.cols + c.1, c.2)

/-- Convert and write one unit; answers what it counted. -/
def State.copyUnit (s : State) (h : Nat) (d : TensorDesc) (hist : List Word) (u : Nat × Nat) : State × Conv × List Word :=
  let ws := masterWords s h d u.1 u.2
  let c := convert hist d.copyFmt ws
  let s := (touch s h (d.masterAddr + 4 * u.1) (4 * u.2) []).1
  let s := stackW s h (Desc.copyElem d u.1) c.bytes
  let s := match c.scale with
    | some b => stackW s h (Desc.copyScale d u.1) (toLE 1 b)
    | none => s
  (s, c, ws)

/-- The part of a burst that a working copy fills, line `line` of the bursts that hold it: first byte in the copy, and bytes. -/
def copySpan (d : TensorDesc) (line : Nat) : Nat × Nat :=
  let lo := 64 * line - d.copyAddr % 64
  (lo, min (64 * line + 64 - d.copyAddr % 64) (Desc.copySize d) - lo)

/-- Bytes off to off + n - 1 of a working copy as its rule gives them now. -/
def copyBytes (s : State) (h : Nat) (d : TensorDesc) (hist : List Word) (off n : Nat) : List Byte :=
  let rb := max (rowBytes d.copyFmt d.cols) 1
  let rows := (List.range (ceilDiv (off + n) rb - off / rb)).flatMap fun j =>
    let row := off / rb + j
    let us := copyUnits d (row * d.cols) d.cols
    let cs := us.map fun u => convert hist d.copyFmt (masterWords s h d u.1 u.2)
    cs.flatMap Conv.bytes ++ cs.flatMap fun c => match c.scale with
      | some b => toLE 1 b
      | none => []
  (rows.drop (off % rb)).take n

/-- The element whose conversion gives byte a of a working copy; for a scale byte the last element of its block (R117). -/
def Desc.elemOf (d : TensorDesc) (a : Nat) : Nat :=
  let rb := max (rowBytes d.copyFmt d.cols) 1
  let w := (elemFmt d.copyFmt).width
  let k := a % rb
  let data := d.cols * w / 8
  a / rb * d.cols + (if k < data then (8 * k + 7) / w else 32 * (k - data) + 31)

/-- The last element that bytes off to off + n - 1 of a working copy hold, or scale. -/
def Desc.lastElem (d : TensorDesc) (off n : Nat) : Nat :=
  ((List.range n).map fun i => min (Desc.elemOf d (off + i)) (Desc.elems d - 1)).foldl max 0

/-- Write every burst of the working copy whose last element lies among elements first to first + n - 1, whole, which clears its
poison (R215, R276; DEDUCED, log entry 26). -/
def State.copyLines (s : State) (h : Nat) (d : TensorDesc) (hist : List Word) (first n : Nat) : State :=
  s.each (List.range (ceilDiv (d.copyAddr % 64 + Desc.copySize d) 64)) fun s l =>
    let k := copySpan d l
    let e := Desc.lastElem d k.1 k.2
    let a := d.copyAddr / 64 * 64 + 64 * l
    if first ≤ e ∧ e < first + n then
      hbmWrite s h a (patch (hbmRead s h a) (d.copyAddr % 64 + k.1 - 64 * l) (copyBytes s h d hist k.1 k.2))
    else s

/-- PITH_COPY: the elements that APPLY writes in the beat, into the working copy, counted under COPY_TENSOR: the values that
APPLY holds, with no read of the stack (R276). -/
def pithCopyEffect (pt stack : Nat) (d : TensorDesc) (first count : Nat) (s : State) : State :=
  s.onPith pt stack fun r h s =>
    let n := min (first + count) (Desc.elems d) - first
    if r.ph ≠ .committed ∨ d.copyFmt = 0xFF ∨ !Desc.due d (s.part pt).commits.toNat ∨
        !elemsDue s pt stack r 5 d first (first + n) then s
    else
      let s := s.each (copyUnits d first n) fun s u =>
        let k := s.copyUnit h d (r.history d.copyTensor) u
        let xs := k.2.2.map ofF32
        k.1.updRun pt fun r => r.census1 d.copyTensor d.copyFmt (amaxOf xs) k.2.1.zeros k.2.1.sats (nonfiniteOf xs)
      s.copyLines h d (r.history d.copyTensor) first n

/-- Master bytes from which bytes off to off + n - 1 of a working copy come, whole rows. -/
def regenReads (d : TensorDesc) (off n : Nat) : List (Nat × Nat) :=
  let rb := max (rowBytes d.copyFmt d.cols) 1
  [(d.masterAddr + 4 * (off / rb * d.cols), 4 * ((ceilDiv (off + n) rb - off / rb) * d.cols))]

/-- WORKING_COPY_REGEN: in the step gap after a discard, a poisoned copy line from the masters (R217). Where a master is
poisoned itself, the shard is lost and the line stays poisoned until it is restored (DESIGN CHOICE, log entry 26). -/
def workingCopyRegenEffect (pt stack : Nat) (d : TensorDesc) (line : Nat) (ecc : List EccObs) (s : State) : State :=
  match (s.part pt).running, (s.part pt).cur, (ptStacks s pt)[stack]? with
  | none, some r, some h =>
    let e := (pt, h, d.tensor, line)
    if s.mb.regen.contains e ∧ (descs (secPith ((s.part pt).image r) stack)).contains d then
      let k := copySpan d line
      let rd := touchAll s h (regenReads d k.1 k.2) ecc
      if !rd.2.isEmpty then rd.1.each rd.2 fun s a => s.poisonNotice pt h a
      else
        let s := { rd.1 with mb := { rd.1.mb with regen := rd.1.mb.regen.erase e } }
        let a := d.copyAddr / 64 * 64 + 64 * line
        hbmWrite s h a (patch (hbmRead s h a) (d.copyAddr % 64 + k.1 - 64 * line)
          (copyBytes s h d (r.history d.copyTensor) k.1 k.2))
    else s
  | _, _, _ => s

/-! ## A late phase (R258, R275) -/

/-- Every line of a tensor's working copy waits for its regeneration. -/
def State.copyFault (s : State) (pt h tensor : Nat) : State :=
  match (descs (secPith (stepImage s pt) (relStack s pt h))).find? fun d => d.tensor = tensor ∧ d.copyFmt ≠ 0xFF with
  | none => s
  | some d =>
    let n := ceilDiv (d.copyAddr % 64 + Desc.copySize d) 64
    (s.notifyLines pt 1 tensor h 0 n).each (List.range n) fun s l => s.needRegen pt h tensor l

/-- The phases of an operation that name an absolute unit and end with the beat that runs (R258). -/
def phasesEnding (s : State) (pt unit op : Nat) (r : StepRun) : List PhaseRec :=
  (phaseRecs (secPith ((s.part pt).image r) (relStack s pt (unit / 2)))).filter fun p =>
    p.op == op && bitAt p.units (unit % 2) && p.stop == s.offset r

/-- The tensors that phases of a program name. -/
def phaseTensors (prog : List Byte) (ps : List PhaseRec) : List Nat :=
  ps.flatMap fun p => (((descs prog).drop p.first).take p.count).map fun d => d.tensor

/-- PHASE_INCOMPLETE, in a phase's last beat: before the commit a fault of the Pith unit in that beat's last ac (DESIGN
CHOICE, log entry 26); after it R275 applies to those of the phase's tensors that are not done. -/
def phaseIncompleteEffect (pt unit op : Nat) (tensors : List Nat) (s : State) : State :=
  match (s.part pt).working with
  | none => s
  | some r =>
    let h := unit / 2
    let ps := phasesEnding s pt unit op r
    let all := phaseTensors (secPith ((s.part pt).image r) (relStack s pt h)) ps
    let tensors := tensors.filter all.contains
    if ps.isEmpty then s
    else if r.ph = .running then
      s.detect pt { plainFault 0x0106 (s.suspect 5 (atBits unit 31 5)) with point := 6, ac := acPerBeat r.tier - 1 }
    else if op = 4 then s.each tensors fun s t => s.applyFault pt h t 0 0
    else if op = 5 then s.each tensors fun s t => s.copyFault pt h t
    else s

/-! ## Meanings -/

def execPithVerify (pt j : Nat) (d : TensorDesc) (ecc : List EccObs) (s : State) :=
  checked (.pithVerify pt j d ecc) s (pithVerifyEffect pt j d ecc s)
def execPithNorm (pt : Nat) (s : State) := checked (.pithNorm pt) s (pithNormEffect pt s)
def execPithPrep (pt j : Nat) (d : TensorDesc) (s : State) (ecc : List EccObs := []) :=
  checked (.pithPrep pt j d ecc) s (pithPrepEffect pt j d ecc s)
def execPithApply (pt j : Nat) (d : TensorDesc) (first count : Nat) (ecc : List EccObs) (s : State) :=
  checked (.pithApply pt j d first count ecc) s (pithApplyEffect pt j d first count ecc s)
def execPithCopy (pt j : Nat) (d : TensorDesc) (first count : Nat) (s : State) :=
  checked (.pithCopy pt j d first count) s (pithCopyEffect pt j d first count s)
def execPithRefresh (pt j : Nat) (d : TensorDesc) (s : State) (ecc : List EccObs := []) :=
  checked (.pithRefresh pt j d ecc) s (pithRefreshEffect pt j d ecc s)
def execPhaseIncomplete (pt unit op : Nat) (ts : List Nat) (s : State) :=
  checked (.phaseIncomplete pt unit op ts) s (phaseIncompleteEffect pt unit op ts s)
def execWorkingCopyRegen (pt j : Nat) (d : TensorDesc) (line : Nat) (s : State) (ecc : List EccObs := []) :=
  checked (.workingCopyRegen pt j d line ecc) s (workingCopyRegenEffect pt j d line ecc s)

end Sys2Proof.Machine
end

