-- ==== Sys2Proof/Machine/Commit.lean ====
section
/-!
DEFINITION. The commit (10, 12): the decision at the commit beat, replica digests, parameter broadcasts and their replay,
checkpoint export, beat timers.
-/

namespace Sys2Proof.Machine

/-! ## Replica groups (R340 to R342) -/

/-- The value that the replica table holds for index i: an entry whose counter is the last cycle's end. -/
def replicaValue (x : RedPt) (i : Nat) : Option DWord :=
  match (mget none x.repTable i : Option (DWord × DWord)) with
  | some (c, d) => if c = x.repEnd then some d else none
  | none => none

/-- A value that more than half of G entries hold. -/
def majority (l : List (Option DWord)) : Option DWord :=
  (l.find? fun v => v.isSome && decide (l.length < 2 * (l.filter (· == v)).length)).join

/-- What the comparison of a cycle finds (R342): the event bit of Table 12-9, whether the shard is lost, and the indices
that disagree. -/
structure ReplicaOutcome where
  bit : Option Nat
  lost : Bool
  mask : Nat
deriving DecidableEq, Repr

/-- The comparison of G entries by a replica of index own; none where all are there and equal. -/
def compareReplicas (l : List (Option DWord)) (own : Nat) : Option ReplicaOutcome :=
  let differ (v : Option DWord) : Nat := maskOf ((List.range l.length).filter fun i => l.getD i none != v)
  if l.any Option.isNone then some { bit := some 6, lost := false, mask := differ (l.getD own none) }
  else if l.all fun v => v == l.getD own none then none
  else
    match majority l with
    | none => some { bit := some 5, lost := true, mask := 2 ^ l.length - 1 }
    | some v =>
      if l.getD own none = some v then some { bit := none, lost := false, mask := differ (some v) }
      else some { bit := some 4, lost := true, mask := differ (some v) }

/-- Every shard of the partition is lost with the replica-drift cause, until the host reloads it (R342). -/
def State.loseAll (s : State) (pt : Nat) : State :=
  s.each (ptStacks s pt).zipIdx fun s p =>
    s.each (descs (secPith (stepImage s pt) p.2)) fun s d => s.enterLost
      { pt, stack := p.1, tensor := d.tensor, drift := true, todo := Desc.shardRanges d }

/-- Act on a comparison. -/
def State.replicaAct (s : State) (pt : Nat) (o : ReplicaOutcome) : State :=
  let s := match o.bit with
    | some b => s.event (.red pt) b pt
    | none => s
  let s := if o.lost then s.loseAll pt else s
  s.notify pt { kind := 3, tensor := 0, stack := 0xFF, first := (s.redPt pt).repEnd.toNat, count := o.mask,
                step := stepBeat s pt }

/-- The replica cycle at a commit that gives commit counter n (R340 to R342). -/
def State.replicaCommit (s : State) (pt n slice : Nat) : State :=
  let x := s.redPt pt
  if x.rep.gm1 = 0 then s
  else
    let sum := (x.repSum + slice) % mersenne
    if n % (x.rep.km1 + 1) ≠ 0 then s.setRed pt { x with repSum := sum }
    else
      let l := (List.range (x.rep.gm1 + 1)).map (replicaValue x)
      let s := if x.repEnd = 0 then s
        else match compareReplicas l x.rep.index with
          | some o => s.replicaAct pt o
          | none => s
      let y := s.redPt pt
      s.setRed pt { y with
        repTable := mput none [] x.rep.index (some (BitVec.ofNat 64 n, BitVec.ofNat 64 sum)),
        repEnd := BitVec.ofNat 64 n, repSum := 0 }

/-! ## The commit (R273) -/

/-- The step commits: no fault of it has been detected and no notice taken in (R273), and a configuration commit of the same
boundary comes before (Table 2-4). -/
def mayCommit (s : State) (pt : Nat) (r : StepRun) : Bool :=
  !commitDue s && r.ph == .running && !r.replay && !r.faulted && !r.noticed && s.offset r == manCommitBeat ((s.part pt).image r)

/-- The refresh progress of every tensor that the step refreshed (R271). -/
def State.refreshAll (s : State) (pt : Nat) (r : StepRun) : State :=
  s.each r.refreshed fun s k =>
    match (descs (secPith ((s.part pt).image r) (relStack s pt k.1))).find? fun d => d.stateAddr = k.2 with
    | some d => s.pushRefresh k.1 d
    | none => s

/-- STEP_COMMIT, at order 5 of the boundary that starts the commit beat. -/
def stepCommitEffect (pt : Nat) (s : State) : State :=
  match (s.part pt).running with
  | none => s
  | some r =>
    if mayCommit s pt r then
      let n := (s.part pt).commits + 1
      let s := s.updPart pt fun p => { p with
        commits := n, commitSlot := r.slot, committedStarts := p.committedStarts ++ [r.start] }
      let s := s.updRun pt fun x => { x with ph := .committed, committedAt := s.cmb.beat }
      (s.refreshAll pt r).replicaCommit pt n.toNat r.repSlice
    else s

/-! ## Broadcasts (R277, R278, Table 3-6a) -/

/-- A broadcast event of the step runs: the step has committed, or it is a replay. -/
def StepRun.broadcasts (r : StepRun) : Bool := r.replay || r.ph == .committed

/-- The entries of a type of the image's external event list at a beat offset (R83). -/
def eventsAt (img : List Byte) (type beat : Nat) : List ExtEvent :=
  (extEvents img).filter fun e => e.type == type && e.beat == beat

/-- What a type-4 entry names: the relative stack, the tensor's descriptor and the first line (Table 3-6a). -/
def ExtEvent.copy (e : ExtEvent) (img : List Byte) : Nat × TensorDesc × Nat :=
  let j := field e.param 0 8
  (j, descAt (secPith img j) (field e.param 16 16), field e.param 32 32)

/-- A type-4 entry of the beat that names the slot, the working copy and its first line, for an occurrence of the slot (R83). -/
def castDue (img : List Byte) (beat slot occ : Nat) (x : Nat × TensorDesc × Nat) : Bool :=
  (eventsAt img 4 beat).any fun e =>
    e.object == slot && (slotRec img slot).beatOf occ == e.beat && decide (occ < (slotRec img slot).count) && e.copy img == x

/-- PARAMETER_BROADCAST: at its type-4 entry, lines of a working copy into the occurrence's transmit buffer (R83, R277): the
relative stack, the tensor's descriptor and the first line, counted from the copy's first byte. -/
def parameterBroadcastEffect (pt slot occ stack : Nat) (d : TensorDesc) (line : Nat) (s : State) (ecc : List EccObs) : State :=
  match (s.part pt).running with
  | none => s
  | some r =>
    let img := (s.part pt).image r
    let n := (slotRec img slot).payload
    match castDue img (s.offset r) slot occ (stack, d, line) && r.broadcasts && !r.tripped, (ptStacks s pt)[stack]? with
    | true, some h =>
      let off := d.copyAddr + 64 * line
      let m := min (n / 64 * 64) (Desc.copySize d - 64 * line)
      let s := if r.ph = .running then s.checkLost pt h else s
      let rd := readBursts s h (off / 64 * 64) (ceilDiv (off % 64 + m) 64) ecc
      let s := rd.s.each rd.bad fun s a => s.poisonNotice pt h a
      s.setTx pt { slot, occ, data := padTo n ((rd.lines.flatten.drop (off % 64)).take m) }
    | _, _ => s

/-! ## Checkpoint export (R279 to R281, R395, Table 10-7) -/

/-- A record's content: its form, 1 shard or 2 difference, and its plain payload. -/
structure ExportRec where
  form : Nat
  payload : List Byte

/-- The payload of a difference record, compressed (R178, R280). -/
def compressed (bs : List Byte) : List Byte := ((stashBlocks (ceilDiv bs.length 64) bs).map fun b => storeBlock b.2).flatten

/-- A descriptor's exported parts as they stand, each on its 64-byte boundary. -/
def shardBytes (s : State) (h : Nat) (d : TensorDesc) : List Byte :=
  (List.range 9).flatMap fun p => padTo (Desc.up64 (Desc.halfSize d p)) (stackX s h (Desc.partAddr d p) (Desc.halfSize d p))

/-- An APPLY phase of the stack's program in the image names the descriptor. -/
def applyNames (img : List Byte) (j : Nat) (d : TensorDesc) : Bool := !(phasePlaces (secPith img j) 4 d).isEmpty

/-- The records of one descriptor at an export event: the difference is zero for a tensor that the last commit did not update
(R262, R265), or that no APPLY phase of its image names. -/
def exportRecs (s : State) (pt h : Nat) (r : StepRun) (d : TensorDesc) : List ExportRec :=
  let commits := (s.part pt).commits.toNat
  let skip := if r.ph = .committed then r.skip else (s.part pt).lastSkip
  let last := ((s.part pt).slot (s.part pt).commitSlot).image
  let zero := skip || !Desc.due d commits || !applyNames last (relStack s pt h) d
  (if Desc.flag d 2 then [⟨1, shardBytes s h d⟩] else []) ++
    (if Desc.flag d 3 then
      [⟨2, compressed (if zero then zeros (Desc.halfOff d 9)
        else stackX s h (Desc.halfAddr d (commits % 2)) (Desc.halfOff d 9))⟩]
    else [])

/-- Header bytes 0 to 47 of a record. -/
def exportHeader (commits : DWord) (d : TensorDesc) (form seq bytes : Nat) : List Byte :=
  [0x51, 0x5A, 0x43, 0x4B] ++ toLE 1 form ++ toLE 1 (1 + 2 * b2n (Desc.flag d 0) + 4) ++ toLE 2 d.tensor ++
    toLE 8 commits.toNat ++ toLE 4 d.row0 ++ toLE 4 d.col0 ++ toLE 4 d.rows ++ toLE 4 d.cols ++ toLE 8 seq ++ toLE 8 bytes

/-- A record as it is written: header with its tag, then the encrypted payload. -/
def exportBytes (key : Key) (commits : DWord) (d : TensorDesc) (x : ExportRec) (seq : Nat) : List Byte :=
  let h := exportHeader commits d x.form seq x.payload.length
  let c := Config.gcmSeal key (toLE 8 seq ++ zeros 4) h x.payload
  h ++ toBE 16 c.2.toNat ++ c.1

/-- Write one record to the export object, or, where it does not fit, nothing more of the step (R395). -/
def State.exportOne (s : State) (pt : Nat) (key : Key) (d : TensorDesc) (x : ExportRec) : State :=
  match (s.part pt).running with
  | none => s
  | some r =>
    let i := field r.exportObj 0 16
    let o := objAt s r.ctx i
    let bs := exportBytes key (s.part pt).commits d x o.expSeq
    let off := r.exportOff + r.expOff
    if r.expShort then s
    else if o.length < off + bs.length then s.updRun pt fun r => { r with expShort := true }
    else
      let s := s.emitCkpt (.hostWrite (o.base + off) bs)
      let s := s.setObj r.ctx i { o with expSeq := o.expSeq + 1 }
      s.updRun pt fun r => { r with expOff := r.expOff + bs.length }

/-- Stack ranges that the export of a descriptor reads. -/
def exportReads (d : TensorDesc) (half : Nat) : List (Nat × Nat) :=
  (if Desc.flag d 2 then (List.range 9).map fun p => (Desc.partAddr d p, Desc.halfSize d p) else []) ++
    (if Desc.flag d 3 then [(Desc.halfAddr d half, Desc.halfOff d 9)] else [])

/-- What an export reads of a descriptor, with what the DRAM returned: poison before the commit discards the step, after it it
is noticed (R214 to R217, R275). -/
def State.exportRead (s : State) (pt h : Nat) (r : StepRun) (d : TensorDesc) (ecc : List EccObs) : State :=
  (s.pithReads pt h r (exportReads d ((s.part pt).commits.toNat % 2)) ecc).1

/-- CHECKPOINT_EXPORT: at its type-6 entry, the records of every descriptor of the stack's program that exports, under the
tenancy's checkpoint key (R83, R279, R280). -/
def checkpointExportEffect (pt stack : Nat) (ecc : List EccObs) (s : State) : State :=
  s.onPith pt stack fun r h s =>
    let img := (s.part pt).image r
    match (s.tenancy pt).ckptKey with
    | none => s
    | some key =>
      let ds := (descs (secPith img stack)).filter fun d => Desc.flag d 2 || Desc.flag d 3
      if r.exportObj = 0 ∨ ds.isEmpty ∨ !(eventsAt img 6 (s.offset r)).any (fun e => e.object == stack) then s
      else
        let s := if r.ph = .running then s.checkLost pt h else s
        let s := s.each ds fun s d =>
          let s := s.exportRead pt h r d ecc
          s.each (exportRecs s pt h r d) fun s x => s.exportOne pt key d x
        s.updPart pt fun p => { p with
          exporting := true,
          expShards := p.expShards ++ (ds.filter fun d => Desc.flag d 2).map fun d => (h, d.masterAddr),
          expHalves := p.expHalves ++ (ds.filter fun d => Desc.flag d 3).map fun d => (h, d.masterAddr, p.commits.toNat % 2) }

/-- The checkpoint engine has finished: a withheld step may be named (R281). -/
def checkpointExportDoneEffect (pt : Nat) (s : State) : State :=
  s.updPart pt fun p => { p with exporting := false, expShards := [], expHalves := [] }

/-! ## Beat timers (R403) -/

/-- BEAT_TIMER: at its type-5 entry, the vector of the step's queue, or a signal of TIMER_FENCE (R83, R403). -/
def beatTimerEffect (pt timer : Nat) (param : DWord) (s : State) : State :=
  match (s.part pt).working with
  | none => s
  | some r =>
    if !(eventsAt ((s.part pt).image r) 5 (s.offset r)).any (fun e => e.object == timer && e.param == param.toNat) then s
    else if param.getLsbD 0 then s.signalFence r.timerFence (BitVec.ofNat 32 (r.timerGen + field param.toNat 32 32))
    else s.raiseVec (vectorOf s r.queue)

/-! ## Meanings -/

def execStepCommit (pt : Nat) (s : State) := checked (.stepCommit pt) s (stepCommitEffect pt s)
def execParameterBroadcast (pt slot occ stack : Nat) (d : TensorDesc) (line : Nat) (s : State) (ecc : List EccObs := []) :=
  checked (.parameterBroadcast pt slot occ stack d line ecc) s (parameterBroadcastEffect pt slot occ stack d line s ecc)
def execCheckpointExport (pt j : Nat) (ecc : List EccObs) (s : State) :=
  checked (.checkpointExport pt j ecc) s (checkpointExportEffect pt j ecc s)
def execCheckpointExportDone (pt : Nat) (s : State) :=
  checked (.checkpointExportDone pt) s (checkpointExportDoneEffect pt s)
def execBeatTimer (pt t : Nat) (v : DWord) (s : State) := checked (.beatTimer pt t v) s (beatTimerEffect pt t v s)

end Sys2Proof.Machine
end

