-- ==== Sys2Proof/Machine/Report.lean ====
section
/-!
DEFINITION. What a step that ends leaves (06, 13, 14): the estimator entries of a commit, the census block, the fault
summary, and the completion; STEP_COMPLETION and DISCARD_REPORT.
-/

namespace Sys2Proof.Machine

/-! ## Conversions that an image names (R162, R168) -/

/-- A conversion to a narrow format by a word: tensor and format. -/
def wordCvt (sec : List Byte) (w : OpWord) : Option (Nat × Nat) :=
  if wOp w = 0x20 then
    match dCvt (chainDesc sec w) with
    | some g =>
      let t := dTensor (chainDesc sec w)
      if g.fmt = 0xA ∨ g.fmt = 0xB ∨ t = 0xFFFF then none else some (t, g.fmt)
    | none => none
  else none

/-- The conversions of the streams of an image. -/
def streamCvts (img : List Byte) : List (Nat × Nat) :=
  (secEnts img).flatMap fun e =>
    if e.type = 0x10 then (streamWords (secBytes img e)).filterMap (wordCvt (secBytes img e)) else []

/-- The working-copy conversions of the Pith programs of an image. -/
def copyCvts (img : List Byte) : List (Nat × Nat) :=
  (pithPrograms img).flatMap fun p => (descs p.2).filterMap fun d =>
    if d.copyFmt = 0xFF then none else some (d.copyTensor, d.copyFmt)

/-- The tensors that an image converts, ascending, with their formats. -/
def imgCvts (img : List Byte) : FMap Nat :=
  (streamCvts img ++ copyCvts img).foldl (fun m p => minsert m p.1 p.2) []

/-- A conversion to RB16 or RB1. -/
def isRb (fmt : Nat) : Bool := fmt == 0xC || fmt == 0xD

/-! ## Estimator entries (R164, R338) -/

/-- A history entry, and whether it is corrected four-fold. -/
structure HistEntry where
  value : Word
  corrected : Bool
deriving DecidableEq, Repr

/-- +inf is replaced by the largest finite value. -/
def capInf (w : Word) : Word := if w = 0x7F800000 then 0x7F7FFFFF else w

/-- The entry of a tensor with a plain or MX format. -/
def plainEntry (x : TensorNum) : HistEntry :=
  if x.sats = 0 then ⟨x.amax, false⟩ else ⟨capInf (rne ((ofF32 x.amax).scale 2)), true⟩

/-- The entry of an RB16 or RB1 tensor from the captured lane; none where a maximum is not finite. -/
def laneEntry (lane : List Byte) (t : Nat) : Option HistEntry :=
  let c := ofF32 (f32At lane (80 + 4 * t))
  let m := ofF32 (f32At lane (16464 + 4 * t))
  let bad := decide (getLE lane (32848 + t) 1 % 8 ≠ 0)
  if c.isFin ∧ m.isFin then
    let h := c.max (m.scale (-4))
    some ⟨capInf (rne (if bad then h.scale 2 else h)), bad⟩
  else none

/-- The entry that a committed step appends for a tensor. -/
def stepEntry (r : StepRun) (t : Nat) (x : TensorNum) : Option HistEntry :=
  if isRb x.fmt then r.lane.bind fun l => laneEntry l t else some (plainEntry x)

/-- ESTIMATOR_APPEND: one entry for every tensor that the step converted, in a window of W. -/
def State.appendHists (s : State) (pt : Nat) (r : StepRun) : State :=
  let w := (s.numPt pt).window
  s.updCtx r.ctx fun c =>
    { c with depth := c.depth + 1,
             hist := (r.tensors.filter fun e => e.1 < 4096).foldl (fun m e =>
               match stepEntry r e.1 e.2 with
               | some h => mput [] m e.1 ((h.value :: mget [] m e.1).take w)
               | none => m) c.hist }

/-! ## The census block (R168, R185, R207, Tables 6-3, 6-4) -/

/-- A counter that stops at FFFF_FFFFh, in 4 bytes. -/
def count4 (n : Nat) : List Byte := toLE 4 (min n 0xFFFFFFFF)

/-- SCALE_EXP, and whether a clamp acted. -/
def censusScale (r : StepRun) (t fmt : Nat) : Int × Bool :=
  if isRb fmt then
    let b := blockExp (r.history t) r.initB
    ((b.1 : Int) - 127, b.2)
  else if fmt = 0 ∨ fmt = 1 ∨ fmt = 3 then scaleExp (r.history t) fmt
  else (0, false)

/-- A census record. -/
def censusRec (r : StepRun) (committed : Bool) (t fmt : Nat) : List Byte :=
  let x : TensorNum := mget {} r.tensors t
  let sc := censusScale r t fmt
  let corrected := committed && r.tensors.any (fun e => e.1 == t) &&
    (match stepEntry r t x with
     | some h => h.corrected
     | none => false)
  toLE 2 t ++ toLE 1 fmt ++ toLE 1 (b2n (decide (x.sats ≠ 0)) + 2 * b2n corrected + 4 * b2n sc.2) ++ count4 x.zeros ++
    count4 x.sats ++ count4 x.nonfinite ++ toLE 4 x.amax.toNat ++ toLE 1 (BitVec.ofInt 8 sc.1).toNat ++ zeros 11

/-- The census block of a step that ended. -/
def censusBlock (s : State) (pt : Nat) (r : StepRun) (committed : Bool) : List Byte :=
  let cs := imgCvts ((s.part pt).image r)
  toLE 8 r.start.toNat ++ toLE 1 (b2n !committed) ++ toLE 1 r.tier ++ toLE 2 cs.length ++ count4 r.unchecked ++
    count4 r.ovfBlocks ++ count4 r.rawBlocks ++ count4 (r.fullBeat.getD 0xFFFFFFFF) ++ count4 r.peakStored ++
    count4 r.routed ++ count4 r.dropped ++ count4 r.tokensDropped ++ count4 r.nonfiniteTokens ++
    count4 r.fullExperts ++ count4 r.crExcess ++ count4 r.emptyBlocks ++ zeros 4 ++
    cs.flatMap fun e => censusRec r committed e.1 e.2

/-! ## The fault summary (R353, Tables 13-3, 13-4) -/

/-- Keys in the order of R353, kept stable. -/
def insertKey (k : FKey) : List FKey → List FKey
  | [] => [k]
  | x :: xs => if k.before x then k :: x :: xs else x :: insertKey k xs

def sortKeys (l : List FKey) : List FKey := l.foldl (fun acc k => insertKey k acc) []

/-- A fault summary record. -/
def FKey.bytes (k : FKey) : List Byte :=
  toLE 2 k.code.toNat ++ toLE 1 k.cls ++ toLE 1 k.point ++ count4 k.count ++ toLE 8 k.suspect.toNat ++
    toLE 8 k.origin.toNat ++ count4 k.beatOff ++ toLE 2 k.ac ++ toLE 2 k.cluster ++ toLE 1 k.stream ++
    toLE 1 k.hops ++ zeros 2 ++ toLE 4 k.word ++ toLE 4 k.detail ++ zeros 20

/-- The fault summary; a COMMITTED step's holds zero records. -/
def summary (r : StepRun) (committed : Bool) : List Byte :=
  let ks := if committed then [] else sortKeys r.keys
  toLE 2 (min ks.length 64) ++ toLE 2 (min (ks.length - 64) 0xFFFF) ++
    toLE 2 (if committed then 0 else r.cause.toNat) ++ toLE 1 r.rep ++ [0] ++ toLE 8 r.start.toNat ++ zeros 48 ++
    (ks.take 64).flatMap FKey.bytes

/-! ## Device-to-host data (R372, R373, R391) -/

/-- Encrypt and write bytes, padded to whole units, at an offset of a host object; answers IV_BASE, zero where none is written
(Table 14-8). -/
def State.hostData (s : State) (session : Word) (o : Obj) (off : Nat) (bs : List Byte) : State × DWord :=
  let x := s.session session.toNat
  if bs.isEmpty then (s, 0)
  else
  let s := s.setSession session.toNat { x with outCtr := x.outCtr + 1 }
  (s.each (List.range (ceilDiv bs.length 4096)) fun s i =>
    let c := Config.gcmSeal x.d2hData (toLE 8 x.outCtr.toNat ++ toLE 4 i) [] (padTo 4096 (bs.drop (4096 * i)))
    (s.emitPcie (.hostWrite (o.base + off + 4096 * i) c.1)).emitPcie
      (.hostWrite (o.tagBase + 16 * (off / 4096 + i)) (toBE 16 c.2.toNat)), x.outCtr)

/-! ## The end of a step -/

/-- Census block, fault summary and completion, in order (R352, R378, R394); a silent step writes none (R368, R374). -/
def State.report (s : State) (pt : Nat) (r : StepRun) (committed : Bool) : State :=
  let split := (s.part pt).splitNext
  let s := s.updPart pt fun p => { p with splitNext := false }
  if r.silent then s
  else
    let data := censusBlock s pt r committed ++ summary r committed
    let w := s.hostData r.session (objAt s r.ctx (field r.census 0 16)) r.censusOff data
    let s := if !committed ∧ 64 < r.keys.length then w.1.event .flt 7 pt (fltDetail pt r.cause 0) else w.1
    let flags := (if split then r.flags ||| splitFlag else r.flags).toNat
    s.hold r.queue (compBody 1 (b2n !committed) (if committed then 0 else r.cause.toNat) flags r.tier 1
      (b2n r.expShort) r.seq r.start.toNat (s.part pt).commits.toNat w.2) committed

/-- A committed step ends: its outcome is recorded in its completion beat. -/
def State.endCommitted (s : State) (pt : Nat) (r : StepRun) (beat : DWord) : State :=
  let s := s.appendHists pt r
  let s := s.setNum pt { s.numPt pt with
    satTensors := (r.tensors.filter fun e => e.1 < 4096 && e.2.sats != 0).length }
  let s := s.updPart pt fun p => { p with
    cur := some { r with ph := .done, endBeat := beat }, lastSkip := r.skip, outBeat := some beat, outDisc := false,
    horizon := 0, recovery := 0, recoveryDone := true }
  (s.endWork pt).report pt r true

/-- A broadcast of the beat that runs has neither been sent nor missed its slot; after a trip of the limiter none is sent (R455). -/
def broadcastOwed (s : State) (pt : Nat) (r : StepRun) : Bool :=
  let img := (s.part pt).image r
  !r.tripped && (List.range (slotCount img)).any fun i =>
    let sr := slotRec img i
    sr.dir == 0 && sr.type == 2 && (List.range sr.count).any fun k =>
      let b := slotBuf (s.ptBufs pt).tx i k
      sr.beatOf k == s.offset r && !b.arrived && !b.missed

/-- Frames of a message on a port of the partition, other than those of the control slot. -/
def Out.slotFrames (o : Out) (ports : List Nat) : Bool :=
  match o with
  | .frames n _ _ fs => ports.contains n && fs.any fun f => decide (f.1 < 1545)
  | _ => false

/-- Stage 9 has finished on every port of the step: its last broadcasts have been sent and have left the release buffer
(R28, R29). -/
def broadcastsEnded (s : State) (pt : Nat) (r : StepRun) : Bool :=
  !broadcastOwed s pt r && !s.gates.bough.any fun o => o.slotFrames (ptPorts s pt)

/-- A replay of broadcasts ends DISCARDED with the broadcast-replay cause (R278). -/
def State.endReplay (s : State) (pt : Nat) (r : StepRun) : State :=
  let k := localKey s r (plainFault 0x0504 (s.suspect 0 0))
  (s.updRun pt fun r => { r with keys := (addKey r.keys k).1 }).dropNow pt

/-- STEP_COMPLETION in beat STEP_BEATS - 1, after every broadcast has ended: a committed step ends, or a replay (R28,
R278). -/
def stepCompletionEffect (pt : Nat) (s : State) : State :=
  match (s.part pt).running with
  | none => s
  | some r =>
    let n := imgStepBeats ((s.part pt).image r)
    if s.offset r + 1 < n ∨ !broadcastsEnded s pt r then s
    else
      let s := s.advanceBeat pt
      match (s.part pt).running with
      | none => s
      | some r =>
        if r.replay then s.endReplay pt r
        else if r.ph = .committed then s.endCommitted pt r (r.start + BitVec.ofNat 64 (n - 1))
        else s

/-- DISCARD_REPORT: HORIZON beats after the boundary at which the step was dropped (R352). -/
def discardReportEffect (pt : Nat) (s : State) : State :=
  match (s.part pt).cur with
  | none => s
  | some r =>
    if r.ph = .discarded ∧ !r.reported ∧ r.endBeat.toNat + (s.part pt).horizon ≤ s.cmb.beat.toNat then
      (s.updRun pt fun r => { r with reported := true }).report pt r false
    else s

/-! ## Meanings -/

def execStepCompletion (pt : Nat) (s : State) := checked (.stepCompletion pt) s (stepCompletionEffect pt s)
def execDiscardReport (pt : Nat) (s : State) := checked (.discardReport pt) s (discardReportEffect pt s)

end Sys2Proof.Machine
end

