-- ==== Sys2Proof/Machine/Slots.lean ====
section
/-!
DEFINITION. Slots (02, 11, 12): the frames of a message, transmit and receive occurrences with their checks and the port
adder, slot misses and corrupt broadcasts, replica digest messages, Graft traffic, the lane check, and the settings of RED
that wait for a step boundary.
-/

namespace Sys2Proof.Machine

/-! ## Messages and frames (R296, R298, R303, Table 11-6) -/

/-- The header of a message. -/
def msgHeader (type frames : Nat) (start : DWord) (payload : List Byte) : List Byte :=
  toLE 1 type ++ zeros 3 ++ toLE 2 frames ++ zeros 2 ++ toLE 8 start.toNat ++ toLE 8 (crc64 payload) ++ zeros 8

/-- A frame under a key: the encrypted body and its tag; nonce LINK_BEAT and frame time. -/
def sealFrame (k : Key) (linkBeat : DWord) (time : Nat) (body : List Byte) : List Byte :=
  let c := Config.gcmSeal k (toLE 8 linkBeat.toNat ++ toLE 2 time ++ zeros 2) [] body
  c.1 ++ toBE 16 c.2.toNat

/-- A port sends the bytes of a message in the frames of the given times, in plaintext while it has no key (R304). -/
def State.sendMessage (s : State) (n ns : Nat) (times : List Nat) (msg : List Byte) : State :=
  let p := s.port n
  let body (i : Nat) : List Byte := (msg.drop (256 * i)).take 256
  s.emitBough (.frames n s.nowBeat ns (times.zipIdx.map fun f => (f.1, match p.keyTx with
    | some k => sealFrame k p.txBeat f.1 (body f.2)
    | none => body f.2)))

/-! ## Transmit occurrences (R57, R300, R341) -/

/-- The payload of a replica digest message: 8 entries, counter and digest with VALID in bit 63 (R341). -/
def replicaPayload (x : RedPt) : List Byte :=
  (List.range 8).flatMap fun i => match (mget none x.repTable i : Option (DWord × DWord)) with
    | some (c, d) => toLE 8 c.toNat ++ toLE 8 (field d.toNat 0 63 + 2 ^ 63)
    | none => zeros 16

/-- The occurrence carries a message in this step: a broadcast only after the commit or in a replay, everything else only
outside a replay (R273, R278). -/
def slotCarries (r : StepRun) (sr : SlotRec) : Bool := if sr.type = 2 then r.broadcasts else !r.replay

/-- The payload that a transmit occurrence sends. -/
def txPayload (s : State) (pt slot occ : Nat) (sr : SlotRec) : List Byte :=
  padTo sr.payload (if sr.type = 5 then replicaPayload (s.redPt pt) else (slotBuf (s.ptBufs pt).tx slot occ).data)

/-- The ac within its beat of a fault at an instant u, in 1/64 ns from the step's start beat (R76). -/
def faultAc (r : StepRun) (u : Nat) : Nat := acOfTime r.tier u % acPerBeat r.tier

/-- SLOT_TRANSMIT: the first frame starts, at a time in 1/64 ns, no earlier than S and within 8 ns after it, or the
occurrence is a slot miss at the end of that time (R57, R75, R300). An occurrence is sent once. -/
def slotTransmitEffect (pt slot occ start : Nat) (s : State) : State :=
  match (s.part pt).running with
  | none => s
  | some r =>
    let img := (s.part pt).image r
    let sr := slotRec img slot
    let n := absPort s pt sr.port
    let b := slotBuf (s.ptBufs pt).tx slot occ
    let beat := 64000 * sr.beatOf occ
    if slotCount img ≤ slot ∨ sr.dir ≠ 0 ∨ sr.count ≤ occ ∨ s.offset r ≠ sr.beatOf occ ∨ !slotCarries r sr ∨ start < sr.start ∨
        b.arrived ∨ b.missed ∨ r.tripped ∨ commitDue s then s
    else if (s.port n).active ∧ start ≤ sr.start + 512 then
      let s := s.advanceTo pt (beat + start)
      let pay := txPayload s pt slot occ sr
      let s := s.setTx pt { slotBuf (s.ptBufs pt).tx slot occ with slot, occ, arrived := true }
      s.sendMessage n (start / 64) (slotFrames sr) (msgHeader sr.type sr.frames r.start pay ++ pay)
    else
      (s.setTx pt { b with slot, occ, missed := true }).detect pt
        { plainFault 0x0101 (ownLink s n) with point := 1, ac := faultAc r (beat + sr.start + 512), detail := slot }

/-! ## Slot misses (R58, R278, R301, R302, R347) -/

/-- The suspect of a miss: the lane that lost the frames, the partner where none authenticated, else the link. -/
def missSuspect (s : State) (n : Nat) (lane : Option Nat) (someFrame : Bool) : DWord :=
  match lane with
  | some l => s.suspect 2 (atBits n 32 4 + atBits l 27 5)
  | none => if !someFrame && (s.port n).st == .up then suspectOf 9 0 (s.port n).partner else linkSuspect s n

/-- The committed step whose broadcasts a step carries. -/
def broadcastStep (s : State) (pt : Nat) (r : StepRun) : DWord :=
  if r.replay then (s.part pt).committedStarts.getLastD 0 else r.start

/-- A broadcast missed or failed its check after the commit: the step stays COMMITTED, a notice names the broadcast, and
the broadcasts run again (R278, R302, R349). -/
def State.missBroadcast (s : State) (pt n : Nat) (r : StepRun) : State :=
  let s := s.event (.bgh n) 10 pt [BitVec.ofNat 8 n]
  let ks := addKey r.keys (localKey s r (plainFault 0x0504 (s.suspect 0 0)))
  let s := s.updRun pt fun r => { r with keys := ks.1 }
  let s := s.updPart pt fun p => { p with replayNext := true }
  s.queueAll (noticeRec 0 0x0504 1 (broadcastStep s pt r) s.shortId (s.suspect 0 0))

/-- A receive occurrence is a slot miss at an instant u of the step, counted in BGH_SLOT_MISS. -/
def State.slotMiss (s : State) (pt slot occ u : Nat) (r : StepRun) (suspect : DWord) : State :=
  let img := (s.part pt).image r
  let sr := slotRec img slot
  let n := absPort s pt sr.port
  let s := s.setRx pt { slotBuf (s.ptBufs pt).rx slot occ with slot, occ, missed := true }
  let s := s.updPort n fun p => { p with slotMiss := satSucc p.slotMiss }
  let s := s.event (.bgh n) 7 pt [BitVec.ofNat 8 n]
  if sr.type = 2 ∧ (r.replay ∨ afterCommit img sr occ) then s.missBroadcast pt n r
  else s.detect pt { plainFault 0x0102 suspect with point := 2, ac := faultAc r u, detail := slot }

/-- The receive occurrence is one that the step still waits for. -/
def awaits (s : State) (pt slot occ : Nat) (r : StepRun) : Bool :=
  let img := (s.part pt).image r
  let sr := slotRec img slot
  let b := slotBuf (s.ptBufs pt).rx slot occ
  decide (slot < slotCount img) && sr.dir == 1 && decide (occ < sr.count) && (!r.replay || sr.type == 2) &&
    !b.arrived && !b.missed

/-! ## The port adder (R326, R327, R330) -/

/-- The checks on a chunk that arrives: STAMPED, B of every block, the residues (R326, R330). -/
def State.arriveChecks (s : State) (pt n : Nat) (b : List Byte) : State :=
  let s := s.checked? pt (linkSuspect s n) (residueFault b)
  s.checked? pt (linkSuspect s n)
    (if !chStamped b then some (chFirst b)
     else (firstBad RBlock.bOk (chBlockList b)).map fun j => (chFirst b + j) % 2 ^ 32)

/-- A chunk arrives in a landing buffer: it lands unchanged, or the port adds it to the preload (R327). -/
def State.landChunk (s : State) (pt n : Nat) (sr : SlotRec) (b : SlotBuf) (payload : List Byte) : State :=
  let arr := payload.take (chLength payload)
  if b.preloaded then
    let pre := b.data.take (chLength b.data)
    let s := s.checked? pt (linkSuspect s n) (residueFault arr)
    let s := s.checked? pt (clusterSuspect s b.src) (residueFault pre)
    let s := s.checked? pt (linkSuspect s n) (matchFault pre arr)
    let sum := addChunks (digestBase s pt (chTensor pre)) pre arr
    let s := s.setRx pt { b with data := padTo sr.payload sum, arrived := true }
    s.completeChunk pt sum
  else
    let s := s.arriveChecks pt n arr
    let s := s.setRx pt { b with data := padTo sr.payload payload, arrived := true }
    s.completeChunk pt arr

/-- The header and the CHECK of an occurrence are those that the slot and the step demand (R301). -/
def arrivalOk (r : StepRun) (sr : SlotRec) (a : Arrival) : Bool :=
  a.framesOk && a.type == sr.type && a.frames == sr.frames && a.stepStart == r.start &&
    a.check.toNat == crc64 a.payload

/-- The deadline d of an occurrence from the start of the step, in 1/64 ns (R58). -/
def deadlineOf (img : List Byte) (sr : SlotRec) (occ : Nat) : Nat :=
  sr.beatOf occ * 64000 + slotDeadline sr (manLmax img sr.port)

/-- SLOT_RECEIVE: a receive occurrence whose last frame has been received at a.time, in the beat that holds it (R58, R301).
One that comes after its deadline changes nothing: the expiry records the miss. -/
def slotReceiveEffect (pt slot occ : Nat) (a : Arrival) (s : State) : State :=
  match (s.part pt).running with
  | none => s
  | some r =>
    let img := (s.part pt).image r
    let sr := slotRec img slot
    let n := absPort s pt sr.port
    let at_ := sr.beatOf occ * 64000 + a.time
    if deadlineOf img sr occ < at_ ∨ at_ / 64000 ≠ s.offset r ∨ !awaits s pt slot occ r then s
    else if arrivalOk r sr a then
      let s := s.advanceTo pt at_
      let b := { slotBuf (s.ptBufs pt).rx slot occ with slot, occ }
      if sr.type = 1 then s.landChunk pt n sr b a.payload
      else s.setRx pt { b with data := padTo sr.payload a.payload, arrived := true }
    else (s.advanceTo pt at_).slotMiss pt slot occ at_ r (missSuspect s n a.lane a.someFrame)

/-- SLOT_DEADLINE_EXPIRY: the deadline d passes in the beat that runs and the occurrence has not arrived (R58): it is a miss
at the boundary that ends the beat, unless SLOT_RECEIVE comes before. -/
def slotDeadlineExpiryEffect (pt slot occ : Nat) (s : State) (lane : Option Nat) (someFrame : Bool) : State :=
  match (s.part pt).running with
  | none => s
  | some r =>
    let img := (s.part pt).image r
    if awaits s pt slot occ r ∧ deadlineOf img (slotRec img slot) occ / 64000 ≤ s.offset r then
      s.setDue pt (.slot slot occ lane someFrame)
    else s

/-- The occurrence has not arrived by d (R58); the suspect follows from what arrived of it (R347). -/
def State.expireSlot (s : State) (pt slot occ : Nat) (lane : Option Nat) (someFrame : Bool) : State :=
  match (s.part pt).running with
  | none => s
  | some r =>
    if awaits s pt slot occ r then
      let img := (s.part pt).image r
      s.slotMiss pt slot occ (deadlineOf img (slotRec img slot) occ) r
        (missSuspect s (absPort s pt (slotRec img slot).port) lane someFrame)
    else s

/-! ## Replica digest messages (R341) -/

/-- Entry i of a payload: its counter and digest where it is VALID and its counter is the last cycle's end. -/
def replicaEntry (x : RedPt) (payload : List Byte) (i : Nat) : Option (DWord × DWord) :=
  let c := BitVec.ofNat 64 (getLE payload (16 * i) 8)
  let d := getLE payload (16 * i + 8) 8
  if bitAt d 63 ∧ c = x.repEnd then some (c, BitVec.ofNat 64 (field d 0 63)) else none

/-- REPLICA_DIGEST: the valid entries of the last cycle enter the table. -/
def replicaDigestEffect (pt : Nat) (payload : List Byte) (s : State) : State :=
  let x := s.redPt pt
  if (s.part pt).working.isNone then s
  else
    let t := (List.range 8).foldl (fun m i => match replicaEntry x payload i with
      | some e => mput none m i (some e)
      | none => m) x.repTable
    s.setRed pt { x with repTable := t }

/-! ## Graft ingress (R310 to R313, Table 11-11) -/

/-- Place of a record's data for a step number. -/
def graftKey (idx : Nat) (step : DWord) : Nat := idx * 2 + step.toNat % 2

/-- What has arrived for a record and a step number. -/
def graftArrived (s : State) (pt idx : Nat) (step : DWord) : GraftIn :=
  match (mget none (s.ptBufs pt).graftIn (graftKey idx step) : Option GraftIn) with
  | some g => if g.step = step then g else { step := step }
  | none => { step := step }

/-- Every element, or the barrier, of a record is there. -/
def GraftIn.complete (x : GraftIn) (g : GraftRec) : Bool :=
  if g.kind = 3 then x.barrier else decide (g.elements ≤ x.elems.length)

/-- The elements of a message from the partner, exactly (Table 11-11). -/
def wireElems (yelger : Bool) (g : GraftRec) (data : List Byte) : List Ext :=
  if yelger then
    let k := ofF32 (f32At data 0)
    (data.drop 4).map fun b => (decodeN (elemFmt (if g.kind = 1 then 1 else 0)) b.toNat).mul k
  else (List.range (data.length / 2)).map fun i => decodeN fBF16 (getLE data (2 * i) 2)

/-- Consecutive groups of 32. -/
def groups32 : Nat → List Ext → List (List Ext)
  | 0, _ => []
  | n + 1, l => if l.isEmpty then [] else l.take 32 :: groups32 n (l.drop 32)

/-- A contribution block of a Graft port, rounded to nearest even (R311, R319). -/
def graftBlock (b : Nat) (xs : List Ext) : RBlock :=
  let ys := xs ++ List.replicate (32 - xs.length) .zero
  if ys.all Ext.isZero then .marker
  else if ys.any fun v => !v.isFin then .bad b
  else (rb16Block b (ys.map fun v => (v, .near))).1

/-- The chunk that an ingress gradient record forms, before it is stamped (R312; PRESUMED, log entry 11). -/
def graftChunk (b : Nat) (g : GraftRec) (xs : List Ext) : List Byte :=
  let ks := (groups32 (xs.length + 1) xs).map (graftBlock b)
  let h := [1, 0xC] ++ toLE 2 g.tensor ++ toLE 4 0 ++ toLE 4 ks.length ++ toLE 2 1
  padTo 64 h ++ ks.flatMap RBlock.bytes16

/-- The bytes that parameters of a partner-owned tensor land as, with what COPY counts (Table 11-11, R276). -/
def graftParams (hist : List Word) (g : GraftRec) (xs : List Ext) : List Byte × Nat × Nat :=
  if g.fmt = 0xA then (f32Bytes (xs.map rne), 0, 0)
  else
    let cs := if isMx g.fmt then (groups32 (xs.length + 1) xs).map (convertX hist g.fmt) else [convertX hist g.fmt xs]
    (cs.flatMap Conv.bytes ++ cs.flatMap (fun c => match c.scale with
      | some b => toLE 1 b
      | none => []), (cs.map Conv.zeros).sum, (cs.map Conv.sats).sum)

/-- Land a complete record of the running step in its region. -/
def State.graftLand (s : State) (pt idx : Nat) (r : StepRun) : State :=
  let img := (s.part pt).image r
  let g := graftRec img idx
  let x := graftArrived s pt idx r.graftStep
  let xs := x.elems.take g.elements
  let a := graftRegion img g (r.graftStep.toNat % 2)
  if !x.complete g then s
  else if g.kind = 1 then
    let c := stampChunk s pt (graftChunk (stepB r g.tensor) g xs)
    let ks := chBlockList c
    let s := ptWrite s pt a c
    s.updRun pt fun r => r.laneCvt g.tensor (amaxOf xs) (ks.any RBlock.sat) (ks.any RBlock.nonfin)
  else if g.kind = 2 then
    let c := graftParams (r.history g.tensor) g xs
    let s := ptWrite s pt a c.1
    if g.fmt = 0xA then s
    else s.updRun pt fun r => r.census1 g.tensor g.fmt (amaxOf xs) c.2.1 c.2.2 (nonfiniteOf xs)
  else s

/-- What arrived early for a step lands when the step starts (R310). -/
def State.graftLandAll (s : State) (pt : Nat) (r : StepRun) : State :=
  s.each (List.range (graftCount ((s.part pt).image r))) fun s i =>
    if (graftRec ((s.part pt).image r) i).dir = 1 then s.graftLand pt i r else s

/-- The port speaks a partner's older link and is up. -/
def graftPort (s : State) (n : Nat) : Bool := (s.port n).mode != 0 && (s.port n).st == .up

/-- GRAFT_INGRESS: data for GRAFT_STEP of the current step, or for the number after it; other data is dropped (R310). -/
def graftIngressEffect (pt n idx : Nat) (step : DWord) (data : List Byte) (s : State) : State :=
  match (s.part pt).cur with
  | none => if graftPort s n then s.updPort n fun p => { p with graftDrop := satSucc p.graftDrop } else s
  | some r =>
    let img := (s.part pt).image r
    let g := graftRec img idx
    if !graftPort s n ∨ graftCount img ≤ idx ∨ g.dir ≠ 1 ∨ absPort s pt g.port ≠ n then s
    else if step ≠ r.graftStep ∧ step ≠ r.graftStep + 1 then
      s.updPort n fun p => { p with graftDrop := satSucc p.graftDrop }
    else
      let x := graftArrived s pt idx step
      let new := if g.kind = 3 then { x with barrier := true }
        else { x with elems := x.elems ++ wireElems (isYelger img g.port) g data }
      let s := s.setBufs pt { s.ptBufs pt with
        graftIn := mput none (s.ptBufs pt).graftIn (graftKey idx step) (some new) }
      match (s.part pt).working with
      | some r => if step = r.graftStep ∧ !x.complete g then s.graftLand pt idx r else s
      | none => s

/-- The record's deadline and tolerance end with the beat that runs, and it is not complete (R313). -/
def graftLate (s : State) (pt idx : Nat) (r : StepRun) : Bool :=
  let img := (s.part pt).image r
  let g := graftRec img idx
  decide (idx < graftCount img) && g.dir == 1 && s.offset r == g.deadline + g.tol &&
    !(graftArrived s pt idx r.graftStep).complete g

/-- GRAFT_DEADLINE: beat DEADLINE + TOL runs and the record is not complete; it expires at order 3 of the boundary that ends
the beat (R313). -/
def graftDeadlineEffect (pt idx : Nat) (s : State) : State :=
  match (s.part pt).working with
  | none => s
  | some r => if graftLate s pt idx r then s.setDue pt (.graft idx) else s

/-- The record has not come by its deadline and tolerance (R313). -/
def State.expireGraft (s : State) (pt idx : Nat) : State :=
  match (s.part pt).working with
  | none => s
  | some r =>
    let n := absPort s pt (graftRec ((s.part pt).image r) idx).port
    if !graftLate s pt idx r then s
    else
      let s := s.event (.bgh n) 9 pt [BitVec.ofNat 8 n]
      let s := s.detect pt (plainFault 0x0503 (ownLink s n))
      s.emitBough (.graftAbort n)

/-- The region's contents are on their way to the partner as a record's data. -/
def GraftOut.sends (e : GraftOut) (n idx : Nat) : Bool := e.sending && e.port == n && e.idx == idx

/-- GRAFT_EGRESS_DONE: the region's contents have gone out (R314). -/
def graftEgressDoneEffect (n idx : Nat) (s : State) : State :=
  match ptOfPort s n with
  | some pt => s.setBufs pt { s.ptBufs pt with graftOut := (s.ptBufs pt).graftOut.filter fun e => !e.sends n idx }
  | none => s

/-! ## The lane check (R337) -/

/-- The step selects the fused norm: no software norm, and the image has a Pith program (R264). -/
def fusedNorm (img : List Byte) (r : StepRun) : Bool := !r.swNorm && !(pithPrograms img).isEmpty

/-- A statistic of the captured lane that lies below the local accumulator. -/
def laneLacks (r : StepRun) (b : List Byte) : Bool :=
  (List.range 4096).any fun t =>
    (ofF32 (f32At b (80 + 4 * t))).lt (ofF32 (mget 0 r.cmax t)) ||
      (ofF32 (f32At b (16464 + 4 * t))).lt (ofF32 (mget 0 r.smax t)) ||
      decide (Nat.lor (getLE b (32848 + t) 1) (mget 0 r.lflags t) ≠ getLE b (32848 + t) 1)

/-- The lane of a step fails its check. -/
def laneBad (img : List Byte) (r : StepRun) : Bool :=
  match r.lane with
  | none => (imgCvts img).any (fun e => isRb e.2) || fusedNorm img r
  | some b => r.laneDiffers || laneLacks r b

/-- LANE_CHECK: NORM_BEAT runs, and the lane is compared at the boundary that ends it. -/
def laneCheckEffect (pt : Nat) (s : State) : State :=
  match (s.part pt).working with
  | none => s
  | some r => if s.offset r = imgNormBeat ((s.part pt).image r) then s.setDue pt .lane else s

/-- The comparison of the lane. -/
def State.expireLane (s : State) (pt : Nat) : State :=
  match (s.part pt).working with
  | none => s
  | some r =>
    if laneBad ((s.part pt).image r) r then
      (s.event (.red pt) 3 pt).detect pt (plainFault 0x0203 (s.suspect 0 0))
    else s

/-! ## Settings that wait (R343) -/

/-- RED_SETTING_APPLY: at a step boundary with a commit counter that is a multiple of 64. A new replica group starts its
cycle anew. -/
def redSettingApplyEffect (pt : Nat) (s : State) : State :=
  let x := s.redPt pt
  if (s.part pt).running.isSome ∨ (s.part pt).commits.toNat % 64 ≠ 0 then s
  else
    let x := match x.nextRep with
      | some r => { x with rep := r, nextRep := none, repTable := [], repSum := 0, repEnd := 0 }
      | none => x
    s.setRed pt { x with thin := x.nextThin.getD x.thin, nextThin := none }

/-! ## Meanings -/

def execSlotTransmit (p l o n : Nat) (s : State) := checked (.slotTransmit p l o n) s (slotTransmitEffect p l o n s)
def execSlotReceive (p l o : Nat) (a : Arrival) (s : State) :=
  checked (.slotReceive p l o a) s (slotReceiveEffect p l o a s)
def execSlotDeadlineExpiry (p l o : Nat) (s : State) (k : Option Nat := none) (f : Bool := false) :=
  checked (.slotDeadlineExpiry p l o k f) s (slotDeadlineExpiryEffect p l o s k f)
def execReplicaDigest (p : Nat) (b : List Byte) (s : State) := checked (.replicaDigest p b) s (replicaDigestEffect p b s)
def execGraftIngress (p n g : Nat) (k : DWord) (b : List Byte) (s : State) :=
  checked (.graftIngress p n g k b) s (graftIngressEffect p n g k b s)
def execGraftDeadline (p g : Nat) (s : State) := checked (.graftDeadline p g) s (graftDeadlineEffect p g s)
def execGraftEgressDone (n g : Nat) (s : State) := checked (.graftEgressDone n g) s (graftEgressDoneEffect n g s)
def execLaneCheck (p : Nat) (s : State) := checked (.laneCheck p) s (laneCheckEffect p s)
def execRedSettingApply (p : Nat) (s : State) := checked (.redSettingApply p) s (redSettingApplyEffect p s)

end Sys2Proof.Machine
end

