-- ==== Sys2Proof/Machine/Recovery.lean ====
section
/-!
DEFINITION. Faults from outside a stream (13): a detection that drops a step, fault notices, and the recovery interval
with its remedies: memory tests, row repair and page retirement, cluster remaps, failed lanes, ports and engines.
-/

namespace Sys2Proof.Machine

/-! ## STEP_DISCARD and FAULT_NOTICE (R348, R350) -/

/-- STEP_DISCARD: a detector finds a fault of the running step before its commit, and the step is dropped at the boundary
(R348), where the pending suspects are classified first (R356); after the commit, or with no step running, the fault is noticed or logged alone (R274, R349). -/
def stepDiscardEffect (pt : Nat) (f : FaultInfo) (s : State) : State :=
  match (s.part pt).running with
  | none => s.detect pt f
  | some r => if r.ph = .running then (((s.advanceBeat pt).detect pt f).classifyAll pt).dropNow pt else s.detect pt f

/-- FAULT_NOTICE: a record taken in at order 1 on a port (R350, R274, R278). -/
def faultNoticeEffect (port : Nat) (rec : List Byte) (s : State) : State :=
  match ptOfPort s port with
  | some pt => if (s.port port).active ∧ getLE rec 0 1 = 1 then s.takeNotice pt (noticeOf rec) else s
  | none => s

/-! ## What an image uses -/

/-- A program names a unit, 0 the even and 1 the odd one of its stack. -/
def progNames (prog : List Byte) (u : Nat) : Bool := (phaseRecs prog).any fun r => bitAt r.units u

/-- An image has a GVSEND in a relative grove (Table 13-5). -/
def imgGvsend (img : List Byte) (grove : Nat) : Bool :=
  (secEnts img).any fun e => e.type == 0x10 && e.grove == grove && (streamWords (secBytes img e)).any fun w => wOp w == 0x33

/-- An image has a non-empty stream on a relative cluster (R96, R107). -/
def imgUsesCluster (img : List Byte) (c : Nat) : Bool :=
  (secEnts img).any fun e => e.type == 0x10 && 100 * e.grove + e.cluster == c && decide (0 < e.size)

/-! ## Memory tests, repair and retirement (R223 to R227, R359) -/

/-- The result of a test in the interval; a test that no result names has passed. -/
def testPassed (tests : List TestResult) (unit : Nat) : Bool :=
  match tests.find? fun t => t.unit == unit with
  | some t => t.passed
  | none => true

/-- The row that an HBM_PAGE location names. -/
def locRow (loc : Nat) : Nat := field loc 32 4 * 2 ^ 25 + field loc 7 20 * 32 + field loc 27 5

/-- Rows repaired in a PC. -/
def repairsIn (s : State) (row : Nat) : Nat :=
  (s.mb.repaired.filter fun x => rowStack x == rowStack row && rowPc x == rowPc row).length

/-- A row is no longer marked, and its corrections are counted anew. -/
def State.unmark (s : State) (row : Nat) : State :=
  { s with mb := { s.mb with marked := s.mb.marked.filter fun x => x ≠ row, rowCe := merase s.mb.rowCe row } }

/-- ROW_REPAIR, PAGE_RETIRE, or poisoning in place (R224 to R226). The row is read, corrected where the side-band code allows;
a burst that it could not correct is poisoned. -/
def State.repairRow (ecc : List EccObs) (s : State) (row : Nat) : State :=
  let h := rowStack row
  let a := row % 2 ^ 25 * 2048
  let s := (readBursts (s.unmark row) h a 32 ecc).s.unmark row
  if !s.mb.repaired.contains row && Config.repairLeft (32 * h + rowPc row) (repairsIn s row) then
    ({ s with mb := { s.mb with repaired := s.mb.repaired ++ [row] } }).event .mem 3 0xFF (memDetail h a)
  else if retiredIn s row < 16 then
    ({ s with mb := { s.mb with retired := s.mb.retired ++ [(h, rowPc row, rowPage row, retiredIn s row)] } }).event
      .mem 4 0xFF (memDetail h a)
  else (s.each (List.range 32) fun s i => s.setPoison h (a + 64 * i) true).event .mem 5 0xFF (memDetail h a)

/-! ## Cluster remaps (R25, R96, R361, R362) -/

/-- Retire a physical cluster of a grove. -/
def GroveMap.retire (g : GroveMap) (phys : Nat) : GroveMap :=
  { g with retired := if g.retired.contains phys then g.retired else g.retired ++ [phys] }

/-- The logical cluster is left unbacked: slots with a stream on it move to REFUSED (R96); the event names the cause and the
suspect (R365). -/
def State.unback (s : State) (pt g idx : Nat) (detail : List Byte) : State :=
  let m := s.grove g
  let s := s.setGrove g { m with unbacked := if m.unbacked.contains idx then m.unbacked else m.unbacked ++ [idx] }
  let s := s.event .flt 3 pt detail
  s.refuseSlots pt 0x0017 fun img => imgUsesCluster img (100 * (g - ptFirst s pt) + idx)

/-- Try the free spares in ascending order; answers the state and the attempts. -/
def remapTry (s : State) (pt g idx phys : Nat) (detail : List Byte) (tests : List TestResult) : List Nat → State × Nat
  | [] =>
    let s := s.setGrove g ((s.grove g).retire phys)
    (s.unback pt g idx detail, 0)
  | sp :: sps =>
    let s := zeroCluster s (100 * g + idx)
    let m := s.grove g
    let m := { m with spares := m.spares.filter fun x => x ≠ sp }
    if testPassed tests (128 * g + sp) then
      (s.setGrove g { m.retire phys with remap := minsert m.remap idx sp }, 1)
    else
      let r := remapTry (s.setGrove g (m.retire sp)) pt g idx phys detail tests sps
      (r.1, r.2 + 1)

/-- The partition that owns the hardware of a suspect, where its remedy acts on one: a cluster, a Pith unit or a grove vector
engine; a notice may have named that of another partition (R350, R354). -/
def suspectOwner (s : State) (pt : Nat) (w : DWord) : Nat :=
  let loc := suspLoc w
  match suspKind w with
  | 1 => (ptOfGrove s (field loc 33 3)).getD pt
  | 5 => (ptOfStack s (field loc 31 5 / 2)).getD pt
  | 6 => (ptOfGrove s (field loc 33 3)).getD pt
  | _ => pt

/-- A remap waits while a step of the grove's partition runs (R25). -/
def remapWaits (s : State) (pt : Nat) (w : DWord) : Bool :=
  suspKind w == 1 && (s.part (suspectOwner s pt w)).running.isSome

/-- The remedy of a CLUSTER suspect: nothing where the physical cluster no longer serves the index. -/
def State.remap (s : State) (pt loc : Nat) (detail : List Byte) (tests : List TestResult) : State × Nat :=
  let g := field loc 33 3
  let phys := field loc 26 7
  let idx := field loc 19 7
  if physCluster s g idx ≠ phys ∨ (s.grove g).unbacked.contains idx then (s, 0)
  else
    let r := remapTry s pt g idx phys detail tests (s.grove g).spares
    (r.1, 64 * r.2)

/-! ## Remedies (Table 13-5) -/

/-- The remedy of a suspect that this device holds, and the beats that it takes. -/
def State.remedy (s : State) (pt : Nat) (cause : Half) (w : DWord) (tests : List TestResult) (ecc : List EccObs) :
    State × Nat :=
  let loc := suspLoc w
  let pt := suspectOwner s pt w
  match suspKind w with
  | 1 => s.remap pt loc (fltDetail pt cause w) tests
  | 2 => (s.laneFault (field loc 32 4) (field loc 27 5), 64)
  | 3 =>
    let n := field loc 32 4
    (if (ptOfPort s n).isSome then s.updPort n fun p => { p with st := .failed } else s, 1)
  | 4 => (s.repairRow ecc (locRow loc), 200)
  | 5 =>
    let u := field loc 31 5
    let s := { s with flt := { s.flt with
      pithFailed := if s.flt.pithFailed.contains u then s.flt.pithFailed else s.flt.pithFailed ++ [u] } }
    (s.refuseSlots pt 0x0060 fun img => progNames (secPith img (relStack s pt (u / 2))) (u % 2), 1)
  | 6 =>
    let g := field loc 33 3
    let s := s.setGrove g { s.grove g with gveFailed := true }
    (s.refuseSlots pt 0x0017 fun img => imgGvsend img (g - ptFirst s pt), 1)
  | _ => (s, 0)

/-- A kind with a remedy, on hardware of this device. -/
def hasRemedy (s : State) (w : DWord) : Bool :=
  decide (1 ≤ suspKind w) && decide (suspKind w ≤ 6) && suspDev w == field s.shortId.toNat 0 24

/-- R359 for one entry of a poisoned read: the row's test makes it PERMANENT or TRANSIENT. -/
def Suspect.tested (e : Suspect) (pt : Nat) (tests : List TestResult) : Suspect :=
  if e.st = .pending ∧ e.pt = pt ∧ e.cause = 0x0401 then
    { e with st := if testPassed tests (2 ^ 32 + locRow (suspLoc e.suspect)) then .transient else .permanent }
  else e

/-- Carry out the remedy of entry i where it is due; the longest time so far is carried along. -/
def State.remedyEntry (pt : Nat) (tests : List TestResult) (ecc : List EccObs) (k : State × Nat) (i : Nat) :
    State × Nat :=
  let e : Suspect := mget {} k.1.flt.suspects i
  if e.st = .permanent ∧ e.pt = pt ∧ !e.remedied ∧ !(hasRemedy k.1 e.suspect && remapWaits k.1 pt e.suspect) then
    let r := if hasRemedy k.1 e.suspect then
        let r := k.1.remedy pt e.cause e.suspect tests ecc
        (r.1.event .flt 2 pt (fltDetail pt e.cause e.suspect), r.2)
      else (k.1, 0)
    ({ r.1 with flt := { r.1.flt with suspects := mput {} r.1.flt.suspects i { e with remedied := true } } },
      max k.2 r.2)
  else k

/-- The test of a row that passes: the row has been read, corrected where the side-band code allows, and a burst that it could not
correct returns poisoned (R359). The test of a row that fails leaves the reading to its repair. -/
def State.testRow (ecc : List EccObs) (s : State) (row : Nat) : State :=
  (readBursts s (rowStack row) (row % 2 ^ 25 * 2048) 32 ecc).s

/-- The rows whose test the interval makes and passes. -/
def passedRows (s : State) (pt : Nat) (tests : List TestResult) : List Nat :=
  (((s.flt.suspects.map (·.2)).filter fun e => e.st == .pending && (e.tested pt tests).st == .transient).map
    fun e => locRow (suspLoc e.suspect)).eraseDups

/-- Where both slots of a partition have moved to REFUSED at this boundary, the registers record slot B (R89). -/
def State.recordB (old : State) (s : State) (pt : Nat) : State :=
  let moved (b : Bool) : Bool := ((old.part pt).slot b).st == .accepted && ((s.part pt).slot b).st == .refused
  if moved false && moved true then
    s.updPart pt fun p => { p with rsnSlot := true, rsnCode := (p.slot true).code }
  else s

/-- RECOVERY_INTERVAL, after the recorded outcome of a discarded step (R223, R227, R359, R361, R365). -/
def recoveryIntervalEffect (pt : Nat) (tests : List TestResult) (ecc : List EccObs) (s : State) : State :=
  match (s.part pt).cur with
  | none => s
  | some r =>
    if r.ph ≠ .discarded ∨ (s.part pt).recoveryDone then s
    else
      let poison := s.flt.suspects.any fun e => e.2.st == .pending && e.2.pt == pt && e.2.cause == 0x0401
      let t := (s.each (passedRows s pt tests) (State.testRow ecc)).mapSuspects fun e => e.tested pt tests
      let worse := (s.flt.suspects.map (·.2)).filter fun e => e.st == .pending && (e.tested pt tests).st == .permanent
      let t := t.each worse fun s e => s.event .flt 1 pt (fltDetail pt e.cause e.suspect)
      let k := (List.range 32).foldl (State.remedyEntry pt tests ecc) (t, if poison then 200 else 0)
      let rows := k.1.mb.marked.filter fun row => (ptStacks s pt).contains (rowStack row)
      let t := (k.1.each rows (State.repairRow ecc)).each (ptList s) (State.recordB s)
      let long := max k.2 (if rows.isEmpty then 0 else 200)
      t.updPart pt fun p => { p with recovery := min 256 long, recoveryDone := true }

/-! ## Meanings -/

def execStepDiscard (pt : Nat) (f : FaultInfo) (s : State) := checked (.stepDiscard pt f) s (stepDiscardEffect pt f s)
def execFaultNotice (n : Nat) (r : List Byte) (s : State) := checked (.faultNotice n r) s (faultNoticeEffect n r s)
def execRecoveryInterval (pt : Nat) (t : List TestResult) (s : State) (e : List EccObs := []) :=
  checked (.recoveryInterval pt t e) s (recoveryIntervalEffect pt t e s)

end Sys2Proof.Machine
end

