-- ==== Sys2Proof/Machine/Copies.lean ====
section
/-!
DEFINITION. COPY (14): data units between host memory and device memory.
-/

namespace Sys2Proof.Machine

/-- The objects of a COPY, source and destination: their handles matched at fetch, and an OBJ_FREE since then keeps their
backing in use (R389, R390). -/
def copyObjs (s : State) (q : Nat) (b : List Byte) : Option (Obj × Obj) :=
  (s.queue q).ctx.bind fun c =>
    let x := objAt s c (field (getLE b 4 4) 0 16)
    let y := objAt s c (field (getLE b 8 4) 0 16)
    if x.live && y.live then some (x, y) else none

/-! ## Host to device (R391, R392) -/

/-- How far a host-to-device COPY has come. -/
inductive CopyRun where
  | going (s : State)
  /-- A line waits: for a host write-combining entry, or for the INIT of its region (R246, R250). -/
  | waits
  /-- A unit's tag failed (R392). -/
  | failed (s : State)
  /-- The region of a line is EXHAUSTED: the write fails (R241). -/
  | exhausted (s : State)

/-- Write one line of host data at a partition address. -/
def hostLine (pt a : Nat) (bs : List Byte) : CopyRun → CopyRun
  | .going s =>
    match resolve s pt a with
    | .hbm h off => .going ((hbmWrite s h off bs).restore pt h off (off + 64))
    | .outer line off =>
      if lineInit s pt a then .waits
      else if lineExhausted s line then .exhausted s
      else
        match wcWrite s pt true line off bs with
        | none => .waits
        | some t => if lineExhausted t line then .exhausted t else .going t
    | _ => .going (writeNear s pt a bs)
  | r => r

/-- Unit i of a host-to-device transfer is authentic: its bytes give its ciphertext and tag under the session's H2D DATA key,
with IV_BASE and i as nonce (R372, R391, Table 14-2). -/
def unitOk (s : State) (session : Word) (iv i : Nat) (u : Unit4K) : Bool :=
  decide (Config.gcmSeal (s.session session.toNat).h2dData (toLE 8 iv ++ toLE 4 i) [] (padTo 4096 u.data) = u.sealed)

/-- Decrypt and authenticate a unit, then write its lines. -/
def hostUnit (pt a : Nat) (u : Unit4K) (ok : Bool) : CopyRun → CopyRun
  | .going s =>
    if ok then
      let d := padTo 4096 u.data
      (List.range 64).foldl (fun r i => hostLine pt (a + 64 * i) ((d.drop (64 * i)).take 64) r) (.going s)
    else .failed s
  | r => r

/-- A unit of a transfer; one that host memory did not give is empty. -/
def unitAt (units : List Unit4K) (i : Nat) : Unit4K := units.getD i ⟨[], [], 0⟩

/-- The device reads units 0 to n - 1 of a transfer, and their tags, from a host object at an offset (R391). -/
def State.readUnits (s : State) (o : Obj) (off n : Nat) : State :=
  s.each (List.range n) fun s i =>
    (s.emitPcie (.hostRead (o.base + off + 4096 * i) 4096)).emitPcie (.hostRead (o.tagBase + 16 * (off / 4096 + i)) 16)

/-- COPY_TO_DEVICE: a unit that did not arrive counts as one whose tag failed. -/
def copyToDeviceEffect (q : Nat) (units : List Unit4K) (s : State) : State :=
  s.onCmd q 0x03 fun b s =>
    match copyObjs s q b, queuePt s q with
    | some (src, dst), some pt =>
      if bitAt (opflagsOf b) 0 then s
      else
        let n := getLE b 32 8 / 4096
        let a := dst.base + getLE b 24 8
        let ok (i : Nat) : Bool := decide (i < units.length) &&
          unitOk s (s.queue q).session (getLE b 40 8) i (unitAt units i)
        match (List.range n).foldl (fun r i => hostUnit pt (a + 4096 * i) (unitAt units i) (ok i) r) (.going s) with
        | .going t => (t.readUnits src (getLE b 16 8) n).finishCmd q 0
        | .failed t => (t.readUnits src (getLE b 16 8) n).finishCmd q 0x15
        | .exhausted t => (t.readUnits src (getLE b 16 8) n).finishCmd q 0x14
        | .waits => s
    | _, _ => s

/-! ## Device to host (R391) -/

/-- Read one line of device memory for the host, with what the DRAM returned (R214, R215); a poisoned burst's bytes are
free. -/
def State.hostRead (s : State) (pt a : Nat) (ecc : List EccObs) : State × List Byte :=
  match resolve s pt a with
  | .hbm h off =>
    let r := readBursts s h off 1 ecc
    (r.s, r.lines.flatten)
  | .outer line _ => (s.expectCheck line 1, omRead s line)
  | .crown g off => (s, readN s (crownBase g + off) 64)
  | .none => (s, zeros 64)

/-- COPY_TO_HOST: each unit encrypted, its tag written, IV_BASE in the completion. -/
def copyToHostEffect (q : Nat) (ecc : List EccObs) (s : State) : State :=
  s.onCmd q 0x03 fun b s =>
    match copyObjs s q b, queuePt s q with
    | some (src, dst), some pt =>
      let n := getLE b 32 8 / 64
      let a := src.base + getLE b 16 8
      if !bitAt (opflagsOf b) 0 || (List.range n).any (fun i => lineInit s pt (a + 64 * i)) then s
      else
        let r := (List.range n).foldl (fun (k : State × List (List Byte)) i =>
          let x := k.1.hostRead pt (a + 64 * i) ecc
          (x.1, k.2 ++ [x.2])) (s, [])
        let w := r.1.hostData (r.1.queue q).session dst (getLE b 24 8) r.2.flatten
        w.1.finishCmd q 0 0 0 w.2
    | _, _ => s

/-! ## Meanings -/

def execCopyToDevice (q : Nat) (u : List Unit4K) (s : State) := checked (.copyToDevice q u) s (copyToDeviceEffect q u s)
def execCopyToHost (q : Nat) (s : State) (e : List EccObs := []) := checked (.copyToHost q e) s (copyToHostEffect q e s)

end Sys2Proof.Machine
end

