-- ==== Sys2Proof/Machine/Steps.lean ====
section
/-!
DEFINITION. A step from its STEP command to its start (02, 05, 06, 13, 14, 16): selection and tier, the start beat, the
context switch, the scale page, the start itself, and the replay of broadcasts that takes a step's place. The commands of
a boundary's orders 4 and 5 come after BEAT_BOUNDARY, so that the current beat is the one that the boundary starts.
-/

namespace Sys2Proof.Machine

/-! ## Selection (R384, R97) -/

/-- Slots whose accepted image carries another grid than the partition's move to REFUSED (R97). -/
def State.refuseGrids (s : State) (pt : Nat) : State :=
  let p := s.part pt
  if p.gridWait ∧ p.sel.isNone ∧ p.running.isNone then
    (s.updPart pt fun p => { p with gridWait := false }).refuseSlots pt 0x0009 fun img => imgGrid img != p.grid
  else s

/-- SLOT_GRID_REFUSE. -/
def slotGridRefuseEffect (pt : Nat) (s : State) : State := s.refuseGrids pt

/-- The step is the one that a queue's command submitted. -/
def StepRun.ofQueue (r : StepRun) (x : Queue) (q : Nat) (c : Fetched) : Bool :=
  r.queue == q && r.seq == c.seq && r.session == x.session

/-- A fetched STEP of partition pt that waits in queue q for its selection. -/
def waitingStep (s : State) (pt q : Nat) : Option Fetched :=
  let x := s.queue q
  match x.cmd with
  | some c =>
    let taken : Bool := match (s.part pt).cur with
      | some r => r.ofQueue x q c
      | none => false
    if opOf c.body = 1 ∧ c.busy ∧ x.held = none ∧ queuePt s q = some pt ∧ !taken then some c else none
  | none => none

/-- Queue a comes before queue b (R384): PRIO, START_BEAT, then round-robin after the queue served last. -/
def selectsBefore (s : State) (a b : Nat × Fetched) : Bool :=
  let pa := (s.queue a.1).prio
  let pb := (s.queue b.1).prio
  let sa := getLE a.2.body 8 8
  let sb := getLE b.2.body 8 8
  let ra := (a.1 + 47 - s.hif.served) % 48
  let rb := (b.1 + 47 - s.hif.served) % 48
  if pa ≠ pb then decide (pb < pa) else if sa ≠ sb then decide (sa < sb) else decide (ra < rb)

/-- The STEP that the hub takes next. -/
def nextStep (s : State) (pt : Nat) : Option (Nat × Fetched) :=
  ((List.range 48).filterMap fun q => (waitingStep s pt q).map fun c => (q, c)).foldl (fun m x =>
    match m with
    | none => some x
    | some y => some (if selectsBefore s x y then x else y)) none

/-- The step that a command submits, selected at the boundary that ended the last beat. -/
def newRun (s : State) (q : Nat) (c : Fetched) : StepRun :=
  { queue := q, seq := c.seq, body := c.body, session := (s.queue q).session, ctx := (s.queue q).ctx.getD 0,
    slot := decide (getLE c.body 4 1 = 1), seed := BitVec.ofNat 64 (getLE c.body 16 8), selBeat := s.cmb.beat - 1 }

/-! ## The tier (R449 to R451, R355) -/

/-- A pending entry of which the step is the repeat, but for its tier. -/
def repeatEntry (s : State) (pt : Nat) (r : StepRun) : Option Suspect :=
  (s.flt.suspects.find? fun e => entryMatches s pt r e.2).map (·.2)

/-- What Sapflow chooses: τ, the tier, or none where the start is withheld. -/
structure TierChoice where
  tau : Nat
  tier : Option Nat
  fits : Bool
  /-- The tier is the one that the step's repeat recorded (R355). -/
  kept : Bool
deriving DecidableEq, Repr

/-- The tier of a step (R449); want is the tier of the entry whose repeat it is. -/
def chooseTier (s : State) (pt : Nat) (img : List Byte) (want : Option Nat) : TierChoice :=
  let c := s.clock pt
  let present := imgTiers img
  let fit := present.filter (tierFits s pt img)
  let tau := match fit.head? with
    | some t => t
    | none => present.getLastD 0
  let avail := present.filter fun t => t == c.tier || (c.standbyLocked && t == c.standbyTier)
  let rule := if avail.contains tau then some tau else avail.getLast?
  let kept := want.filter fun t => fit.contains t && avail.contains t
  { tau, tier := kept.orElse fun _ => rule, fits := !fit.isEmpty, kept := kept.isSome }

/-- Record a choice: the budget, THROTTLE, LAG; with nothing available the standby PLL goes to τ (R449, R451). -/
def State.takeTier (s : State) (pt : Nat) (k : TierChoice) : State :=
  let c := s.clock pt
  let s := if k.fits then s else s.event .sap 0 pt
  let lag : Bool := match k.tier with
    | some t => !k.kept && t != k.tau
    | none => false
  let c := { c with budget := capW s * ptSize s pt / 8, throttle := !k.fits, lag }
  s.setClock pt (if k.tier.isSome then c else { c with standbyTier := k.tau, standbyLocked := false })

/-! ## The start beat (R385, R55, R250, R281, R294, R432, R452) -/

/-- The handle of a context. -/
def ctxId (s : State) (c : Nat) : Nat := (s.ctx c).tag * 65536 + c

/-- The step's context differs from that of the step before. -/
def ctxDiffers (s : State) (pt : Nat) (r : StepRun) : Bool :=
  match (s.part pt).lastCtx with
  | some k => k != ctxId s r.ctx
  | none => false

/-- A descriptor of a program that an APPLY phase updates at commit n (R258, R322). -/
def applies (prog : List Byte) (n : Nat) (d : TensorDesc) : Bool := !(phasePlaces prog 4 d).isEmpty && Desc.due d n

/-- An export that still runs would be overwritten by the step's APPLY phases (R281). -/
def exportHolds (s : State) (pt : Nat) (r : StepRun) : Bool :=
  let p := s.part pt
  let n := p.commits.toNat + 1
  p.exporting && (ptStacks s pt).zipIdx.any fun h =>
    let prog := secPith (p.image r) h.2
    (descs prog).any fun d => applies prog n d &&
      (p.expShards.contains (h.1, d.masterAddr) || p.expHalves.contains (h.1, d.masterAddr, n % 2))

/-- A discarded step's recovery interval has run, or none is due (R26, R361). -/
def recovered (p : Part) : Bool := !p.outDisc || p.recoveryDone

/-- A region of the partition is in INIT (R250). -/
def regionInits (s : State) (pt : Nat) : Bool := (regionsOf pt).any fun k => (s.region k).st == .init

/-- Some rule withholds the start beat. -/
def withheld (s : State) (pt : Nat) (r : StepRun) : Bool :=
  let p := s.part pt
  !s.onGrid || exportHolds s pt r || switchPending s pt || r.waitLock || (s.clock pt).domainReset ||
    regionInits s pt || (ptGroves s pt).any (fun g => (s.thermal g).stop) || !recovered p || !(s.tenancy pt).regionsDefined

/-- The start beat of R385 for a step named at the boundary that ended beat b0. With no step before, the step gap follows
that boundary (DEDUCED, log entry 29). -/
def startBeat (s : State) (pt : Nat) (r : StepRun) : Nat :=
  let p := s.part pt
  let b0 := (s.cmb.beat - 1).toNat
  let x := if p.outDisc then max p.horizon p.recovery else 0
  let y := if ctxDiffers s pt r || r.ctxSwitch then 480 else 0
  let gap := match p.outBeat with
    | some b => b.toNat + 1 + x + y + 20
    | none => b0 + 21
  max (b0 + 1) (max r.startMin.toNat gap)

/-- The hub names the start beat of the selected step, where nothing withholds it; a beat that has passed without the start is
named anew. -/
def State.nameStart (s : State) (pt : Nat) : State :=
  match (s.part pt).sel with
  | none => s
  | some r =>
    if (r.named && decide (s.cmb.beat.toNat ≤ r.start.toNat)) || withheld s pt r then s
    else
      let n := BitVec.ofNat 64 (startBeat s pt r)
      s.updPart pt fun p => { p with sel := some { r with named := true, start := n, namedBeat := s.cmb.beat } }

/-- A step whose slot is not ACCEPTED ends REFUSED at once (R90). -/
def State.refuseStep (s : State) (pt : Nat) (r : StepRun) (x : Slot) : State :=
  let code := if x.st = .refused then x.code.toNat else 0x0081
  s.hold r.queue (compBody 1 2 code 0 0 1 0 r.seq 0 (s.part pt).commits.toNat 0) false

/-- The selected step's slot is ACCEPTED no more: the step ends REFUSED (R90, R96). -/
def State.refuseSel (s : State) (pt : Nat) (r : StepRun) : State :=
  (s.updPart pt fun p => { p with sel := none }).refuseStep pt r ((s.part pt).slot r.slot)

/-- The image that a step names stands in an ACCEPTED slot. -/
def slotAccepted (s : State) (pt : Nat) (r : StepRun) : Bool := ((s.part pt).slot r.slot).st == .accepted

/-- The TIMER_FENCE of a step that is being selected becomes resident; timer is what its entry reads, none for the bytes that the
device wrote last (R401, R410). -/
def State.readTimer (s : State) (q : Nat) (r : StepRun) (timer : Option Sealed) : State :=
  let i := field r.timerFence 0 12
  if r.timerFence = 0 ∨ cmdNamesFence s i q then s else s.readFence q i (timer.getD (fenceSealed s i))

/-- STEP_SELECT: at the boundary of an outcome, or the first at which a STEP waits; again while the start beat of the
selected step is withheld. A step whose TIMER_FENCE fails its tag is not selected: its queue is in ERROR. -/
def stepSelectEffect (pt : Nat) (timer : Option Sealed) (s : State) : State :=
  if s.isHalted ∨ (s.part pt).running.isSome then s
  else
    match (s.part pt).sel with
    | some r => if slotAccepted s pt r then s.nameStart pt else s.refuseSel pt r
    | none =>
    let s := s.refuseGrids pt
    match nextStep s pt with
    | none => s
    | some (q, c) =>
      let s := { s with hif := { s.hif with served := q } }
      let r := newRun s q c
      let x := (s.part pt).slot r.slot
      if !slotAccepted s pt r then s.refuseStep pt r x
      else
        let s := s.readTimer q r timer
        let k := chooseTier s pt x.image ((repeatEntry s pt r).map Suspect.tier)
        let r := { r with tau := k.tau, tier := k.tier.getD k.tau, waitLock := k.tier.isNone, kept := k.kept }
        if (s.queue q).held.isSome then s
        else ((s.takeTier pt k).updPart pt fun p => { p with sel := some r }).nameStart pt

/-! ## The context switch (R149 to R151, R383) -/

/-- Where the image of absolute cluster c lies: stack and byte address. -/
def saveAt (s : State) (base c : Nat) : Nat × Nat :=
  let g := c / 100
  let hs := groveStacks s.variant g
  let m := match s.variant with
    | .a816 => c % 100
    | .a812 => 100 * (g % 2) + c % 100
  (hs.getD (m % hs.length) 0, base + 3670016 * (m / hs.length))

/-- Write bytes to a stack from a burst boundary up. -/
def writeBursts (s : State) (h a : Nat) (bs : List Byte) : State :=
  s.each (List.range (bs.length / 64)) fun s i => hbmWrite s h (a + 64 * i) ((bs.drop (64 * i)).take 64)

/-- Save a cluster's scratchpad and accumulators. -/
def State.saveCluster (s : State) (base c : Nat) : State :=
  let k := saveAt s base c
  writeBursts s k.1 k.2 (readN s (spadBase c) 3145728 ++ readN s (accBase c) 524288)

/-- Restore a cluster, or write zeros where the context has no saved image. A burst that the code cannot correct returns
poisoned (R214, R215). -/
def State.restoreCluster (s : State) (base : Option Nat) (c : Nat) (ecc : List EccObs) : State :=
  match base with
  | none => zeroCluster s c
  | some b =>
    let k := saveAt s b c
    let r := readBursts s k.1 k.2 57344 ecc
    let bs := r.lines.flatten
    let s := zeroCluster r.s c
    writeN (writeN s (spadBase c) (bs.take 3145728)) (accBase c) (bs.drop 3145728)

/-- Bytes of the estimator's area (R383). -/
def estBytes : Nat := 2097152

/-- A context's estimator state as the save area's last 2 MiB hold it: 64 entries of 4 bytes for each tensor, newest first,
then each tensor's count of them (the layout: DESIGN CHOICE, log entry 40). -/
def estImage (x : Ctx) : List Byte :=
  let l := (List.range 4096).map fun t => (mget [] x.hist t : List Word)
  l.flatMap (fun h => padTo 256 (h.flatMap fun w => toLE 4 w.toNat)) ++ l.map fun h => BitVec.ofNat 8 h.length

/-- Save the estimator state (R383): in relative stack 0. -/
def State.saveEst (s : State) (pt c : Nat) : State :=
  match (ptStacks s pt).head? with
  | some h => writeBursts s h ((s.ctx c).saveBase + saveLen s.variant - estBytes) (estImage (s.ctx c))
  | none => s

/-- The beat that runs lies where a step's gap has its place: from first to last beats before the start; or the start was named
so late that not all of those beats come after the naming, and it is any beat up to the start (R26, R385; DEDUCED, log entry
29). -/
def inGap (s : State) (r : StepRun) (first last : Nat) : Bool :=
  let b := s.cmb.beat.toNat
  let n := r.start.toNat
  r.named && decide (b ≤ n) && ((decide (n ≤ b + first) && decide (b + last ≤ n)) || decide (n < r.namedBeat.toNat + first))

/-- CONTEXT_SWITCH, after the recovery interval and before the 20-beat step gap, so in the outgoing step's tier (R26, R151): the
outgoing context's image is saved, the incoming one's restored. From then on the clusters hold the incoming context's
memories, whether or not its step starts (R148, R149). -/
def contextSwitchEffect (pt : Nat) (ecc : List EccObs) (s : State) : State :=
  match (s.part pt).sel, (s.part pt).lastCtx with
  | some r, some k =>
    if !ctxDiffers s pt r || (s.part pt).running.isSome || !recovered (s.part pt) || !inGap s r 500 21 then s
    else
      let cs := (List.range (100 * ptSize s pt)).map (absCluster s pt)
      let out := k % 65536
      let s := if (s.ctx out).live ∧ ctxId s out = k then
          ((s.each cs fun s c => s.saveCluster (s.ctx out).saveBase c).saveEst pt out).updCtx out fun x =>
            { x with saved := if x.saved.contains pt then x.saved else x.saved ++ [pt] }
        else s
      let x := s.ctx r.ctx
      let base := if x.saved.contains pt then some x.saveBase else none
      (s.each cs fun s c => s.restoreCluster base c ecc).updPart pt fun p =>
        { p with sel := some { r with ctxSwitch := true }, lastCtx := some (ctxId s r.ctx) }
  | _, _ => s

/-! ## The scale page (R163, R165) -/

/-- The image converts to E4M3, E5M2 or FP16. -/
def needsScales (img : List Byte) : Bool := (imgCvts img).any fun e => e.2 == 0 || e.2 == 1 || e.2 == 3

/-- 2^-e as an FP32 value. -/
def pow2Neg (e : Int) : Word := rne (.fin false 1 (-e))

/-- Entry t of the scale page. With no conversion to a plain format R165 gives an exponent only for an empty history or
a zero maximum; the entry is free otherwise. -/
def scaleEntry (cvts : FMap Nat) (hist : FMap (List Word)) (draw t : Nat) : List Byte :=
  let f := mget 0xFF cvts t
  let h := mget [] hist t
  if f = 0 ∨ f = 1 ∨ f = 3 then toLE 4 (pow2Neg (scaleExp h f).1).toNat
  else if histMax h = 0 then toLE 4 (pow2Neg 0).toNat
  else (List.range 4).map fun i => Config.freeByte draw (4 * t + i)

/-- The step's histories and INIT_B as they stand in its step gap: from them follow its e_t and B_t (R165, R338). -/
def StepRun.fixScales (r : StepRun) (s : State) (pt : Nat) : StepRun :=
  if r.scaleDone then r else { r with hist := (s.ctx r.ctx).hist, initB := (s.redPt pt).init.toNat }

/-- The gap's earlier actions are done: the recovery interval and the context switch (R26). -/
def gapReached (s : State) (pt : Nat) (r : StepRun) : Bool := recovered (s.part pt) && !ctxDiffers s pt r

/-- At the boundary that starts beat s − 10 the multiplexer goes over to the chosen tier's PLL (R453). -/
def tierSwitchEffect (pt : Nat) (s : State) : State :=
  let c := s.clock pt
  match (s.part pt).sel with
  | none => s
  | some r =>
    if inGap s r 10 10 ∧ gapReached s pt r ∧ r.tier ≠ c.tier ∧ !c.domainReset then
      s.setClock pt { c with tier := r.tier, standbyTier := c.tier, standbyLocked := true, onB := !c.onB }
    else s

/-- SCALE_PAGE_WRITE, in beats s − 20 to s − 12 of the step gap (R453): e_t is computed, then every entry of the scale page of every cluster of the partition
is written (R26, R163, R165). -/
def scalePageWriteEffect (pt : Nat) (s : State) : State :=
  match (s.part pt).sel with
  | none => s
  | some r =>
    let img := (s.part pt).image r
    if !needsScales img || (s.part pt).running.isSome || !gapReached s pt r || !inGap s r 20 12 then s
    else
      let r := { r.fixScales s pt with scaleDone := true }
      let page := (List.range 4096).flatMap (scaleEntry (imgCvts img) r.hist s.freeCtr)
      let s := { s with freeCtr := s.freeCtr + 1 }
      let s := s.each ((List.range (100 * ptSize s pt)).map (absCluster s pt)) fun s c =>
        writeN s (spadBase c + 3129344) page
      s.updPart pt fun p => { p with sel := some r }

/-! ## The start (R106, R160, R295, R355, R357, R450) -/

/-- The step is the identical repeat of a discarded one: Sapflow's budget admitted its tier, and it runs in it (R355, R449). -/
def isRepeat (s : State) (pt : Nat) (r : StepRun) : Bool :=
  match repeatEntry s pt r with
  | some e => r.kept && e.tier == r.tier
  | none => false

/-- Suspects at the start of a step: pending entries stand for an identical repeat, and become UNRESOLVED otherwise
(R357, R365); answers REPEAT of the summary. -/
def State.startSuspects (s : State) (pt : Nat) (r : StepRun) : State × Nat :=
  if isRepeat s pt r then (s, 1)
  else
    match (s.flt.suspects.map (·.2)).find? fun e => e.st == .pending && e.pt == pt with
    | some x =>
      let t := s.mapSuspects fun e => if e.st = .pending ∧ e.pt = pt then { e with st := .unresolved } else e
      (t.event .flt 4 pt (fltDetail pt x.cause x.suspect), 2)
    | none => (s, 0)

/-- What a cluster holds at a step's start beat (R106, R160): its scratchpad and accumulators stay. -/
def State.startClusters (s : State) (pt : Nat) (seed : DWord) : State :=
  s.each ((List.range (100 * ptSize s pt)).map (absCluster s pt)) fun s c => s.setCluster c { seed }

/-- The tier to which the standby PLL goes (R450). -/
def standbyTarget (img : List Byte) (r : StepRun) : Option Nat :=
  if r.tau ≠ r.tier then some r.tau
  else
    match (imgTiers img).find? fun t => r.tier < t with
    | some t => some t
    | none => ((imgTiers img).filter fun t => t < r.tier).getLast?

/-- The standby PLL is retargeted after the start beat. -/
def State.retarget (s : State) (pt : Nat) (img : List Byte) (r : StepRun) : State :=
  let c := s.clock pt
  match standbyTarget img r with
  | none => s
  | some t => if t = c.standbyTier then s else s.setClock pt { c with standbyTier := t, standbyLocked := false }

/-- PLL A has relocked at the tier of the selected step, or at T0; PLL B then relocks under R450: for the selected step, or,
where none is selected, at the next lower tier (R454; DESIGN CHOICE for T1, log entry 29). -/
def clockDomainRelockEffect (pt : Nat) (s : State) : State :=
  let c := s.clock pt
  if c.domainReset then
    match (s.part pt).sel with
    | some r =>
      let t := (standbyTarget ((s.part pt).image r) r).getD c.standbyTier
      s.setClock pt { c with domainReset := false, onB := false, tier := r.tier, standbyTier := t, standbyLocked := false }
    | none =>
      s.setClock pt { c with domainReset := false, onB := false, tier := 0, standbyTier := 1, standbyLocked := false }
  else s

/-- A native slot lies on a port that is not at level 1 (R295). -/
def linkKeyLacks (s : State) (pt : Nat) (img : List Byte) : Bool :=
  (slotRecs img).any fun x => manPortMode img x.port == 1 && !(s.port (absPort s pt x.port)).level1

/-- Faults of the start beat itself: link keys (R295), a thermal stop that holds (R456). -/
def State.startFaults (s : State) (pt : Nat) (img : List Byte) : State :=
  let s := if linkKeyLacks s pt img then s.detect pt (plainFault 0x0501 (s.suspect 0 0)) else s
  if (ptGroves s pt).any fun g => (s.thermal g).stop then s.limiterTrip pt 0 else s

/-- The step may start in the beat that runs: named for it, what its gap does has been done, a configuration commit of the
boundary has been made (Table 2-4), and nothing that would withhold the start has come since (R55, R250, R294). -/
def startReady (s : State) (pt : Nat) (r : StepRun) : Bool :=
  let p := s.part pt
  r.named && r.start == s.cmb.beat && p.running.isNone && !s.isHalted && s.onGrid && !commitDue s && !r.waitLock &&
    !(s.clock pt).domainReset && r.tier == (s.clock pt).tier && gapReached s pt r &&
    (!needsScales (p.image r) || r.scaleDone) && !regionInits s pt && !switchPending s pt

/-- STEP_START, in the start beat; a replay of broadcasts takes its place where one is due (R278), and a step whose slot has
been refused since its selection ends REFUSED (R90). -/
def stepStartEffect (pt : Nat) (s : State) : State :=
  match (s.part pt).sel with
  | none => s
  | some r =>
    if !slotAccepted s pt r then s.refuseSel pt r
    else if !startReady s pt r || (s.part pt).replayNext then s
    else
      let img := (s.part pt).image r
      let k := s.startSuspects pt r
      let r := { r.fixScales s pt with ph := .running, started := true, rep := k.2 }
      let s := (k.1.emptyBufs pt).startClusters pt r.seed
      let s := s.updPart pt fun p => { p with
        cur := some r, sel := none, active := r.slot, lastCtx := some (ctxId s r.ctx) }
      let s := s.setRed pt { s.redPt pt with gveOpen := 0 }
      let s := s.updTen pt fun t => { t with started := true }
      (s.graftLandAll pt r).startFaults pt img

/-- BROADCAST_REPLAY: in place of the step that would start, its command carries the broadcast events of the committed
step (R278); its image's native slots want their ports at level 1 as those of any step (R295). -/
def broadcastReplayEffect (pt : Nat) (s : State) : State :=
  match (s.part pt).sel with
  | none => s
  | some r =>
    if !(s.part pt).replayNext || !startReady s pt r then s
    else
      let r := { r.fixScales s pt with
        ph := .running, started := true, replay := true, slot := (s.part pt).commitSlot }
      let s := (s.emptyBufs pt).startClusters pt r.seed
      let s := s.updPart pt fun p => { p with
        cur := some r, sel := none, active := r.slot, lastCtx := some (ctxId s r.ctx), replayNext := false }
      s.startFaults pt ((s.part pt).image r)

/-! ## EST_CLEAR (R170) -/

/-- A write of 1 to EST_CLEAR: the histories are emptied at the next step boundary. -/
def estClearEffect (pt : Nat) (s : State) : State :=
  s.hostField (0x900000 + 16 * pt) fun s =>
    if (s.tenancy pt).st = .scrubbing then s else s.updPart pt fun p => { p with estClear := true }

/-! ## Meanings -/

def execSlotGridRefuse (p : Nat) (s : State) := checked (.slotGridRefuse p) s (slotGridRefuseEffect p s)
def execStepSelect (p : Nat) (s : State) (t : Option Sealed := none) := checked (.stepSelect p t) s (stepSelectEffect p t s)
def execContextSwitch (p : Nat) (s : State) (e : List EccObs := []) :=
  checked (.contextSwitch p e) s (contextSwitchEffect p e s)
def execTierSwitch (p : Nat) (s : State) := checked (.tierSwitch p) s (tierSwitchEffect p s)
def execScalePageWrite (p : Nat) (s : State) := checked (.scalePageWrite p) s (scalePageWriteEffect p s)
def execClockDomainRelock (p : Nat) (s : State) := checked (.clockDomainRelock p) s (clockDomainRelockEffect p s)
def execStepStart (p : Nat) (s : State) := checked (.stepStart p) s (stepStartEffect p s)
def execBroadcastReplay (p : Nat) (s : State) := checked (.broadcastReplay p) s (broadcastReplayEffect p s)
def execEstClear (p : Nat) (s : State) := checked (.estClear p) s (estClearEffect p s)

end Sys2Proof.Machine
end

