-- ==== Sys2Proof/Machine/LoadForm.lean ====
section
/-!
DEFINITION. The loader's first checks (03, Table 3-7): FORMAT_UNKNOWN, VERSION, IMAGE_SIZE, DIGEST and
SECTION_MALFORMED, and the form in which a check reports its failure (R89). Positions are byte positions of the image,
or beat offsets where a check is over beats (DEDUCED, log entry 27).
-/

namespace Sys2Proof.Machine

/-- A failed check: its code of Table 3-7, the section index (FFFF_FFFFh where no section holds the failure) and the
byte position or beat offset (R89). -/
structure LoadFail where
  code : Half
  sec : Nat
  pos : Nat
deriving DecidableEq, Repr

/-- A failure outside every section. -/
def headFail (code : Half) (pos : Nat) : LoadFail := ⟨code, 0xFFFFFFFF, pos⟩

/-- The failure f where a condition does not hold. -/
def need (ok : Bool) (f : LoadFail) : Option LoadFail := if ok then none else some f

/-- The first failure that f finds in a list. -/
def firstFail {α : Type} (l : List α) (f : α → Option LoadFail) : Option LoadFail := l.findSome? f

/-- A check of each section in directory order, which answers an offset in the section. -/
def bySec (code : Half) (b : List Byte) (f : SecEnt → Option Nat) : Option LoadFail :=
  firstFail (secEnts b).zipIdx fun p => (f p.1).map fun off => ⟨code, p.2, p.1.off + off⟩

/-- The offset of the first condition that does not hold. -/
def badAt (l : List (Bool × Nat)) : Option Nat := (l.find? fun p => !p.1).map (·.2)

/-- The index of the first section of a type and tier, and its offset: where a check over several sections reports. -/
def secIndex (b : List Byte) (type tier : Nat) : Nat := ((secEnts b).findIdx? fun e => e.type == type && e.tier == tier).getD 0xFFFFFFFF

/-- n bytes at an offset are zero. -/
def zeroAt (t : List Byte) (off n : Nat) : Bool := allZero ((t.drop off).take n)

/-! ## FORMAT_UNKNOWN to DIGEST -/

/-- FORMAT_UNKNOWN (R4). -/
def formatCheck (b : List Byte) : Option LoadFail :=
  need (b.take 4 == [0x51, 0x5A, 0x53, 0x49]) (headFail 0x0001 0)

/-- VERSION: major 1, minor at or below 0 (R79, Table 3-11). -/
def versionCheck (b : List Byte) : Option LoadFail := need (imgVersion b == 0x0100) (headFail 0x0002 4)

/-- IMAGE_SIZE. -/
def sizeCheck (s : State) (pt : Nat) (b : List Byte) : Option LoadFail :=
  need (imgLength b == b.length && decide (b.length ≤ 2 ^ 30 * (ptStacks s pt).length)) (headFail 0x0003 24)

/-- SHA-512 over bytes 0 to 63 and from 256 on (Table 3-2). -/
def imageDigest (b : List Byte) : Digest := Config.sha512 (b.take 64 ++ b.drop 256)

/-- Every declared party from 1 to 7 has approved the digest (R433). -/
def digestApproved (s : State) (pt : Nat) (d : Digest) : Bool :=
  (List.range 7).all fun i =>
    let p : PartyRec := mget {} (s.tenancy pt).parties (i + 1)
    !p.declared || p.approved.contains d

/-- DIGEST: the units' tags, the digest and its approvals (R392, R433). -/
def digestCheck (s : State) (pt : Nat) (b : List Byte) (unitsOk : Bool) : Option LoadFail :=
  let d := imageDigest b
  need (unitsOk && imgDigest b == toBE 64 d.toNat && digestApproved s pt d) (headFail 0x0004 64)

/-! ## The directory (R80, Tables 3-3, 3-4) -/

/-- A section that is not per tier. -/
def SecEnt.sharedKey (e : SecEnt) : Bool := e.tier == 0xFF && e.cluster == 0xFFFF && e.stream == 0xFF

/-- Table 3-4 permits the type with this key; relative stacks are not looked at here (R80). -/
def keyAllowed (b : List Byte) (e : SecEnt) : Bool :=
  let tierOk := decide (e.tier < 4) && bitAt (imgTierMask b) e.tier
  let groveOk := decide (e.grove < imgGroves b)
  let noStream := e.cluster == 0xFFFF && e.stream == 0xFF
  match e.type with
  | 0x01 => e.sharedKey && e.grove == 0xFF
  | 0x02 => e.sharedKey && e.grove == 0xFF
  | 0x03 => e.sharedKey && e.grove == 0xFF
  | 0x10 => tierOk && groveOk && decide (e.cluster ≤ 99) && decide (e.stream ≤ 2)
  | 0x11 => tierOk && groveOk && noStream
  | 0x12 => tierOk && e.grove == 0xFF && noStream
  | 0x13 => tierOk && e.grove == 0xFF && noStream
  | 0x20 => e.sharedKey
  | 0x21 => e.sharedKey && e.grove == 0xFF
  | 0x22 => e.sharedKey && e.grove == 0xFF
  | _ => false

/-- Two entries carry one type and key. -/
def SecEnt.sameKey (e f : SecEnt) : Bool :=
  e.type == f.type && e.tier == f.tier && e.grove == f.grove && e.cluster == f.cluster && e.stream == f.stream

/-- Two sections share a byte. -/
def SecEnt.meets (e f : SecEnt) : Bool :=
  decide (0 < e.size) && decide (0 < f.size) && overlap e.off e.size f.off f.size

/-- A directory entry: permitted, inside the image, aligned, single and apart from the earlier ones. -/
def dirEntryOk (b : List Byte) (l : List SecEnt) (i : Nat) (e : SecEnt) : Bool :=
  keyAllowed b e && e.off % 64 == 0 && decide (256 + 32 * imgSections b ≤ e.off) &&
    decide (e.off + e.size ≤ imgLength b) && (l.take i).all fun f => !(e.sameKey f || e.meets f)

/-- The sections that Table 3-4 requires. -/
def requiredSecs (b : List Byte) : List SecEnt :=
  let key (type tier grove cluster stream : Nat) : SecEnt := { type, tier, grove, cluster, stream, off := 0, size := 0 }
  let groves := List.range (imgGroves b)
  let perTier (t : Nat) : List SecEnt :=
    [key 0x12 t 0xFF 0xFFFF 0xFF, key 0x13 t 0xFF 0xFFFF 0xFF] ++ groves.map (fun g => key 0x11 t g 0xFFFF 0xFF) ++
      groves.flatMap fun g => (List.range 100).flatMap fun c => (List.range 3).map fun st => key 0x10 t g c st
  [1, 2, 3, 0x21, 0x22].map (fun t => key t 0xFF 0xFF 0xFFFF 0xFF) ++ (imgTiers b).flatMap perTier

def directoryCheck (b : List Byte) : Option LoadFail :=
  let l := secEnts b
  need (decide (256 + 32 * imgSections b ≤ b.length)) (headFail 0x0005 12) <|>
    firstFail l.zipIdx (fun p => need (dirEntryOk b l p.2 p.1) ⟨0x0005, p.2, 256 + 32 * p.2⟩) <|>
    firstFail (requiredSecs b) fun k => need (l.any k.sameKey) (headFail 0x0005 256)

/-! ## The inner lengths of sections -/

/-- A stream section's form (R107, R138, R188). -/
def streamForm (sec : List Byte) : Option Nat :=
  if sec.isEmpty then none
  else
    let n := getLE sec 0 4
    let c := getLE sec 4 4
    if sec.length < 64 ∨ n = 0 ∨ sec.length ≠ 64 + 16 * n + 64 * c then some 0
    else
      let words := (streamWords sec).zipIdx
      (words.findSome? fun p =>
        let isEnd := wOp p.1 == 1
        let last := p.2 + 1 == n
        if isEnd == last && decide (descSlots sec p.1 = 0 ∨ wDesc p.1 + descSlots sec p.1 ≤ c) then none
        else some (64 + 16 * p.2)) <|>
      (maskDescs sec).findSome? fun m => if m.slot + m.slots ≤ c then none else some (64 + 16 * n + 64 * m.slot)

/-- The external event list (R83): sorted, one completion last, one commit at COMMIT_BEAT. -/
def eventForm (b : List Byte) : Option Nat :=
  let l := extEvents b
  let n := l.length
  let ok (i : Nat) (e : ExtEvent) : Bool :=
    let sorted := match l[i + 1]? with
      | some f => decide (e.beat < f.beat) || (e.beat == f.beat && decide (e.type ≤ f.type))
      | none => true
    let completion := (e.type == 7) == (i + 1 == n) && (e.type != 7 || e.beat + 1 == imgStepBeats b)
    let commit := e.type != 3 || (e.beat == manCommitBeat b && !(l.take i).any fun f => f.type == 3)
    sorted && completion && commit
  (l.zipIdx.findSome? fun p => if ok p.2 p.1 then none else some (16 * p.2)) <|>
    (if l.any (fun e => e.type == 3) && !l.isEmpty then none else some 0)

/-- The inner length fields of a section agree with SIZE. -/
def secForm (b : List Byte) (e : SecEnt) : Option Nat :=
  let t := secBytes b e
  let is (n : Nat) (off : Nat := 0) : Option Nat := if e.size = n then none else some off
  match e.type with
  | 0x01 => is 512
  | 0x02 => if e.size % 16 = 0 then none else some 0
  | 0x03 => if e.size % 16 = 0 then eventForm b else some 0
  | 0x10 => streamForm t
  | 0x11 => is (16 + 32 * getLE t 0 4)
  | 0x12 => is (16 + 32 * getLE t 0 4)
  | 0x13 =>
    if e.size % 24 = 0 ∧ ((powRecs t).map PowRec.run).sum = imgStepBeats b then none else some 0
  | 0x20 => is (64 + 128 * getLE t 0 4 + 32 * getLE t 4 4)
  | 0x21 => is (80 + 32 * getLE t 0 4 + 16 * getLE t 4 4 + 32 * getLE t 8 4)
  | _ => is (16 + 4 * getLE t 4 1 * getLE t 0 4)

/-- SECTION_MALFORMED. -/
def malformedCheck (b : List Byte) : Option LoadFail := directoryCheck b <|> bySec 0x0005 b (secForm b)

end Sys2Proof.Machine
end

