-- ==== Sys2Proof/Machine/LoadField.lean ====
section
/-!
DEFINITION. The loader's check FIELD_RANGE (Table 3-7): the header, the directory and every section's fields against
their stated ranges, and the reserved fields against zero (R77), section by section in directory order.
-/

namespace Sys2Proof.Machine

/-! ## Sorting -/

/-- Insert an element in front of the first one that is not before it. -/
def insertBy {α : Type} (lt : α → α → Bool) (a : α) : List α → List α
  | [] => [a]
  | x :: l => if lt x a then x :: insertBy lt a l else a :: x :: l

/-- Sort, keeping the order of elements that neither precedes. -/
def sortBy {α : Type} (lt : α → α → Bool) (l : List α) : List α := l.foldr (insertBy lt) []

/-! ## The words of a cluster -/

/-- A word of a cluster: start ac, stream, index, and its section's bytes. -/
structure Placed where
  t : Nat
  st : Nat
  idx : Nat
  sec : List Byte
  w : OpWord
deriving DecidableEq, Repr

/-- The words of a stream section. -/
def placedWords (st : Nat) (sec : List Byte) : List Placed :=
  (timedWords sec).zipIdx.map fun p => ⟨p.1.1, st, p.2, sec, p.1.2⟩

/-- The words of a relative cluster's three streams in a tier. -/
def clusterWords (b : List Byte) (tier grove cl : Nat) : List Placed :=
  (List.range 3).flatMap fun st => placedWords st (secFind b 0x10 tier grove cl st)

/-- Offset of a word in its section. -/
def Placed.off (x : Placed) : Nat := 64 + 16 * x.idx

/-- The descriptor that a word names, and its offset in the section. -/
def Placed.desc (x : Placed) : List Byte := chainDesc x.sec x.w
def Placed.descOff (x : Placed) : Nat := 64 + 16 * getLE x.sec 0 4 + 64 * wDesc x.w

/-! ## Weight formats (R106, R115, R119) -/

/-- A word loads weights or runs a pass. -/
def Placed.isWeight (x : Placed) : Bool := [0x10, 0x11, 0x12, 0x13].contains (wOp x.w)

/-- The ac in which a load takes the background buffer, or a pass its foreground (Table 4-5). -/
def Placed.weightAc (x : Placed) : Nat :=
  x.t + (if wOp x.w = 0x11 then 64 else if wOp x.w = 0x13 then 128 else 0)

/-- Formats of the two weight buffers and, newest first, the foreground format of each pass: stream, index, format. -/
structure WeightTrack where
  fg : Nat := 0
  bg : Nat := 0
  passes : List (Nat × Nat × Nat) := []

def WeightTrack.next (k : WeightTrack) (x : Placed) : WeightTrack :=
  if wOp x.w = 0x10 ∨ wOp x.w = 0x11 then { k with bg := wBits x.w 53 50 }
  else
    let fg := if wSwap x.w then k.bg else k.fg
    { fg, bg := if wSwap x.w then k.fg else k.bg, passes := (x.st, x.idx, fg) :: k.passes }

/-- The foreground formats of a cluster's passes. -/
def passFormats (l : List Placed) : List (Nat × Nat × Nat) :=
  ((sortBy (fun x y : Placed => decide (x.weightAc < y.weightAc)) (l.filter Placed.isWeight)).foldl WeightTrack.next {}).passes

/-- The foreground format of a pass. -/
def fgOf (passes : List (Nat × Nat × Nat)) (x : Placed) : Nat :=
  ((passes.find? fun p => p.1 == x.st && p.2.1 == x.idx).map (·.2.2)).getD 0

/-- The class of a format (Table 4-6). -/
def fmtClass (fmt : Nat) : Nat := if fmt = 2 ∨ fmt = 3 then 16 else if fmt = 8 ∨ fmt = 9 then 4 else 8

/-! ## Regions of the scratchpad -/

/-- Lengths of the stored rows of a tile, scale rows last (R117, R120, Table 4-7). -/
def tileRowLens (fmt : Nat) : List Nat :=
  if fmt = 9 then List.replicate 128 96 ++ List.replicate 16 64
  else List.replicate (tileK fmt) (8 * (elemFmt fmt).width) ++ (if isMx fmt then List.replicate (tileK fmt / 32) 64 else [])

/-- One past the last byte of rows at a pitch. -/
def rowsEnd (base pitch n len : Nat) : Nat := base + pitch * (n - 1) + len

/-- K of an activation row (Table 4-6). -/
def passK (fmtA fg : Nat) : Nat := if fmtA = 8 then (if fg = 9 then 512 else 256) else 128

/-- Blocks of 32 fill the rows of a format that has them. R139 asks it of the MX formats and of chains that end in a CVT to RB16
or RB1; the model asks it also of an RB16 tensor that a chain reads (DESIGN CHOICE, log entry 27). -/
def rowFits (fmt row : Nat) : Bool := !(isMx fmt || isRb fmt) || row % 32 == 0

/-- n elements lie inside the scratchpad in whole blocks. -/
def vecOk (fmt row n base : Nat) : Bool := rowFits fmt row && decide (vecEnd fmt row n base ≤ spadSize)

/-! ## Chain descriptors (R138 to R146, R321) -/

/-- Codes of Table 5-3 that a chain reads from the scratchpad. -/
def vecFmt (f : Nat) : Bool := decide (f ≤ 8) || f == 0xA || f == 0xB || f == 0xC

/-- FP32 or PAIR. -/
def wideFmt (f : Nat) : Bool := f == 0xA || f == 0xB

/-- Operations of Table 5-5. -/
def stageKnown (op : Nat) : Bool :=
  (decide (1 ≤ op) && decide (op ≤ 9)) || (decide (0x10 ≤ op) && decide (op ≤ 0x18)) || isReduction op || op == 0x30

/-- Stage i of a chain of E elements. -/
def stageOk (d : List Byte) (e i : Nat) (g : VStage) : Bool :=
  let row := dRow d
  let base := 32 * g.addr
  let takesY := [1, 2, 3, 4, 5, 8].contains g.op
  let operand := match g.kind with
    | 2 => vecFmt g.fmt && vecOk g.fmt row row base
    | 3 => vecFmt g.fmt && rowFits g.fmt row && vecOk g.fmt (e / row) (e / row) base
    | 4 => vecFmt g.fmt && vecOk g.fmt row e base
    | _ => if isReduction g.op then decide (base + 4 * (e / row) ≤ spadSize) else g.addr == 0
  stageKnown g.op && decide (g.kind ≤ 4) && (g.kind != 0) == takesY && operand &&
    field (getLE d (64 + 8 * i) 8) 0 27 == 0 &&
    (if g.op = 0x30 then decide (g.rnd ≤ 1) && i + 1 == dS d else g.rnd == 0)

/-- A region of E elements in the accumulators. -/
def accOk (fmt line e : Nat) : Bool := decide (64 * line + (if fmt = 0xB then 8 else 4) * e ≤ accSize)

/-- The output of a chain (R142, R143). -/
def chainOutOk (d : List Byte) : Bool :=
  match dCvt d with
  | some g => g.fmt == dDstFmt d && (wideFmt g.fmt || dTensor d != 0xFFFF)
  | none => dDstFmt d == 0xA || (dDstFmt d == 0xB && dS d == 0)

/-- A chain descriptor with E elements. -/
def chainOk (d : List Byte) (e : Nat) : Bool :=
  let row := dRow d
  let src := match dSrcKind d with
    | 0 => vecFmt (dSrcFmt d) && vecOk (dSrcFmt d) row e (32 * dSrcAddr d)
    | 1 => wideFmt (dSrcFmt d) && accOk (dSrcFmt d) (dSrcAddr d) e
    | 2 => vecFmt (dSrcFmt d) || dSrcFmt d == 0xD
    | _ => false
  let fuse := match dFuse d with
    | 0 => dFuseFmt d == 0 && dFuseAddr d == 0
    | _ => decide (dFuse d ≤ 2) && dSrcKind d == 1 && vecFmt (dFuseFmt d) && dFuseFmt d != 0xC &&
        vecOk (dFuseFmt d) row e (32 * dFuseAddr d)
  let dst := match dDstKind d with
    | 0 => (vecFmt (dDstFmt d) || dDstFmt d == 0xD) && vecOk (dDstFmt d) row e (32 * dDstAddr d)
    | 1 => wideFmt (dDstFmt d) && accOk (dDstFmt d) (dDstAddr d) e
    | _ => false
  getLE d 0 1 == 1 && decide (dS d ≤ 8) && zeroAt d 10 2 && zeroAt d 28 4 && decide (1 ≤ row) && decide (row ≤ e) &&
    e % row == 0 && (decide (dTensor d < 0x1000) || dTensor d == 0xFFFF) && src && fuse && dst && chainOutOk d &&
    (dDstFmt d != 0xD || (dFuse d == 1 && dFuseFmt d == 0xA)) &&
    ((dStages d).zipIdx.all fun p => stageOk d e p.2 p.1) && zeroAt d (64 + 8 * dS d) (64 - 8 * dS d)

/-! ## Router and move descriptors (R188, R189, R200) -/

/-- Kind and maximum of a bound ID (R82). -/
def boundOf (b : List Byte) (id : Nat) : Option (Nat × Nat) :=
  let t := secShared b 2
  ((List.range (t.length / 16)).find? fun i => getLE t (16 * i) 2 == id).map fun i =>
    (getLE t (16 * i + 2) 2, getLE t (16 * i + 4) 8)

/-- Expert entry e of a router descriptor of B buckets. -/
def expertOk (b d : List Byte) (buckets : Nat) (x : Expert) : Bool :=
  (decide (x.bucket < buckets) || x.bucket == 0xFF) && decide (x.quota ≤ 4096) && zeroAt d (64 + 8 * x.e + 6) 2 &&
    (if x.cr = 0xFF then x.bound == 0 else decide (x.cr ≤ 15) && boundOf b x.bound == some (5, x.quota))

/-- Bucket entry k. -/
def bucketOk (d : List Byte) (x k : Nat) : Bool :=
  let o := rtBucketOff x k
  let es := (rtEnabled d x).filter fun e => e.bucket == k
  let cap := getLE d (o + 8) 4
  decide (es.length ≤ 16) && cap == (es.map Expert.quota).sum && getLE d (o + 4) 4 % 2 == 0 && zeroAt d (o + 12) 4 &&
    decide (32 * getLE d o 4 + 8 * cap ≤ spadSize) && decide (32 * getLE d (o + 4) 4 + 64 ≤ spadSize)

/-- A router descriptor (R189). -/
def routerOk (b d : List Byte) (w : OpWord) : Bool :=
  let x := routeX w
  let n := getLE d 2 1
  let stats := bitAt (getLE d 3 1) 0
  getLE d 0 1 == 2 && decide (getLE d 1 1 ≤ 2) && decide (1 ≤ n) && decide (n ≤ 32) && decide (getLE d 3 1 ≤ 1) &&
    zeroAt d 10 2 && zeroAt d 16 48 && (stats || getLE d 12 4 == 0) &&
    (!stats || decide (32 * getLE d 12 4 + 8 * x ≤ spadSize)) &&
    decide (rowsEnd (32 * getLE d 4 4) (32 * getLE d 8 2) (routeT w) (4 * x) ≤ spadSize) &&
    decide (routeK w ≤ (rtEnabled d x).length) && ((List.range x).all fun e => expertOk b d n (rtExpert d e)) &&
    ((List.range n).all (bucketOk d x)) && zeroAt d (64 + 8 * x) (64 * ceilDiv x 8 - 8 * x) &&
    zeroAt d (rtBucketOff x n) (64 * ceilDiv n 4 - 16 * n)

/-- The entries of CR_MASK that a COUNT_LOAD loads: register and bound ID (Table 8-5). -/
def loadEntries (d : List Byte) : List (Nat × Nat) :=
  ((List.range 12).filter fun j => bitAt (getLE d 24 2) j).map fun j =>
    (field (getLE d 32 8) (4 * j) 4, getLE d (40 + 2 * j) 2)

/-- A move descriptor (R200); rows that a record's token picks are not looked at (DEDUCED, log entry 27). -/
def moveOk (b d : List Byte) (w : OpWord) : Bool :=
  let e := moveE w
  let len := 64 * moveR w
  let list := decide (32 * getLE d 4 4 + 8 * e ≤ spadSize)
  let rows (addr pitch : Nat) : Bool := decide (rowsEnd (32 * getLE d addr 4) (32 * getLE d pitch 4) e len ≤ spadSize)
  getLE d 0 1 == 3 && zeroAt d 2 2 && zeroAt d 26 6 &&
    (match getLE d 1 1 with
    | 0 => list && rows 16 20
    | 1 => list && rows 8 12
    | 2 => list && rows 16 20
    | 3 => e == 1 && moveR w == 1 && getLE d 4 4 == 0 && decide (getLE d 24 2 < 2 ^ 12) &&
        decide (32 * getLE d 8 4 + 64 ≤ spadSize) &&
        (loadEntries d).all fun p => match boundOf b p.2 with
          | some q => q.1 == 1 || q.1 == 5
          | none => true
    | _ => false)

/-! ## Masks (R171, R172) -/

def maskOk (m : MaskDesc) : Bool :=
  let d := m.bytes
  decide (1 ≤ getLE d 1 1) && decide (getLE d 1 1 ≤ 15) && decide (getLE d 2 1 ≤ 1) && zeroAt d 3 1 && zeroAt d 6 58 &&
    (getLE d 2 1 == 1 || getLE d 4 2 == 0)

/-- An MMT's mask: one descriptor with its ID, clear of the chain descriptors, no row at or above M (R172). -/
def maskFits (x : Placed) : Bool :=
  let k := wBits x.w 20 17
  if k = 0 then true
  else
    match (maskDescs x.sec).filter fun m => getLE m.bytes 1 1 == k with
    | [m] => (List.range 1024).all fun i => decide (i < wBits x.w 53 44 + 1) || !maskRow m.bytes i
    | _ => false

/-- A mask descriptor holds no slot that a word names. -/
def maskApart (sec : List Byte) (m : MaskDesc) : Bool :=
  (List.range m.slots).all fun i => !(namedSlots sec).contains (m.slot + i)

/-! ## Words (R109 to R118, R199, R209) -/

/-- N of a word that moves lines. -/
def wLines (w : OpWord) : Nat :=
  match wOp w with
  | 0x30 => wBits w 24 9 + 1
  | 0x31 => wBits w 24 9 + 1
  | 0x32 => wBits w 35 20 + 1
  | 0x33 => wBits w 35 20 + 1
  | 0x34 => wBits w 46 31 + 1
  | 0x35 => wBits w 46 31 + 1
  | 0x38 => wBits w 46 31 + 1
  | 0x39 => wBits w 46 31 + 1
  | _ => 0

/-- Reserved low bits of an opcode's operands (Table 4-4); none for a reserved opcode. -/
def reservedLow (op : Nat) : Option Nat :=
  match op with
  | 0x00 => some 80
  | 0x01 => some 80
  | 0x10 => some 35
  | 0x11 => some 35
  | 0x12 => some 17
  | 0x13 => some 17
  | 0x20 => some 40
  | 0x21 => some 37
  | 0x22 => some 42
  | 0x30 => some 9
  | 0x31 => some 9
  | 0x32 => some 20
  | 0x33 => some 20
  | 0x34 => some 27
  | 0x35 => some 27
  | 0x38 => some 31
  | 0x39 => some 31
  | _ => none

/-- Operations that take a count register (Table 4-4). -/
def takesVar (op : Nat) : Bool := [0x12, 0x13, 0x20, 0x21, 0x22, 0x34, 0x35].contains op

/-- A partition byte address (Table 9-1). -/
inductive Space where
  | stack (j off : Nat)
  | crown (k off : Nat)
  | outer (off : Nat)
deriving DecidableEq, Repr

def spaceOf (a : Nat) : Space :=
  if a < 0x10000000000 then .stack (a / 2 ^ 36) (a % 2 ^ 36)
  else if a < 0x20000000000 then .crown ((a - 0x10000000000) / 2 ^ 31) (a % 2 ^ 31)
  else .outer (a - 0x20000000000)

/-- The variant that the header names. -/
def hdrVariant (b : List Byte) : Variant := if imgVariant b = 0xA812 then .a812 else .a816

/-- A cluster of relative grove g reaches the address by LDC and STC (R209). -/
def reaches (v : Variant) (g a : Nat) : Bool :=
  match spaceOf a with
  | .stack j _ => (groveStacks v g).contains j
  | .crown k _ => k == g
  | .outer _ => false

/-- Format and region rules of a pass (R110, R115, R122, R125). -/
def passOk (fg : Nat) (w : OpWord) : Bool :=
  let mmt := wOp w == 0x13
  let fa := wBits w 26 23
  let m := wBits w 53 44 + 1
  let mode := wBits w 22 21
  let src := 32 * wBits w 79 63
  let pitch := 32 * wBits w 62 54
  let eb := (elemFmt fa).width / 8
  let stop := if mmt then rowsEnd (src + (ceilDiv m 128 - 1) * 128 * eb) pitch 128 (128 * eb)
    else rowsEnd src pitch m (rowBytes fa (passK fa fg))
  decide (fa ≤ 8) && decide (mode ≤ 2) && decide (0 < pitch) && fmtClass fa == fmtClass fg &&
    (!mmt || (decide (fa ≤ 3) && decide (fg ≤ 3))) && (mmt || wBits w 20 17 == 0) && decide (stop ≤ spadSize) &&
    decide (64 * wBits w 39 27 + m * (if mode = 2 then 512 else 256) ≤ accSize)

/-- Format and region rules of a weight load (R110, R115, R118, R124). -/
def loadOk (w : OpWord) : Bool :=
  let fmt := wBits w 53 50
  let src := 32 * wBits w 79 63
  let pitch := 32 * wBits w 62 54
  let rows := tileRowLens fmt
  let stop := if wOp w = 0x10 then rowsEnd src pitch rows.length (rows.getLastD 0)
    else rowsEnd src pitch 64 (16 * (elemFmt fmt).width)
  let k := if wOp w = 0x10 then tileK fmt else 128
  decide (fmt ≤ (if wOp w = 0x10 then 9 else 3)) && decide (0 < pitch) && decide (wBits w 49 41 + 1 ≤ k) &&
    decide (stop ≤ spadSize)

/-- A word that moves lines (R110, R209). -/
def linesOk (v : Variant) (g : Nat) (w : OpWord) : Bool :=
  let n := wLines w
  let op := wOp w
  let even (hi lo : Nat) : Bool := wBits w hi lo % 2 == 0 && decide (32 * wBits w hi lo + 64 * n ≤ spadSize)
  decide (n ≤ 49152) && even 79 63 &&
    (if op = 0x32 then even 62 46 && decide (wBits w 45 36 ≤ 799)
    else if op = 0x33 then wBits w 62 36 == 0
    else if op = 0x30 ∨ op = 0x31 then
      reaches v g (crownMaddr w) && reaches v g (crownMaddr w + 64 * n - 1)
    else true)

/-- The operands of a word by its operation. -/
def operandsOk (b : List Byte) (e : SecEnt) (fg : Nat) (x : Placed) : Bool :=
  match wOp x.w with
  | 0x10 => loadOk x.w
  | 0x11 => loadOk x.w
  | 0x12 => passOk fg x.w
  | 0x13 => passOk fg x.w && maskFits x
  | 0x20 => chainOk x.desc (wBits x.w 63 44 + 1)
  | 0x21 => routerOk b x.desc x.w
  | 0x22 => moveOk b x.desc x.w
  | _ => wLines x.w == 0 || linesOk (hdrVariant b) e.grove x.w

/-- The bits that no operand holds, and the last ac (R110). -/
def wordOk (b : List Byte) (e : SecEnt) (x : Placed) : Bool :=
  let op := wOp x.w
  match reservedLow op with
  | none => false
  | some n =>
    field x.w.toNat 0 n == 0 && wBits x.w 81 80 == 0 && (!wVar x.w || takesVar op) &&
      (!wSwap x.w || op == 0x12 || op == 0x13) && decide (0 < wDur x.w) &&
      decide (x.t + wDur x.w ≤ (imgStepBeats b - 1) * acPerBeat e.tier)

/-- The tensors that the loader takes for thinned: those that RED_PT_THIN thins in force or in a change that waits when the load
is processed, and those that a tensor descriptor of the image thins (DESIGN CHOICE, log entry 27: R343 lets a later change
take effect after the load). -/
def loadThin (s : State) (pt : Nat) (b : List Byte) (t : Nat) : Bool :=
  let x := s.redPt pt
  let on (l : FMap Thin) : Bool := decide ((mget {} l t : Thin).nm1 ≠ 0)
  on x.thin || on (x.nextThin.getD []) ||
    (pithPrograms b).any fun p => (descs p.2).any fun d => d.tensor == t && decide (1 < d.thinN)

/-- Scratchpad ranges that a word writes (R110, R163). -/
def Placed.writes (thin : Nat → Bool) (x : Placed) : List (Nat × Nat) := wordRegions thin x.w x.desc

/-- The word writes the scale page (R163); the rows of a COMBINE are looked at as `wordRegions` names them (DESIGN CHOICE, log
entry 27). -/
def writesScales (thin : Nat → Bool) (x : Placed) : Bool := (x.writes thin).any fun r => overlap r.1 r.2 3129344 16384

/-- A conversion keeps to its tensor's one format (R162). -/
def cvtAgrees (cvts : List (Nat × Nat)) (x : Placed) : Bool :=
  match wordCvt x.sec x.w with
  | some c => cvts.all fun p => p.1 != c.1 || p.2 == c.2
  | none => true

/-- A count register that a word writes: the ac from which it holds, the register and the bound ID (R198, R199). -/
structure CountWrite where
  t : Nat
  reg : Nat
  bound : Nat
deriving DecidableEq, Repr

def countWrites (x : Placed) : List CountWrite :=
  let t := x.t + wDur x.w
  if wOp x.w = 0x21 then
    ((List.range (routeX x.w)).map (rtExpert x.desc)).filterMap fun e =>
      if e.cr = 0xFF then none else some ⟨t, e.cr, e.bound⟩
  else if wOp x.w = 0x22 ∧ getLE x.desc 1 1 = 3 then (loadEntries x.desc).map fun p => ⟨t, p.1, p.2⟩
  else []

/-- No two writes of a cluster to one register take effect in one ac (R199). -/
def countsApart (all : List CountWrite) (x : Placed) : Bool :=
  (countWrites x).all fun w => (all.filter fun v => v.t == w.t && v.reg == w.reg).length == 1

/-- A stream section. -/
def streamFields (thin : Nat → Bool) (b : List Byte) (e : SecEnt) : Option Nat :=
  let sec := secBytes b e
  if sec.isEmpty then none
  else
    let cl := clusterWords b e.tier e.grove e.cluster
    let passes := passFormats cl
    let counts := cl.flatMap countWrites
    let cvts := streamCvts b ++ copyCvts b
    let mine := placedWords e.stream sec
    badAt [(zeroAt sec 24 40, 24), (some (getLE sec 16 8) == mine.getLast?.map Placed.t, 16)] <|>
    (mine.findSome? fun x =>
      if !wordOk b e x then some x.off
      else if !(operandsOk b e (fgOf passes x) x && cvtAgrees cvts x) then
        some (if descSlots sec x.w = 0 then x.off else x.descOff)
      else if (needsScales b && writesScales thin x) || !countsApart counts x then some x.off
      else none) <|>
    (maskDescs sec).findSome? fun m =>
      if maskOk m && maskApart sec m then none else some (64 + 16 * getLE sec 0 4 + 64 * m.slot)

/-! ## The other sections -/

def headerFields (b : List Byte) : Option LoadFail :=
  let f (pos : Nat) : LoadFail := headFail 0x0006 pos
  need (imgVariant b == 0xA816 || imgVariant b == 0xA812) (f 6) <|>
  need ([2, 4, 6, 8].contains (imgGroves b)) (f 8) <|>
  need (decide (imgTierMask b < 16)) (f 9) <|>
  need (zeroAt b 11 1) (f 11) <|>
  need (decide (32 ≤ imgStepBeats b) && decide (imgStepBeats b ≤ 67108864)) (f 16) <|>
  need (zeroAt b 20 4) (f 20) <|> need (zeroAt b 56 8) (f 56) <|> need (zeroAt b 128 128) (f 128) <|>
  firstFail (List.range (imgSections b)) fun i =>
    need (zeroAt b (256 + 32 * i + 7) 1 && zeroAt b (256 + 32 * i + 24) 8) ⟨0x0006, i, 256 + 32 * i⟩

/-- Stacks of the partition that VARIANT and GROVES name (R218). -/
def hdrStacks (b : List Byte) : Nat := if imgVariant b = 0xA812 then 3 * imgGroves b / 2 else 2 * imgGroves b

def manifestFields (b t : List Byte) : Option Nat :=
  badAt ((List.range 16).map fun j => (decide (j < hdrStacks b) || manHbmUsed b j == 0, 8 * j)) <|>
  badAt ([(decide (16 ≤ manStashRatio b) && decide (manStashRatio b ≤ 256), 0xD0), (decide (manStashMode b ≤ 1), 0xD2),
    (zeroAt t 0xD3 1, 0xD3), (zeroAt t 0xD6 10, 0xD6)] ++
    ((List.range 8).map fun p => (decide (manPortMode b p ≤ 3), 0xF0 + p)) ++
    [(manOwned b % 2 == 0 && decide (manOwned b < 2 ^ 21), 0x120), (zeroAt t 0x12C 212, 0x12C)])

def boundFields (t : List Byte) : Option Nat :=
  (List.range (t.length / 16)).findSome? fun i =>
    let id (k : Nat) : Nat := getLE t (16 * k) 2
    let kind := getLE t (16 * i + 2) 2
    if !(List.range i).any (fun k => id k == id i) && decide (1 ≤ kind) && decide (kind ≤ 5) && zeroAt t (16 * i + 12) 4
    then none else some (16 * i)

/-- Object number and parameter of an external event (Table 3-6a). R403 gives a timer event's parameter bit 0 and bits [63:32];
its other bits may hold any value (DESIGN CHOICE, log entry 27). -/
def eventOk (b : List Byte) (e : ExtEvent) : Bool :=
  decide (e.beat < imgStepBeats b) &&
  match e.type with
  | 1 => decide (e.object < slotCount b) && e.param == 0
  | 2 => decide (e.object < slotCount b) && e.param == 0
  | 3 => e.object == 0 && e.param == 0
  | 4 =>
    let prog := secPith b (e.param % 256)
    let i := field e.param 16 16
    decide (e.object < slotCount b) && field e.param 8 8 == 0 && decide (i < getLE prog 0 4) &&
      (descAt prog i).copyFmt != 0xFF && decide (64 * (e.param / 2 ^ 32) < Desc.copySize (descAt prog i))
  | 5 => decide (e.object ≤ 15) && bitAt (manOwned b) (4 + e.object)
  | 6 => decide (e.object < hdrStacks b) && e.param == 0
  | 7 => e.object == 0 && e.param == 0
  | _ => false

def powerFields (b t : List Byte) : Option Nat :=
  (powRecs t).zipIdx.findSome? fun p =>
    if decide (0 < p.1.run) && zeroAt t (24 * p.2 + 6) 2 && (p.1.groves.drop (imgGroves b)).all (· == 0) then none
    else some (24 * p.2)

def crownFields (t : List Byte) : Option Nat :=
  badAt [(zeroAt t 4 12, 4)] <|>
  (List.range (getLE t 0 4)).findSome? fun i =>
    let o := 16 + 32 * i
    let e := crownEntry t i
    if (e.kind == 1 || e.kind == 2) && decide (getLE t (o + 1) 1 < 4) && zeroAt t (o + 3) 1 && e.offset % 64 == 0 &&
      (e.kind == 1 || e.hbmAddr == 0) then none else some o

/-- The spaces of a copy (R234). -/
def pairOk (v : Variant) (e : DmaEntry) : Bool :=
  !overlap e.src (64 * e.lines) e.dst (64 * e.lines) &&
  match spaceOf e.src, spaceOf e.dst with
  | .crown k _, .stack j _ => k == e.grove && (groveStacks v k).contains j
  | .stack j _, .crown k _ => k == e.grove && (groveStacks v k).contains j
  | .crown _ _, _ => false
  | _, .crown _ _ => false
  | _, _ => true

def dmaFields (b t : List Byte) : Option Nat :=
  badAt [(zeroAt t 4 12, 4)] <|>
  (List.range (getLE t 0 4)).findSome? fun i =>
    let o := 16 + 32 * i
    let e := dmaEntry t i
    let sorted := i == 0 || decide ((dmaEntry t (i - 1)).beat ≤ e.beat)
    let ends := if e.kind = 1 then pairOk (hdrVariant b) e else e.src == 0 && e.dst == 0
    if sorted && decide (1 ≤ e.kind) && decide (e.kind ≤ 3) && zeroAt t (o + 6) 2 && zeroAt t (o + 28) 4 && ends
    then none else some o

/-- The tensor rules of a descriptor (R162). -/
def tensorIdOk (cvts : List (Nat × Nat)) (d : TensorDesc) : Bool :=
  decide (d.tensor < 0x1000) && (cvts.all fun p => p.1 != d.tensor || isRb p.2) &&
    (d.copyFmt == 0xFF || (decide (d.copyTensor < 0x1000) && d.copyTensor != d.tensor &&
      cvts.all fun p => p.1 != d.copyTensor || p.2 == d.copyFmt))

def pithFields (b t : List Byte) : Option Nat :=
  let n := getLE t 0 4
  let cvts := streamCvts b ++ copyCvts b
  badAt [(zeroAt t 24 40, 24)] <|>
  ((descs t).zipIdx.findSome? fun p =>
    if zeroAt t (64 + 128 * p.2 + 116) 12 && tensorIdOk cvts p.1 then none else some (64 + 128 * p.2)) <|>
  (List.range (getLE t 4 4)).findSome? fun i =>
    let o := 64 + 128 * n + 32 * i
    if zeroAt t (o + 2) 2 && zeroAt t (o + 24) 8 then none else some o

/-- A graft record (Table 11-10). -/
def graftOk (b : List Byte) (g : GraftRec) : Bool :=
  decide (g.dir ≤ 1) && decide (1 ≤ g.kind) && decide (g.kind ≤ 3) && (g.kind != 3 || isYelger b g.port) &&
    (vecFmt g.fmt || g.fmt == 0xD)

def slotFields (b t : List Byte) : Option Nat :=
  let segs := 80 + 32 * slotCount b
  let grafts := segs + 16 * segCount b
  badAt [(zeroAt t 12 4, 12)] <|>
  ((slotRecs b).zipIdx.findSome? fun p =>
    let o := 80 + 32 * p.2
    if decide (p.1.dir ≤ 1) && decide (1 ≤ p.1.type) && decide (p.1.type ≤ 5) && zeroAt t (o + 3) 1 &&
      decide (1 ≤ p.1.period) && decide (1 ≤ p.1.count) && zeroAt t (o + 26) 6 then none else some o) <|>
  ((segRecs b).zipIdx.findSome? fun p =>
    let o := segs + 16 * p.2
    if p.1.offset % 64 == 0 && decide (p.1.cluster ≤ 799) && zeroAt t (o + 14) 2 &&
      decide (p.1.slot < (if p.1.graft then graftCount b else slotCount b)) then none else some o) <|>
  (graftRecs b).zipIdx.findSome? fun p =>
    let o := grafts + 32 * p.2
    if graftOk b p.1 && zeroAt t (o + 7) 1 && zeroAt t (o + 24) 8 then none else some o

def refreshFields (b t : List Byte) : Option Nat :=
  badAt [(decide (2 ≤ getLE t 0 4) && decide (getLE t 0 4 ≤ 4096), 0), (getLE t 4 1 == hdrStacks b, 4), (zeroAt t 5 11, 5)]

/-- The fields of a section. -/
def secFields (thin : Nat → Bool) (b : List Byte) (e : SecEnt) : Option Nat :=
  let t := secBytes b e
  match e.type with
  | 0x01 => manifestFields b t
  | 0x02 => boundFields t
  | 0x03 => (extEvents b).zipIdx.findSome? fun p => if eventOk b p.1 then none else some (16 * p.2)
  | 0x10 => streamFields thin b e
  | 0x11 => crownFields t
  | 0x12 => dmaFields b t
  | 0x13 => powerFields b t
  | 0x20 => pithFields b t
  | 0x21 => slotFields b t
  | _ => refreshFields b t

/-- FIELD_RANGE. -/
def fieldCheck (thin : Nat → Bool) (b : List Byte) : Option LoadFail := headerFields b <|> bySec 0x0006 b (secFields thin b)

end Sys2Proof.Machine
end

