-- ==== Sys2Proof/Machine/LoadFit.lean ====
section
/-!
DEFINITION. The loader's checks of an image against its partition and of what it needs against what there is (Table
3-7): VARIANT_MISMATCH to BOUND_MISSING, the capacity checks, Crown, the stash, and owned pins, timers and buffers.
-/

namespace Sys2Proof.Machine

/-! ## The partition (R5, R36, R78, R88, R208) -/

def variantCheck (s : State) (b : List Byte) : Option LoadFail := need (imgVariant b == s.variant.part) (headFail 0x0007 6)

def partitionSizeCheck (s : State) (pt : Nat) (b : List Byte) : Option LoadFail :=
  need (imgGroves b == ptSize s pt) (headFail 0x0008 8) <|>
  need (decide (imgPorts b ≤ (ptPorts s pt).length)) (headFail 0x0008 10)

def gridCheck (s : State) (pt : Nat) (b : List Byte) : Option LoadFail :=
  need (imgGrid b == (s.part pt).grid) (headFail 0x0009 40)

/-- Bytes of each stack that are open to an image (R88). -/
def openBytes : Nat := stackBytes - 2 ^ 31

/-- The ways that n bytes from an offset in a grove's Crown touch. -/
def waysOf (off n : Nat) : List Nat := (List.range 32).filter fun w => overlap (w * 2 ^ 26) (2 ^ 26) off (max n 1)

/-- Every way that the bytes touch is a scratchpad way, or every one a cache way. -/
def waysAre (b : List Byte) (k off n : Nat) (scratch : Bool) : Bool :=
  (waysOf off n).all fun w => bitAt (manCrownWays b k) w == scratch

/-- n bytes from a partition address lie in one space of the partition that an image may address (R88, R208). -/
def inPart (s : State) (pt : Nat) (b : List Byte) (a n : Nat) : Bool :=
  match spaceOf a with
  | .stack j off => decide (j < (ptStacks s pt).length) && decide (off + max n 1 ≤ openBytes)
  | .crown k off => decide (k < ptSize s pt) && decide (off + max n 1 ≤ 2 ^ 31) && waysAre b k off n true
  | .outer off => decide (off + max n 1 ≤ 4096 * ptPages s pt)

/-- Relative indices and addresses of a section (R36, R78, R208). -/
def secRange (s : State) (pt : Nat) (b : List Byte) (e : SecEnt) : Option Nat :=
  let t := secBytes b e
  let groves := ptSize s pt
  let ports := (ptPorts s pt).length
  match e.type with
  | 0x01 =>
    badAt ((List.range 8).map fun p => (decide (p < ports) || manPortMode b p == 0, 0xF0 + p)) <|>
    badAt ((List.range 8).map fun p => (manGraftBytes b p == 0 || decide (manGraftGrove b p < groves), 0x118 + p))
  | 0x10 =>
    (placedWords e.stream t).findSome? fun x =>
      let ok := match wOp x.w with
        | 0x30 => inPart s pt b (crownMaddr x.w) (64 * wLines x.w)
        | 0x31 => inPart s pt b (crownMaddr x.w) (64 * wLines x.w)
        | 0x32 => decide (wBits x.w 45 36 < 100 * groves)
        | _ => true
      if ok then none else some x.off
  | 0x11 =>
    (List.range (getLE t 0 4)).findSome? fun i =>
      let c := crownEntry t i
      let inGrove := decide (c.way < 32) && decide (c.way * 2 ^ 26 + c.offset + 64 * c.lines ≤ 2 ^ 31)
      if inGrove && (c.kind == 2 || inPart s pt b c.hbmAddr (64 * c.lines)) then none else some (16 + 32 * i)
  | 0x12 =>
    (List.range (getLE t 0 4)).findSome? fun i =>
      let d := dmaEntry t i
      let ok := if d.kind = 1 then inPart s pt b d.src (64 * d.lines) && inPart s pt b d.dst (64 * d.lines)
        else decide (d.grove < groves)
      if ok then none else some (16 + 32 * i)
  | 0x20 => if e.grove < (ptStacks s pt).length then none else some 0
  | 0x21 =>
    badAt ((List.range 8).map fun p =>
      (graftBase b p == 0 || (decide (p < ports) && inPart s pt b (graftBase b p) (manGraftBytes b p)), 16 + 8 * p)) <|>
    badAt ((slotRecs b).zipIdx.map fun p => (decide (p.1.port < ports), 80 + 32 * p.2)) <|>
    badAt ((segRecs b).zipIdx.map fun p => (decide (p.1.cluster < 100 * groves), 80 + 32 * slotCount b + 16 * p.2)) <|>
    badAt ((graftRecs b).zipIdx.map fun p =>
      (decide (p.1.port < ports), 80 + 32 * slotCount b + 16 * segCount b + 32 * p.2))
  | _ => none

def rangeCheck (s : State) (pt : Nat) (b : List Byte) : Option LoadFail := bySec 0x000A b (secRange s pt b)

/-! ## Bounds (R113, R114) -/

/-- The count register and the count field of a word with VAR. -/
def varField (w : OpWord) : Nat × Nat :=
  match wOp w with
  | 0x12 => (wBits w 43 40, wBits w 53 44 + 1)
  | 0x13 => (wBits w 43 40, wBits w 53 44 + 1)
  | 0x20 => (wBits w 43 40, wBits w 63 44 + 1)
  | 0x21 => (wBits w 40 37, routeT w)
  | 0x22 => (wBits w 45 42, moveE w)
  | _ => (wBits w 30 27, wLines w)

/-- The bound attached to a register at an ac: that of the latest write that holds by then (R106, R199). -/
def boundAt (l : List CountWrite) (reg t : Nat) : Option Nat :=
  ((l.filter fun w => w.reg == reg && decide (w.t ≤ t)).foldl (fun (m : Option CountWrite) w =>
    match m with
    | some v => if v.t < w.t then some w else m
    | none => some w) none).map CountWrite.bound

/-- A word's counts have their bounds. -/
def boundsOk (b : List Byte) (l : List CountWrite) (x : Placed) : Bool :=
  let writes := (countWrites x).all fun w => (boundOf b w.bound).isSome
  let v := varField x.w
  let reads := match boundAt l v.1 x.t with
    | some id => match boundOf b id with
      | some p => p.2 == v.2
      | none => false
    | none => false
  writes && (!wVar x.w || reads)

/-- BOUND_MISSING. -/
def boundCheck (b : List Byte) : Option LoadFail :=
  bySec 0x000B b fun e =>
    if e.type ≠ 0x10 then none
    else
      let l := (clusterWords b e.tier e.grove e.cluster).flatMap countWrites
      (placedWords e.stream (secBytes b e)).findSome? fun x => if boundsOk b l x then none else some x.off

/-! ## Capacities -/

/-- A failure at an offset of the manifest. -/
def manFail (b : List Byte) (code : Half) (off : Nat) : LoadFail :=
  let i := secIndex b 1 0xFF
  ⟨code, i, (secEnt b i).off + off⟩

def hbmFitCheck (s : State) (pt : Nat) (b : List Byte) : Option LoadFail :=
  firstFail (List.range (ptStacks s pt).length) fun j =>
    need (decide (manHbmUsed b j ≤ openBytes)) (manFail b 0x0010 (8 * j))

def outerFitCheck (s : State) (pt : Nat) (b : List Byte) : Option LoadFail :=
  need (decide (manOuterUsed b ≤ 4096 * ptPages s pt)) (manFail b 0x0011 0x80)

/-- A peak of the manifest against its limit and against the streams' declarations (R107, Table 4-2). -/
def peakCheck (b : List Byte) (code : Half) (manOff secOff limit : Nat) : Option LoadFail :=
  let peak := getLE (manifest b) manOff 4
  need (decide (peak ≤ limit)) (manFail b code manOff) <|>
  bySec code b fun e =>
    if e.type = 0x10 ∧ peak < getLE (secBytes b e) secOff 4 then some secOff else none

def scratchpadFitCheck (b : List Byte) : Option LoadFail := peakCheck b 0x0012 0x88 8 spadSize
def accumulatorFitCheck (b : List Byte) : Option LoadFail := peakCheck b 0x0013 0x8C 12 accSize

/-! ## The stash as the streams plan it (R175, R180, R184) -/

/-- A stash record in a cluster's plan: tag, lines, and the beat in which its push ends. -/
structure PlanRec where
  tag : Nat
  n : Nat
  ended : Nat
deriving DecidableEq, Repr

/-- A cluster's stash as its words run: records held, most held at once, pops (beat, lines) and the first word that
breaks the balance. -/
structure StashPlan where
  recs : List PlanRec := []
  most : Nat := 0
  pops : List (Nat × Nat) := []
  bad : Option Placed := none

/-- One push or pop (R176, R184): a pop matches the newest record and starts 16 beats or more after its push ended. -/
def StashPlan.next (c : Nat) (k : StashPlan) (x : Placed) : StashPlan :=
  let n := stashN x.w
  let beat := x.t / c
  if wOp x.w = 0x38 then
    { k with recs := ⟨stashTag x.w, n, (x.t + wDur x.w - 1) / c⟩ :: k.recs, most := max k.most (k.recs.length + 1) }
  else
    let ok := match k.recs with
      | r :: _ => r.tag == stashTag x.w && r.n == n && decide (r.ended + 16 ≤ beat)
      | [] => false
    { k with recs := k.recs.tail, pops := k.pops ++ [(beat, n)], bad := if ok || k.bad.isSome then k.bad else some x }

/-- The pushes and pops of a cluster in order of start ac (R176). -/
def stashWords (b : List Byte) (tier grove cl : Nat) : List Placed :=
  sortBy (fun x y : Placed => decide (x.t < y.t))
    ((clusterWords b tier grove cl).filter fun x => wOp x.w == 0x38 || wOp x.w == 0x39)

def stashPlan (b : List Byte) (tier grove cl : Nat) : StashPlan :=
  (stashWords b tier grove cl).foldl (StashPlan.next (acPerBeat tier)) {}

/-- The staging area of a cluster (R180): the largest sum of popped bytes over nine beats. -/
def stagingBytes (k : StashPlan) : Nat :=
  (k.pops.map fun p => ((k.pops.filter fun q => decide (p.1 ≤ q.1) && decide (q.1 ≤ p.1 + 8)).map fun q => 64 * q.2).sum).foldl max 0

/-- The groves and clusters of an image. -/
def imgClusters (b : List Byte) : List (Nat × Nat) :=
  (List.range (imgGroves b)).flatMap fun g => (List.range 100).map fun c => (g, c)

/-- The stream section of a cluster's word. -/
def wordFail (code : Half) (b : List Byte) (tier grove cl : Nat) (x : Placed) : LoadFail :=
  let i := ((secEnts b).findIdx? fun e =>
    e.type == 0x10 && e.tier == tier && e.grove == grove && e.cluster == cl && e.stream == x.st).getD 0xFFFFFFFF
  ⟨code, i, (secEnt b i).off + x.off⟩

/-! ## CROWN_WAYS (R228 to R230, Table 7-4) -/

/-- The grove owns the window's stack. -/
def windowOwned (s : State) (g : Nat) (e : CrownEntry) : Bool :=
  match spaceOf e.hbmAddr with
  | .stack j _ => (groveStacks s.variant g).contains j
  | _ => false

/-- An entry by itself: its ways' mode, its stack, its beats (R229, R230). -/
def crownEntryOk (s : State) (b : List Byte) (g : Nat) (e : CrownEntry) : Bool :=
  let off := e.way * 2 ^ 26 + e.offset
  waysAre b g off (64 * e.lines) (e.kind == 2) && decide (e.openBeat < e.closeBeat) &&
    (e.kind == 2 || (windowOwned s g e && (!e.fill || decide (e.fillBeat + 2 ≤ e.openBeat))))

/-- Two windows that are open in one beat cover one HBM byte. -/
def windowsMeet (e f : CrownEntry) : Bool :=
  e.kind == 1 && f.kind == 1 && decide (e.openBeat < f.closeBeat) && decide (f.openBeat < e.closeBeat) &&
    overlap e.hbmAddr (64 * e.lines) f.hbmAddr (64 * f.lines)

/-- The windows of a tier that stand before entry i of a grove's table. -/
def windowsBefore (b : List Byte) (tier g i : Nat) : List CrownEntry :=
  (List.range g).flatMap (crownEntries b tier) ++ (crownEntries b tier g).take i

/-- An LDC or STC of HBM lies in a window of its grove that is open in all its beats; an STC in one that is written
back. -/
def crownWordOk (b : List Byte) (tier g : Nat) (x : Placed) : Bool :=
  let op := wOp x.w
  let a := crownMaddr x.w
  if (op ≠ 0x30 ∧ op ≠ 0x31) ∨ 0x10000000000 ≤ a then true
  else
    let c := acPerBeat tier
    (crownEntries b tier g).any fun e =>
      e.kind == 1 && decide (e.hbmAddr ≤ a) && decide (a + 64 * wLines x.w ≤ e.hbmAddr + 64 * e.lines) &&
        decide (e.openBeat ≤ x.t / c) && decide ((x.t + wDur x.w - 1) / c < e.closeBeat) && (op == 0x30 || e.writeBack)

/-- The most bytes of arrays alive in one beat of a grove's table. -/
def arrayBytes (l : List CrownEntry) : Nat :=
  let arrays := l.filter fun e => e.kind == 2
  (arrays.map fun e => ((arrays.filter fun f => decide (f.openBeat ≤ e.openBeat) && decide (e.openBeat < f.closeBeat)).map
    fun f => 64 * f.lines).sum).foldl max 0

/-- What a grove's scratchpad ways must hold in a tier (Table 7-4). -/
def crownNeed (b : List Byte) (tier g : Nat) : Nat :=
  100 * manStashCrown b + ((List.range 100).map fun c => stagingBytes (stashPlan b tier g c)).sum +
    (((List.range 8).filter fun p => manGraftGrove b p == g).map (manGraftBytes b)).sum + arrayBytes (crownEntries b tier g)

/-- Scratchpad ways of a grove. -/
def scratchWays (b : List Byte) (g : Nat) : Nat := ((List.range 32).filter fun w => bitAt (manCrownWays b g) w).length

def crownWaysCheck (s : State) (b : List Byte) : Option LoadFail :=
  (bySec 0x0014 b fun e =>
    match e.type with
    | 0x10 =>
      (placedWords e.stream (secBytes b e)).findSome? fun x => if crownWordOk b e.tier e.grove x then none else some x.off
    | 0x11 =>
      (crownEntries b e.tier e.grove).zipIdx.findSome? fun p =>
        if crownEntryOk s b e.grove p.1 && !(windowsBefore b e.tier e.grove p.2).any (windowsMeet p.1) then none
        else some (16 + 32 * p.2)
    | _ => none) <|>
  firstFail (imgTiers b) fun tier => firstFail (List.range (imgGroves b)) fun g =>
    need (decide (crownNeed b tier g ≤ scratchWays b g * 2 ^ 26)) (manFail b 0x0014 (0x90 + 4 * g))

/-! ## STASH_BOUNDS and STASH_BALANCE (R91, R184) -/

/-- Lines of a push that leave the scratchpad in a beat. -/
def pushLinesIn (c : Nat) (x : Placed) (beat : Nat) : Nat :=
  min (x.t + stashN x.w) ((beat + 1) * c) - max x.t (beat * c)

/-- The pushes of a tier, of one grove or of all. -/
def pushesOf (b : List Byte) (tier : Nat) (groves : List Nat) : List Placed :=
  groves.flatMap fun g => (List.range 100).flatMap fun c => (stashWords b tier g c).filter fun x => wOp x.w == 0x38

/-- The pops of a tier, of one grove or of all: beat and lines. -/
def popsOf (b : List Byte) (tier : Nat) (groves : List Nat) : List (Nat × Nat) :=
  groves.flatMap fun g => (List.range 100).flatMap fun c => (stashPlan b tier g c).pops

/-- Bytes that Table 7-4 plans for beat `beat`: pushes that end in the beat before, and pops that start eight later. -/
def stashTraffic (c : Nat) (pushes : List Placed) (pops : List (Nat × Nat)) (beat : Nat) : Nat :=
  64 * (((pushes.filter fun x => (x.t + wDur x.w - 1) / c + 1 == beat).map fun x => stashN x.w).sum +
    ((pops.filter fun p => p.1 == beat + 8).map (·.2)).sum)

/-- The beats in which the stash has traffic. -/
def stashBeats (c : Nat) (pushes : List Placed) (pops : List (Nat × Nat)) : List Nat :=
  (pushes.map fun x => (x.t + wDur x.w - 1) / c + 1) ++ pops.map fun p => p.1 - 8

/-- Lines that a tier's DMA table reserves for a grove's stash in a beat. -/
def reservedLines (b : List Byte) (tier g beat : Nat) : Nat :=
  (((dmaEntries b tier).filter fun e => decide (2 ≤ e.kind) && e.grove == g && e.beat == beat).map DmaEntry.lines).sum

/-- The checks of a tier's streams. -/
def stashTierCheck (b : List Byte) (tier : Nat) : Option LoadFail :=
  let c := acPerBeat tier
  let groves := List.range (imgGroves b)
  let slots := 512 * manStashSlots b
  let pushes := pushesOf b tier groves
  let pops := popsOf b tier groves
  let beatsOf (x : Placed) : List Nat := (List.range ((x.t + stashN x.w - 1) / c + 1 - x.t / c)).map (x.t / c + ·)
  let overflow := manStashMode b == 0
  let dma (beat : Nat) : LoadFail := ⟨0x0015, secIndex b 0x12 tier, beat⟩
  need (!overflow || (pushes.flatMap beatsOf).all fun beat =>
    decide (64 * (pushes.map fun x => pushLinesIn c x beat).sum ≤ slots)) (manFail b 0x0015 0xD4) <|>
  need ((imgClusters b).all fun p => decide ((stashPlan b tier p.1 p.2).most ≤ 4096)) (manFail b 0x0015 0xB0) <|>
  (firstFail groves fun g =>
    let ps := pushesOf b tier [g]
    let qs := popsOf b tier [g]
    firstFail (stashBeats c ps qs) fun beat =>
      need (decide (stashTraffic c ps qs beat ≤ 64 * reservedLines b tier g beat)) (dma beat)) <|>
  need (!overflow || (stashBeats c pushes pops).all fun beat => decide (stashTraffic c pushes pops beat ≤ slots))
    (manFail b 0x0015 0xD4)

/-- STASH_BOUNDS. -/
def stashBoundsCheck (b : List Byte) : Option LoadFail :=
  let room := manStashCrown b + manStashHbm b
  let p := manStashPeak b
  let spilt := manStashOver b
  let f (off : Nat) : LoadFail := manFail b 0x0015 off
  need (decide (ceilDiv (p * 16) (manStashRatio b) ≤ room)) (f 0xB8) <|>
  (if manStashMode b = 0 then
    need (decide (p ≤ room) || decide (p - room + 1024 ≤ spilt)) (f 0xC8) <|>
    need (decide (78 * manStashSlots b ≤ 17408 * imgGroves b)) (f 0xD4)
  else need (spilt == 0) (f 0xC8) <|> need (manStashSlots b == 0) (f 0xD4)) <|>
  firstFail (imgTiers b) (stashTierCheck b)

/-- STASH_BALANCE. -/
def stashBalanceCheck (b : List Byte) : Option LoadFail :=
  firstFail (imgTiers b) fun tier => firstFail (imgClusters b) fun p =>
    let k := stashPlan b tier p.1 p.2
    match k.bad, (stashWords b tier p.1 p.2).getLast? with
    | some x, _ => some (wordFail 0x0016 b tier p.1 p.2 x)
    | none, some x => if k.recs.isEmpty then none else some (wordFail 0x0016 b tier p.1 p.2 x)
    | none, none => none

/-! ## Hardware and owned resources (R36, R48, R310) -/

/-- CLUSTER_UNBACKED (R96, Table 13-5). -/
def unbackedCheck (s : State) (pt : Nat) (b : List Byte) : Option LoadFail :=
  bySec 0x0017 b fun e =>
    let g := s.grove (ptFirst s pt + e.grove)
    if e.type ≠ 0x10 ∨ e.size = 0 then none
    else if g.unbacked.contains e.cluster then some 0
    else if g.gveFailed then
      (placedWords e.stream (secBytes b e)).findSome? fun x => if wOp x.w = 0x33 then some x.off else none
    else none

/-- A resource bit is held by another partition's accepted image. -/
def heldElsewhere (s : State) (pt bit : Nat) : Bool := (ptList s).any fun p => p != pt && imageOwns s p bit

/-- PIN_OWNED: BEAT_OUT and TRACE_CLK share their pins (Table 3-7). -/
def pinCheck (s : State) (pt : Nat) (b : List Byte) : Option LoadFail :=
  let want (i : Nat) : Bool := bitAt (manOwned b) i
  let shared := heldElsewhere s pt 1 || heldElsewhere s pt 2 || s.cmb.beatOut || s.cmb.trace
  let data := heldElsewhere s pt 3 || s.cmb.trace
  need (!(want 1 && want 2) && !((want 1 || want 2) && shared) && !(want 3 && data)) (manFail b 0x0020 0x120)

/-- TIMER_OWNED. -/
def timerCheck (s : State) (pt : Nat) (b : List Byte) : Option LoadFail :=
  need ((List.range 17).all fun i => !(bitAt (manOwned b) (4 + i) && heldElsewhere s pt (4 + i))) (manFail b 0x0021 0x120)

/-- Bytes of a graft record's regions (Table 11-10). -/
def graftSpan (g : GraftRec) : Nat := if g.dir = 1 then 2 * g.bufBytes else g.bufBytes

/-- BUFFER_OWNED (R310). -/
def bufferCheck (b : List Byte) : Option LoadFail :=
  let l := graftRecs b
  firstFail (List.range 8) (fun p =>
    need (decide (manGraftBytes b p ≤ 2 ^ 26) && (manGraftBytes b p == 0 || decide (2 ≤ manPortMode b p)))
      (manFail b 0x0022 (0xF8 + 4 * p))) <|>
  bySec 0x0022 b fun e =>
    if e.type ≠ 0x21 then none
    else l.zipIdx.findSome? fun p =>
      let g := p.1
      let meets (h : GraftRec) : Bool := h.port == g.port && overlap g.bufOff (graftSpan g) h.bufOff (graftSpan h)
      if decide (g.bufOff + graftSpan g ≤ manGraftBytes b g.port) && !(l.take p.2).any meets then none
      else some (80 + 32 * slotCount b + 16 * segCount b + 32 * p.2)

end Sys2Proof.Machine
end

