-- ==== Sys2Proof/Machine/LoadTime.lean ====
section
/-!
DEFINITION. The loader's timing checks (Table 3-7): DURATION, RESOURCE_OVERLAP with the limits of R145 and R232,
SLOT_WINDOW, SLOT_DELAY, SLOT_PORT, TIER_SET and TIER_EVENTS.
-/

namespace Sys2Proof.Machine

/-! ## Durations (R109, R111, Table 4-5) -/

/-- The tabled duration of a word of a relative grove in a tier. -/
def tabled (tier grove : Nat) (x : Placed) : Nat :=
  let w := x.w
  let n := wLines w
  let r := rowAc (wBits w 26 23)
  match wOp w with
  | 0x00 => wDur w
  | 0x01 => 1
  | 0x10 => 8 + ceilDiv (tileRowLens (wBits w 53 50)).sum 1024
  | 0x11 => 200
  | 0x12 => 200 + (passM w + 1) * r
  | 0x13 => 328 + (passM w + 1) * r
  | 0x20 => 16 + 4 * dS x.desc + ceilDiv (wBits w 63 44 + 1) 256
  | 0x21 => 32 + routeT w * (routeK w + 1)
  | 0x22 => 24 + moveE w * ceilDiv (64 * moveR w) 1024
  | 0x30 => 96 + n
  | 0x31 => 64 + n
  | 0x32 => sendLatency (100 * grove) (wBits w 45 36) + n
  | 0x33 => 40 + n
  | 0x34 => crossing tier + n
  | 0x35 => crossing tier + n
  | 0x38 => 72 + n
  | _ => 104 + n

/-- DURATION. -/
def durationCheck (b : List Byte) : Option LoadFail :=
  bySec 0x0030 b fun e =>
    if e.type ≠ 0x10 then none
    else (placedWords e.stream (secBytes b e)).findSome? fun x => if wDur x.w = tabled e.tier e.grove x then none else some x.off

/-! ## Occupancy (R99, R105, R111, R144, R522) -/

/-- A unit of a cluster (Table 4-1), without FR. -/
inductive CUnit where
  | ai | wb | tb | xa | xv | ve | dp | fs | lp
  | sg (n : Nat)
deriving DecidableEq, Repr

/-- The bank groups that hold n bytes from an address (R100). -/
def groupsOf (a n : Nat) : List CUnit :=
  if n = 0 then [] else (List.range ((a + n - 1) / 262144 + 1 - a / 262144)).map fun i => .sg (a / 262144 + i)

/-- A unit held in [lo, hi) of a word's ac. -/
def heldIn (u : CUnit) (lo hi i : Nat) : List CUnit := if lo ≤ i ∧ i < hi then [u] else []

/-- The groups of line i − lo of n lines from an address. -/
def lineHeld (a n lo i : Nat) : List CUnit := if lo ≤ i ∧ i < lo + n then groupsOf (a + 64 * (i - lo)) 64 else []

/-- The groups of the bytes 1,024 i to 1,024 i + 1,023 of a stored tile (R522). -/
def tileHeld (src pitch : Nat) (rows : List Nat) (i : Nat) : List CUnit :=
  rows.zipIdx.flatMap fun p =>
    let first := (rows.take p.2).sum
    let lo := max first (1024 * i)
    let hi := min (first + p.1) (1024 * (i + 1))
    groupsOf (src + pitch * p.2 + (lo - first)) (hi - lo)

/-- Byte addresses of element i of a vector stream (R117, R139, Table 12-1, R320). -/
def elemBytes (fmt row base i : Nat) : List Nat :=
  let span (a n : Nat) : List Nat := (List.range n).map (a + ·)
  if fmt = 0xA then span (base + 4 * i) 4
  else if fmt = 0xB then span (base + 4 * i) 4 ++ span (base + 262144 + 4 * i) 4
  else if fmt = 0xC then span (base + 72 * (i / 32)) 72
  else if fmt = 0xD then span (base + 16 * (i / 32)) 16
  else
    let w := (elemFmt fmt).width
    let r := max row 1
    let start := if isMx fmt then base + i / r * rowBytes fmt r else base
    let j := if isMx fmt then i % r else i
    span (start + w * j / 8) ((w * j + w - 1) / 8 + 1 - w * j / 8) ++
      (if isMx fmt then [start + r * w / 8 + j / 32] else [])

/-- Byte addresses of the elements with some indices, each byte once. -/
def vecBytes (fmt row base : Nat) (is : List Nat) : List Nat := (is.flatMap (elemBytes fmt row base)).eraseDups

/-- The elements of group g of a chain of E elements. -/
def groupElems (e g : Nat) : List Nat := ((List.range 256).map (256 * g + ·)).filter fun i => decide (i < e)

/-- Scratchpad bytes that group g of a chain reads in its ac (R144). -/
def chainReads (d : List Byte) (e g : Nat) : List Nat :=
  let is := groupElems e g
  let row := dRow d
  (if dSrcKind d = 0 then vecBytes (dSrcFmt d) row (32 * dSrcAddr d) is else []) ++
    (if dFuse d = 0 then [] else vecBytes (dFuseFmt d) row (32 * dFuseAddr d) is) ++
    (dStages d).flatMap fun s =>
      match s.kind with
      | 2 => vecBytes s.fmt row (32 * s.addr) (is.map (· % row))
      | 3 => vecBytes s.fmt (e / row) (32 * s.addr) (is.map (· / row))
      | 4 => vecBytes s.fmt row (32 * s.addr) is
      | _ => []

/-- Scratchpad bytes that group g of a chain writes in its output ac (R141, R144, R321, R322). -/
def chainWrites (thin : Nat → Bool) (d : List Byte) (e g : Nat) : List Nat :=
  let is := groupElems e g
  let row := dRow d
  (if dDstKind d = 0 then vecBytes (dDstFmt d) row (32 * dDstAddr d) is else []) ++
    (if writesFuse thin d then vecBytes 0xA row (32 * dFuseAddr d) is else []) ++
    ((dStages d).filter fun s => isReduction s.op).flatMap fun s =>
      vecBytes 0xA row (32 * s.addr) ((is.filter fun i => i % row + 1 == row).map (· / row))

/-- Scratchpad bytes of a chain in one ac, reads and writes (R145). -/
def chainBytes (thin : Nat → Bool) (x : Placed) (i : Nat) : List Nat :=
  let e := wBits x.w 63 44 + 1
  let out := 16 + 4 * dS x.desc
  (if i < chainGroups x.w then chainReads x.desc e i else []) ++
    (if out ≤ i ∧ i < out + chainGroups x.w then chainWrites thin x.desc e (i - out) else [])

/-- Regions of a router descriptor: first byte and length (R188, R197). -/
def routeRegions (thin : Nat → Bool) (x : Placed) : List (Nat × Nat) :=
  let d := x.desc
  (List.range (routeT x.w)).map (fun t => (32 * (getLE d 4 4 + t * getLE d 8 2), 4 * routeX x.w)) ++ x.writes thin

/-- Rows of a move's source and list, and of its destination; a region whose rows the tokens pick counts E rows. -/
def moveRegions (x : Placed) (dst : Bool) : List (Nat × Nat) :=
  let d := x.desc
  let rows (addr pitch : Nat) : List (Nat × Nat) :=
    (List.range (moveE x.w)).map fun i => (32 * (getLE d addr 4 + i * getLE d pitch 4), 64 * moveR x.w)
  if getLE d 1 1 = 3 then (if dst then [] else [(32 * getLE d 8 4, 64)])
  else if dst then rows 16 20
  else (32 * getLE d 4 4, 8 * moveE x.w) :: rows 8 12

def regionsHeld (l : List (Nat × Nat)) : List CUnit := l.flatMap fun r => groupsOf r.1 r.2

/-- The units that a word holds in its ac i (Table 4-5); FR is counted apart. -/
def unitsAt (thin : Nat → Bool) (tier grove : Nat) (passes : List (Nat × Nat × Nat)) (x : Placed) (i : Nat) : List CUnit :=
  let w := x.w
  let n := wLines w
  let m := passM w
  let fa := wBits w 26 23
  let r := rowAc fa
  let d := tabled tier grove x
  let src := 32 * wBits w 79 63
  let pitch := 32 * wBits w 62 54
  let spa := wSrc w
  match wOp w with
  | 0x10 => heldIn .wb 0 d i ++ (if i < d - 8 then tileHeld src pitch (tileRowLens (wBits w 53 50)) i else [])
  | 0x11 =>
    heldIn .tb 0 192 i ++ heldIn .wb 64 200 i ++
      (if i < 64 then groupsOf (src + pitch * i) (16 * (elemFmt (wBits w 53 50)).width) else [])
  | 0x12 =>
    heldIn .ai 0 ((m + 1) * r) i ++ heldIn .xa 200 (200 + m * r) i ++ (if wSwap w then heldIn .wb 0 64 i else []) ++
      (if i < m * r ∧ i % r = 0 then groupsOf (src + pitch * (i / r)) (rowBytes fa (passK fa (fgOf passes x))) else [])
  | 0x13 =>
    let eb := (elemFmt fa).width / 8
    let k := i / (128 * r)
    heldIn .tb 0 (128 + (m + 1) * r) i ++ heldIn .ai 128 (128 + (m + 1) * r) i ++ heldIn .xa 328 (328 + m * r) i ++
      (if wSwap w then heldIn .wb 128 192 i else []) ++
      (if k < ceilDiv m 128 ∧ i - 128 * k * r < 128 then
        groupsOf (src + k * 128 * eb + pitch * (i - 128 * k * r)) (128 * eb) else [])
  | 0x20 =>
    let g := chainGroups w
    let out := 16 + 4 * dS x.desc
    heldIn .ve 0 g i ++ (if dSrcKind x.desc = 1 then heldIn .xv 0 g i else []) ++
      (if dDstKind x.desc = 1 then heldIn .xv out d i else []) ++
      ((chainBytes thin x i).map (· / 262144)).eraseDups.map CUnit.sg
  | 0x21 => if i < d then .ve :: regionsHeld (routeRegions thin x) else []
  | 0x22 =>
    (if i < d - 24 then .ve :: regionsHeld (moveRegions x false) else []) ++
      (if 24 ≤ i ∧ i < d then regionsHeld (moveRegions x true) else [])
  | 0x30 => heldIn .dp 0 n i ++ lineHeld spa n 96 i
  | 0x31 => heldIn .dp 0 n i ++ lineHeld spa n 0 i
  | 0x32 => heldIn .fs 0 n i ++ lineHeld spa n 0 i
  | 0x33 => heldIn .fs 0 n i ++ lineHeld spa n 0 i
  | 0x34 => heldIn .lp 0 n i ++ lineHeld spa n 0 i
  | 0x35 => heldIn .lp 0 n i ++ lineHeld spa n (crossing tier) i
  | 0x38 => heldIn .dp 0 n i ++ lineHeld spa n 0 i
  | 0x39 => heldIn .dp 0 n i ++ lineHeld spa n 104 i
  | _ => []

/-- Two words hold one unit of their cluster in one ac (R105). -/
def wordsMeet (thin : Nat → Bool) (tier grove : Nat) (passes : List (Nat × Nat × Nat)) (x y : Placed) : Bool :=
  let lo := max x.t y.t
  let hi := min (x.t + tabled tier grove x) (y.t + tabled tier grove y)
  (List.range (hi - lo)).any fun k =>
    (unitsAt thin tier grove passes x (lo + k - x.t)).any (unitsAt thin tier grove passes y (lo + k - y.t)).contains

/-- The FR window of a SEND: target cluster, first ac and length (R105, Table 4-5). -/
structure FrWindow where
  target : Nat
  t : Nat
  n : Nat
deriving DecidableEq, Repr

def frWindow (tier grove : Nat) (x : Placed) : Option FrWindow :=
  if wOp x.w = 0x32 then some ⟨wBits x.w 45 36, x.t + tabled tier grove x - wLines x.w, wLines x.w⟩ else none

def FrWindow.meets (a b : FrWindow) : Bool := a.target == b.target && overlap a.t a.n b.t b.n

/-- The FR windows of an image's stream sections, each with its section's index and tier. -/
def frWindows (b : List Byte) : List (Nat × Nat × FrWindow) :=
  (secEnts b).zipIdx.flatMap fun p =>
    if p.1.type = 0x10 then
      ((placedWords p.1.stream (secBytes b p.1)).filterMap (frWindow p.1.tier p.1.grove)).map fun f => (p.2, p.1.tier, f)
    else []

/-- The FR windows of a tier's sections that stand before section i. -/
def frBefore (l : List (Nat × Nat × FrWindow)) (tier i : Nat) : List FrWindow :=
  (l.filter fun x => decide (x.1 < i) && x.2.1 == tier).map (·.2.2)

/-- A chain keeps within 1,024 bytes of a bank group in each ac (R145). -/
def chainWithin (thin : Nat → Bool) (x : Placed) : Bool :=
  wOp x.w != 0x20 || (List.range (16 + 4 * dS x.desc + chainGroups x.w)).all fun i =>
    let l := chainBytes thin x i
    (List.range 12).all fun g => decide ((l.filter fun a => a / 262144 == g).length ≤ 1024)

/-- The overlaps of a stream section's words with the words before them: of the cluster by stream and index, and of
other clusters by section. Windows of one and the same word are not compared with each other: R105 speaks of windows of two words
(DESIGN CHOICE, log entry 27). -/
def overlapSec (thin : Nat → Bool) (b : List Byte) (windows : List (Nat × Nat × FrWindow)) (i : Nat) (e : SecEnt) : Option Nat :=
  let cl := clusterWords b e.tier e.grove e.cluster
  let passes := passFormats cl
  let mine := placedWords e.stream (secBytes b e)
  let others := frBefore windows e.tier i
  mine.findSome? fun x =>
    let earlier := cl.filter fun y => decide (y.st < x.st) || (y.st == x.st && decide (y.idx < x.idx))
    let fr := match frWindow e.tier e.grove x with
      | some f => (others ++ (mine.take x.idx).filterMap (frWindow e.tier e.grove)).any f.meets
      | none => false
    if earlier.any (wordsMeet thin e.tier e.grove passes x) || fr || !chainWithin thin x then some x.off else none

/-! ## Crown's port limit (R232, R308) -/

/-- Lines of graft-buffer traffic that the loader plans in a beat: 99 GB/s to Pucor, 198 GB/s to Yelger, per direction
that a record uses (R308). -/
def graftLines (b : List Byte) (g : Nat) : Nat :=
  (((List.range 8).filter fun p => decide (2 ≤ manPortMode b p) && manGraftGrove b p == g).map fun p =>
    let dirs := (List.range 2).filter fun d => (graftRecs b).any fun r => r.port == p && r.dir == d
    dirs.length * ceilDiv (if manPortMode b p = 3 then 198000 else 99000) 64).sum

/-- The beat in which a copy writes (R234). -/
def writeBeat (e : DmaEntry) : Nat := e.beat + (match spaceOf e.src with
  | .outer _ => 2
  | _ => 1)

def inCrown (g a : Nat) : Bool :=
  match spaceOf a with
  | .crown k _ => k == g
  | _ => false

/-- Background lines of a grove's Crown in a beat (R232); a fill lands in the beat after it issues (DEDUCED, log entry 27). -/
def backgroundLines (b : List Byte) (tier g beat : Nat) : Nat :=
  let dma := (dmaEntries b tier).map fun e =>
    if e.kind = 1 then
      (if inCrown g e.src && e.beat == beat then e.lines else 0) + (if inCrown g e.dst && writeBeat e == beat then e.lines else 0)
    else if e.grove = g ∧ e.beat = beat then e.lines else 0
  let win := (crownEntries b tier g).map fun e =>
    if e.kind = 1 then
      (if e.fill && e.fillBeat + 1 == beat then e.lines else 0) + (if e.writeBack && e.closeBeat == beat then e.lines else 0)
    else 0
  dma.sum + win.sum + graftLines b g

/-- The beats in which a grove's background traffic changes. -/
def backgroundBeats (b : List Byte) (tier g : Nat) : List Nat :=
  0 :: ((dmaEntries b tier).flatMap fun e => [e.beat, writeBeat e]) ++
    (crownEntries b tier g).flatMap fun e => [e.fillBeat + 1, e.closeBeat]

/-- DP windows of a grove's clusters: first ac and length. -/
def dpWindows (b : List Byte) (tier g : Nat) : List (Nat × Nat) :=
  (List.range 100).flatMap fun c =>
    ((clusterWords b tier g c).filter fun x => [0x30, 0x31, 0x38, 0x39].contains (wOp x.w)).map fun x => (x.t, wLines x.w)

/-- The ac at which a DP window opens or a beat starts inside one: where the limit can first be broken. -/
def dpPoints (c : Nat) (l : List (Nat × Nat)) : List Nat :=
  l.flatMap fun p => p.1 :: ((List.range ((p.1 + p.2 - 1) / c - p.1 / c)).map fun i => (p.1 / c + 1 + i) * c)

def crownLimitCheck (b : List Byte) (tier g : Nat) : Option LoadFail :=
  let c := acPerBeat tier
  let i := secIndex b 0x11 tier
  let dp := dpWindows b tier g
  let sec := ((secEnts b).findIdx? fun e => e.type == 0x11 && e.tier == tier && e.grove == g).getD i
  firstFail (backgroundBeats b tier g) (fun beat =>
    need (decide (backgroundLines b tier g beat ≤ 73 * c)) ⟨0x0031, sec, beat⟩) <|>
  firstFail (dpPoints c dp) fun t =>
    let busy := (dp.filter fun p => decide (p.1 ≤ t) && decide (t < p.1 + p.2)).length
    need (decide (busy + ceilDiv (backgroundLines b tier g (t / c)) c ≤ 73)) ⟨0x0031, sec, t / c⟩

/-- RESOURCE_OVERLAP. -/
def overlapCheck (thin : Nat → Bool) (b : List Byte) : Option LoadFail :=
  let windows := frWindows b
  (firstFail (secEnts b).zipIdx fun p =>
    if p.1.type ≠ 0x10 then none
    else (overlapSec thin b windows p.2 p.1).map fun off => ⟨0x0031, p.2, p.1.off + off⟩) <|>
  firstFail (imgTiers b) fun tier => firstFail (List.range (imgGroves b)) fun g => crownLimitCheck b tier g

/-! ## The slot table (R298, R299, R313, Table 3-6a) -/

/-- A failure at an offset of the slot table. -/
def slotFail (b : List Byte) (code : Half) (off : Nat) : LoadFail :=
  let i := secIndex b 0x21 0xFF
  ⟨code, i, (secEnt b i).off + off⟩

/-- The window has FRAMES frame times, at least one, and ends before the control slot (R298). -/
def windowOk (r : SlotRec) : Bool :=
  decide (0 < r.frames) && (slotFrames r).length == r.frames && decide ((r.start + r.length) * 56 ≤ frameStart 1545)

/-- Two records of one port and direction share a frame time of an occurrence. -/
def slotsMeet (r q : SlotRec) : Bool :=
  r.port == q.port && r.dir == q.dir && ((slotFrames r).any fun f => (slotFrames q).contains f) &&
    (List.range r.count).any fun k =>
      let t := r.beatOf k
      decide (q.beat ≤ t) && (t - q.beat) % q.period == 0 && decide ((t - q.beat) / q.period < q.count)

/-- The event type that stands for a record's occurrences (Table 3-6a). -/
def slotEventType (r : SlotRec) : Nat := if r.dir = 1 then 2 else if r.type = 2 then 4 else 1

/-- The external event list holds exactly the occurrences of record i. -/
def eventsAgree (b : List Byte) (i : Nat) (r : SlotRec) : Bool :=
  let l := (extEvents b).filter fun e => (e.type == 1 || e.type == 2 || e.type == 4) && e.object == i
  l.length == r.count && l.zipIdx.all fun p => p.1.type == slotEventType r && p.1.beat == r.beatOf p.2

def slotTableCheck (b : List Byte) : Option LoadFail :=
  let l := slotRecs b
  (firstFail l.zipIdx fun p =>
    need (windowOk p.1 && eventsAgree b p.2 p.1 && !(l.take p.2).any (slotsMeet p.1)) (slotFail b 0x0040 (80 + 32 * p.2))) <|>
  firstFail (segRecs b).zipIdx fun p =>
    let room := if p.1.graft then (graftRec b p.1.slot).bufBytes else (slotRec b p.1.slot).payload
    need (decide (p.1.offset + 64 * p.1.lines ≤ room)) (slotFail b 0x0040 (80 + 32 * slotCount b + 16 * p.2))

/-- What a link word binds (R299): its segment and occurrence, 0 for a graft region. -/
structure Binding where
  tx : Bool
  seg : Nat
  occ : Nat
deriving DecidableEq, Repr

/-- The binding of an LKTX or LKRX word of a relative cluster in a tier; none where it binds no occurrence. -/
def bindWord (b : List Byte) (tier cl : Nat) (x : Placed) : Option Binding :=
  let i := wBits x.w 62 47
  let g := segRec b i
  let tx := wOp x.w == 0x34
  let c := acPerBeat tier
  let done := (x.t + wDur x.w) * 64000
  if segCount b ≤ i ∨ g.cluster ≠ cl ∨ g.lines ≠ wLines x.w then none
  else if g.graft then
    let r := graftRec b g.slot
    if tx then (if r.dir = 0 then some ⟨tx, i, 0⟩ else none)
    else if r.dir = 1 ∧ (r.deadline + r.tol + 1) * c ≤ x.t then some ⟨tx, i, 0⟩
    else none
  else
    let r := slotRec b g.slot
    let occ := if tx then
        if r.dir = 0 then (if r.type = 2 then none else r.firstFrom c (done + 16384 * c))
        else if r.type = 1 then r.firstFrom c done
        else none
      else if r.dir = 1 then r.lastBy (manLmax b r.port) c (x.t * 64000)
      else none
    occ.map fun k => ⟨tx, i, k⟩

def isLink (x : Placed) : Bool := wOp x.w == 0x34 || wOp x.w == 0x35

/-- Two bindings of one direction take overlapping segments of one occurrence (R299). -/
def bindsMeet (b : List Byte) (p q : Binding) : Bool :=
  let g := segRec b p.seg
  let h := segRec b q.seg
  p.tx == q.tx && p.occ == q.occ && !g.graft && !h.graft && g.slot == h.slot &&
    overlap g.offset (64 * g.lines) h.offset (64 * h.lines)

/-- The bindings of a section's link words. -/
def secBinds (b : List Byte) (e : SecEnt) : List Binding :=
  ((placedWords e.stream (secBytes b e)).filter isLink).filterMap (bindWord b e.tier (100 * e.grove + e.cluster))

/-- The bindings of an image's stream sections, each with its section's index and tier. -/
def imgBinds (b : List Byte) : List (Nat × Nat × Binding) :=
  (secEnts b).zipIdx.flatMap fun p =>
    if p.1.type = 0x10 then (secBinds b p.1).map fun k => (p.2, p.1.tier, k) else []

/-- The bindings of a tier's sections before section i. -/
def bindsBefore (l : List (Nat × Nat × Binding)) (tier i : Nat) : List Binding :=
  (l.filter fun x => decide (x.1 < i) && x.2.1 == tier).map (·.2.2)

/-- SLOT_WINDOW. -/
def slotWindowCheck (b : List Byte) : Option LoadFail :=
  let binds := imgBinds b
  slotTableCheck b <|>
  firstFail (secEnts b).zipIdx fun p =>
    let e := p.1
    if e.type ≠ 0x10 then none
    else
      let l := (placedWords e.stream (secBytes b e)).filter isLink
      let before := bindsBefore binds e.tier p.2
      let bind (x : Placed) : Option Binding := bindWord b e.tier (100 * e.grove + e.cluster) x
      firstFail l.zipIdx fun q =>
        let ok := match bind q.1 with
          | some k => !(before ++ (l.take q.2).filterMap bind).any (bindsMeet b k)
          | none => false
        need ok ⟨0x0040, p.2, e.off + q.1.off⟩

/-- A port that the image uses. -/
def usesPort (b : List Byte) (p : Nat) : Bool := manPortMode b p != 0 || (slotRecs b).any fun r => r.port == p

/-- SLOT_DELAY (R60). -/
def slotDelayCheck (s : State) (pt : Nat) (b : List Byte) : Option LoadFail :=
  firstFail (List.range (ptPorts s pt).length) fun p =>
    let d : Word := mget 0 s.cmb.portDelay (absPort s pt p)
    need (!usesPort b p || decide (d.toNat ≤ manLmax b p)) (manFail b 0x0041 (0xE0 + 2 * p))

/-- SLOT_PORT (R309). -/
def slotPortCheck (s : State) (pt : Nat) (b : List Byte) : Option LoadFail :=
  (firstFail (slotRecs b).zipIdx fun p => need (manPortMode b p.1.port == 1) (slotFail b 0x0042 (80 + 32 * p.2))) <|>
  firstFail (List.range (ptPorts s pt).length) fun p =>
    need (manPortMode b p == 0 || manPortMode b p == (s.port (absPort s pt p)).mode + 1) (manFail b 0x0042 (0xF0 + p))

/-! ## Tiers (R95) -/

/-- TIER_SET. -/
def tierSetCheck (b : List Byte) : Option LoadFail := need (imgTierMask b != 0) (headFail 0x0043 9)

/-- The bindings of a cluster's three streams in a tier. -/
def clusterBinds (b : List Byte) (tier grove cl : Nat) : List Binding :=
  ((clusterWords b tier grove cl).filter isLink).filterMap (bindWord b tier (100 * grove + cl))

/-- The bindings of one stream. -/
def streamBinds (b : List Byte) (tier : Nat) (e : SecEnt) : List Binding :=
  ((placedWords e.stream (secFind b 0x10 tier e.grove e.cluster e.stream)).filter isLink).filterMap
    (bindWord b tier (100 * e.grove + e.cluster))

/-- The offset of the first word of a section whose binding the reference stream lacks; the section's start where it
lacks none. -/
def differsAt (b : List Byte) (reference : List Binding) (e : SecEnt) : Nat :=
  (((placedWords e.stream (secBytes b e)).filter isLink).findSome? fun x =>
    match bindWord b e.tier (100 * e.grove + e.cluster) x with
    | some k => if reference.contains k then none else some x.off
    | none => some x.off).getD 0

/-- TIER_EVENTS: every variant binds as that of the lowest present tier (R95). -/
def tierEventsCheck (b : List Byte) : Option LoadFail :=
  match imgTiers b with
  | [] => none
  | low :: rest =>
    firstFail rest fun tier => firstFail (secEnts b).zipIdx fun p =>
      let e := p.1
      if e.type ≠ 0x10 ∨ e.tier ≠ tier then none
      else
        let same := (clusterBinds b tier e.grove e.cluster).isPerm (clusterBinds b low e.grove e.cluster) ||
          (streamBinds b tier e).isPerm (streamBinds b low e)
        need same ⟨0x0044, p.2, e.off + differsAt b (streamBinds b low e) e⟩

end Sys2Proof.Machine
end

