-- ==== Sys2Proof/Machine/LoadPith.lean ====
section
/-!
DEFINITION. The loader's checks PITH_PROGRAM and COMMIT_ORDER (Table 3-7, R255 to R260, R272, R279): a Pith program by
itself, with the others of its image, its units' charges, and the order of the commit.
-/

namespace Sys2Proof.Machine

/-! ## Headers and descriptors (Tables 10-2, 10-3) -/

/-- VERIFY_END, NORM_BEAT, HORIZON, JOB_DEVICES and CLIP of a program, each with its offset (R257). -/
def progShared (prog : List Byte) : List (Nat × Nat) :=
  [(8, getLE prog 8 4), (12, getLE prog 12 4), (16, getLE prog 16 2), (18, getLE prog 18 2), (20, getLE prog 20 4)]

/-- The header's ranges, and its values against those of the image's first program. -/
def progHead (prog first : List Byte) : Option Nat :=
  badAt [(decide (2 ≤ getLE prog 16 2) && decide (getLE prog 16 2 ≤ 255), 16), (decide (1 ≤ getLE prog 18 2), 18)] <|>
  badAt ((progShared prog).map fun p => ((progShared first).contains p, p.1))

/-- Offset of descriptor i and of phase i of a program. -/
def descOff (i : Nat) : Nat := 64 + 128 * i
def phaseOff (prog : List Byte) (i : Nat) : Nat := 64 + 128 * getLE prog 0 4 + 32 * i

/-- The ranges of Table 10-3 and the limits of rules 3 and 4. -/
def descRanges (d : TensorDesc) (jobDevices : Nat) : Bool :=
  let within (lo hi v : Nat) : Bool := decide (lo ≤ v) && decide (v ≤ hi)
  let four := d.rule == 4
  let rule := match d.rule with
    | 3 => within 1 15 d.iters && decide (Desc.small d ≤ 8192)
    | 4 => within 1 64 d.iters && (d.pRoot == 2 || d.pRoot == 4) && within 1 64 d.rslice && within 1 1024 d.k &&
        decide (d.rows ≤ 8192) && decide (d.cols ≤ 8192) && decide (d.iters ≤ d.k * d.rslice)
    | _ => d.iters == 0
  within 1 4 d.rule && rule && (four || (d.pRoot == 0 && d.rslice == 0 && d.k == 0)) && decide (d.flags.toNat < 16) &&
    (decide (d.copyFmt ≤ 8) || (d.copyFmt == 0xFF && d.copyAddr == 0)) && within 1 64 d.thinN &&
    decide (d.thinPhase < d.thinN) && within 1 (2 ^ 24) d.rows && within 1 (2 ^ 24) d.cols &&
    (!isMx d.copyFmt || d.copyFmt == 0xFF || d.cols % 32 == 0) && decide (d.row0 + d.rows ≤ d.logRows) &&
    decide (d.col0 + d.cols ≤ d.logCols) && within 1 (Desc.blocks d) d.chunks &&
    (!Desc.flag d 2 || decide (jobDevices ≤ 64))

/-- The stack ranges of a descriptor: master, state, gradient with its chunk headers, working copy. -/
def descAreas (d : TensorDesc) : List (Nat × Nat) :=
  [(d.masterAddr, 4 * Desc.elems d), (d.stateAddr, Desc.stateSize d),
    (d.gradAddr, Desc.chunkAddr d d.chunks - d.gradAddr), (d.copyAddr, Desc.copySize d)]

/-- Two descriptors own an element of one logical tensor (R255). -/
def logicalMeet (d e : TensorDesc) : Bool :=
  d.tensor == e.tensor && overlap d.row0 d.rows e.row0 e.rows && overlap d.col0 d.cols e.col0 e.cols

/-- Two descriptors of one stack share a byte (R255). -/
def areasMeet (d e : TensorDesc) : Bool :=
  (descAreas d).any fun a => (descAreas e).any fun b =>
    decide (0 < a.2) && decide (0 < b.2) && overlap a.1 a.2 b.1 b.2

/-- Every area lies in the stack, below the image region (R17, R88). -/
def descFits (d : TensorDesc) : Bool := (descAreas d).all fun a => decide (a.1 + a.2 ≤ openBytes)

/-- The descriptors of the sections before section i. -/
def descsBefore (b : List Byte) (i : Nat) : List TensorDesc :=
  ((secEnts b).take i).flatMap fun e => if e.type = 0x20 then descs (secBytes b e) else []

/-- The descriptors of a program, against themselves, each other and the earlier programs. -/
def progDescs (b prog : List Byte) (i : Nat) : Option Nat :=
  let l := descs prog
  let others := descsBefore b i
  l.zipIdx.findSome? fun p =>
    let mine := l.take p.2
    if descRanges p.1 (getLE prog 18 2) && descFits p.1 && !(others ++ mine).any (logicalMeet p.1) &&
      !mine.any (areasMeet p.1) then none
    else some (descOff p.2)

/-! ## Phases (Table 10-4, R258, R260) -/

/-- An element phase; PREP and REFRESH are matrix phases. -/
def isElement (op : Nat) : Bool := op == 1 || op == 4 || op == 5

/-- The descriptors that a phase names. -/
def PhaseRec.descs (r : PhaseRec) (l : List TensorDesc) : List TensorDesc := (l.drop r.first).take r.count

/-- Elements per beat of a phase. -/
def PhaseRec.rate (r : PhaseRec) : Nat := r.pace * r.unitCount

/-- Elements of a phase before descriptor i's. -/
def PhaseRec.before (r : PhaseRec) (l : List TensorDesc) (i : Nat) : Nat :=
  (((l.drop r.first).take (i - r.first)).map (phaseElems r.op)).sum

/-- The phase names descriptor i. -/
def PhaseRec.names (r : PhaseRec) (i : Nat) : Bool := decide (r.first ≤ i) && decide (i < r.first + r.count)

/-- The beat in which a phase writes element k of descriptor i. -/
def PhaseRec.writes (r : PhaseRec) (l : List TensorDesc) (i k : Nat) : Nat := r.beatOf (r.before l i + k)

/-- The elements of descriptor i that a phase writes first in a beat. -/
def PhaseRec.firsts (r : PhaseRec) (l : List TensorDesc) (i n : Nat) : List Nat :=
  let a := r.before l i
  let q := max r.rate 1
  0 :: (List.range ((a + n) / q - a / q)).filterMap fun k =>
    let x := (a / q + 1 + k) * q - a
    if x < n then some x else none

/-- A COPY phase converts each master word in the beat in which the APPLY phase writes it (R260, R276); COPY_FMT FFh converts
none. -/
def copyFollows (l : List TensorDesc) (c a : PhaseRec) (i : Nat) : Bool :=
  a.op == 4 && a.names i &&
    match l[i]? with
    | none => false
    | some d =>
      let n := Desc.elems d
      (c.firsts l i n ++ a.firsts l i n).all fun k => c.writes l i k == a.writes l i k

/-- A phase's PACE (Table 10-4). -/
def paceOk (r : PhaseRec) : Bool :=
  match r.op with
  | 2 => r.pace == 2048
  | 3 => decide (1 ≤ r.pace) && decide (r.pace ≤ 15)
  | 6 => decide (1 ≤ r.pace) && decide (r.pace ≤ 15)
  | _ => decide (0 < r.pace) && r.pace % 2048 == 0

/-- Where a phase may stand, and which tensors it may name (R260). -/
def phasePlace (b prog : List Byte) (l : List TensorDesc) (all : List PhaseRec) (r : PhaseRec) : Bool :=
  let ds := r.descs l
  match r.op with
  | 1 => decide (r.stop ≤ getLE prog 8 4)
  | 2 => decide (getLE prog 12 4 ≤ r.start) && r.start == r.stop
  | 3 => ds.all fun d => d.rule == 3 || d.rule == 4
  | 6 => ds.all fun d => d.rule == 4
  | op =>
    decide (manCommitBeat b ≤ r.start) && decide (r.stop + 2 ≤ imgStepBeats b) &&
      (op == 4 || ds.zipIdx.all fun p => p.1.copyFmt == 0xFF || all.any fun a => copyFollows l r a (r.first + p.2))

/-- Lane cycles of n elements of a phase on a tensor: per element, and for VERIFY one more for each word of the replica slice, a
K-th of the descriptor's words over its elements (R259, R340). -/
def laneCost (s : State) (pt op n : Nat) (d : TensorDesc) : Nat :=
  let x := (s.redPt pt).rep
  match op with
  | 1 => 4 * n + (if x.gm1 = 0 then 0 else ceilDiv (n * Desc.replicaCount d) ((x.km1 + 1) * max (Desc.elems d) 1))
  | 4 => n * ((if d.rule = 2 then 28 else 12) + (if Desc.flag d 0 then 4 else 0))
  | _ => 4 * n

/-- Lane cycles of a phase per beat and unit. -/
def phaseLane (s : State) (pt : Nat) (l : List TensorDesc) (r : PhaseRec) : Nat :=
  if r.op = 2 then 2048
  else if isElement r.op then ((r.descs l).map (laneCost s pt r.op r.pace)).foldl max 0
  else r.pace * 4096

/-- Matrix cycles of a phase per beat and unit. -/
def phaseMatrix (r : PhaseRec) : Nat := if r.op = 3 ∨ r.op = 6 then r.pace * 64 else 0

/-- The charges of the unit at a phase's start stay within a Pith beat (R259). -/
def lanesOk (s : State) (pt : Nat) (l : List TensorDesc) (all : List PhaseRec) (r : PhaseRec) : Bool :=
  (List.range 2).all fun u =>
    let on := all.filter fun q => bitAt q.units u && decide (q.start ≤ r.start) && decide (r.start ≤ q.stop)
    decide ((on.map (phaseLane s pt l)).sum ≤ 512000) && decide ((on.map phaseMatrix).sum ≤ 1000)

/-- No named unit of stack h is marked failed (Table 13-5). -/
def unitsWork (s : State) (h : Nat) (r : PhaseRec) : Bool :=
  (List.range 2).all fun u => !(bitAt r.units u && s.flt.pithFailed.contains (2 * h + u))

/-- The phases of a program on relative stack j. -/
def progPhases (s : State) (pt : Nat) (b prog : List Byte) (j : Nat) : Option Nat :=
  let l := descs prog
  let all := phaseRecs prog
  let h := (ptStacks s pt).getD j 0
  all.zipIdx.findSome? fun p =>
    let r := p.1
    let sorted := match all[p.2 + 1]? with
      | some q => decide (r.start ≤ q.start)
      | none => true
    if decide (1 ≤ r.op) && decide (r.op ≤ 6) && decide (1 ≤ r.units) && decide (r.units ≤ 3) &&
      decide (r.first + r.count ≤ l.length) && decide (r.start ≤ r.stop) && sorted && paceOk r &&
      phasePlace b prog l all r && lanesOk s pt l all r && unitsWork s h r then none
    else some (phaseOff prog p.2)

/-! ## Parameter broadcasts (R260, Table 3-6a) -/

/-- The last element of a working copy that has a byte in a line (R117). -/
def lineElem (d : TensorDesc) (line : Nat) : Nat := Desc.lastElem d (64 * line) (min 64 (Desc.copySize d - 64 * line))

/-- Lines that an occurrence of a slot record carries. -/
def broadcastLines (r : SlotRec) : Nat := r.payload / 64

/-- A broadcast event reads each line two beats or more after the beat in which COPY writes it, where a COPY phase names the
tensor and writes a copy. -/
def broadcastOk (b : List Byte) (e : ExtEvent) : Bool :=
  let prog := secPith b (e.param % 256)
  let l := descs prog
  let i := field e.param 16 16
  match l[i]? with
  | none => false
  | some d => ((phaseRecs prog).filter fun r => r.op == 5 && r.names i && d.copyFmt != 0xFF).all fun c =>
    let first := e.param / 2 ^ 32
    let n := min (broadcastLines (slotRec b e.object)) (ceilDiv (Desc.copySize d) 64 - first)
    (List.range n).all fun k => decide (c.writes l i (lineElem d (first + k)) + 2 ≤ e.beat)

def broadcastCheck (b : List Byte) : Option LoadFail :=
  let i := secIndex b 3 0xFF
  firstFail (extEvents b).zipIdx fun p =>
    need (p.1.type != 4 || broadcastOk b p.1) ⟨0x0060, i, (secEnt b i).off + 16 * p.2⟩

/-- PITH_PROGRAM. -/
def pithCheck (s : State) (pt : Nat) (b : List Byte) : Option LoadFail :=
  let first := match pithPrograms b with
    | [] => []
    | p :: _ => p.2
  (firstFail (secEnts b).zipIdx fun p =>
    if p.1.type ≠ 0x20 then none
    else
      let prog := secBytes b p.1
      ((progHead prog first) <|> (progDescs b prog p.2) <|> (progPhases s pt b prog p.1.grove)).map fun off =>
        ⟨0x0060, p.2, p.1.off + off⟩) <|>
  broadcastCheck b

/-! ## COMMIT_ORDER (R272) -/

/-- A port has a receive occurrence at a beat offset. -/
def receivesAt (b : List Byte) (p beat : Nat) : Bool :=
  (slotRecs b).any fun r => r.port == p && r.dir == 1 && (List.range r.count).any fun k => r.beatOf k == beat

def commitOrderCheck (b : List Byte) : Option LoadFail :=
  let v := imgVerifyEnd b
  let c := manCommitBeat b
  need (decide (v + imgHorizon b + 1 ≤ c)) (manFail b 0x0061 0x128) <|>
  need (decide (imgNormBeat b ≤ v)) (manFail b 0x0061 0x128) <|>
  (bySec 0x0061 b fun e =>
    if e.type ≠ 0x10 then none
    else (placedWords e.stream (secBytes b e)).findSome? fun x =>
      if wOp x.w ≤ 1 || copyReceive b x.w || decide ((x.t + wDur x.w - 1) / acPerBeat e.tier ≤ v) then none
      else some x.off) <|>
  firstFail ((List.range 8).filter fun p => manPortMode b p == 1) fun p =>
    firstFail (List.range (c - 1 - v)) fun k =>
      need (receivesAt b p (v + 1 + k)) ⟨0x0061, secIndex b 0x21 0xFF, v + 1 + k⟩

end Sys2Proof.Machine
end

