-- ==== Sys2Proof/Machine/LoadPlan.lean ====
section
/-!
DEFINITION. The loader's checks over beats (Table 3-7): REFRESH_PLAN, LOADER_SHARE, POWER_BEAT, POWER_SUSTAINED and
CURRENT_STEP. Their positions are beat offsets.
-/

namespace Sys2Proof.Machine

/-! ## REFRESH_PLAN (R92, R218 to R221) -/

/-- Refreshes of a PC counted from the last beat of the step gap: element i is beat offset i - 1. -/
def refreshes (plan : List Byte) (beats j p : Nat) : List Bool :=
  true :: (List.range beats).map fun off => bitAt (maskIn plan off j) p

/-- The first element that lies more than 4 beats after the refresh before it; k is its distance. -/
def gapAt : List Bool → Nat → Nat → Option Nat
  | [], _, _ => none
  | x :: l, k, i => if 4 < k then some i else gapAt l (if x then 1 else k + 1) (i + 1)

/-- The first of the spans of 64 beats that holds fewer than 33 refreshes; k counts those of the current span. -/
def spanAt : List Bool → List Bool → Nat → Nat → Option Nat
  | a :: as, z :: zs, k, i =>
    if k + b2n z < 33 then some i else spanAt as zs (k + b2n z - b2n a) (i + 1)
  | _, _, _, _ => none

/-- The beat offset at which the plan of a PC fails (R221). -/
def refreshFault (plan : List Byte) (beats j p : Nat) : Option Nat :=
  let l := refreshes plan beats j p
  let first := (l.take 63).foldl (fun n x => n + b2n x) 0
  (spanAt l (l.drop 63) first 0 <|> gapAt l 0 0).map fun i => i - 1

def refreshCheck (s : State) (pt : Nat) (b : List Byte) : Option LoadFail :=
  let plan := refreshPlan b
  firstFail (List.range (ptStacks s pt).length) fun j => firstFail (List.range 32) fun p =>
    (refreshFault plan (imgStepBeats b) j p).map fun off => ⟨0x0050, secIndex b 0x22 0xFF, off⟩

/-! ## HBM slots (R88, R211, R219, R235, R259)

Charges are counted in 1/196,608 of a slot, so that the even shares of Pith and stash traffic are exact. -/

/-- One command slot. -/
def slotUnit : Nat := 196608

/-- Lines below line x of a stack that lie in PC p (R210): 32 lines to a page, 32 pages to a round. -/
def linesBelow (p x : Nat) : Nat := x / 1024 * 32 + min 32 (x % 1024 - 32 * p)

/-- The charge of a run of n lines from a stack byte address on PC p: one slot for each burst where the run covers whole
device pages, two otherwise (R211; DEDUCED, log entry 27). -/
def runSlots (a n p : Nat) : Nat :=
  let k := linesBelow p (a / 64 + n) - linesBelow p (a / 64)
  if a % 2048 = 0 ∧ n % 32 = 0 then k else 2 * k

/-- The charge of a run at a partition address on PC p of relative stack j. -/
def runOn (a n j p : Nat) : Nat :=
  match spaceOf a with
  | .stack k off => if k = j then slotUnit * runSlots off n p else 0
  | _ => 0

/-- DMA copies in a beat (R234). -/
def dmaSlots (es : List DmaEntry) (j p beat : Nat) : Nat :=
  (es.map fun e =>
    if e.kind ≠ 1 then 0
    else (if e.beat = beat then runOn e.src e.lines j p else 0) +
      (if writeBeat e = beat then runOn e.dst e.lines j p else 0)).sum

/-- Crown fills and write-backs in a beat (R229). -/
def windowSlots (es : List CrownEntry) (j p beat : Nat) : Nat :=
  (es.map fun e =>
    if e.kind ≠ 1 then 0
    else (if e.fill ∧ e.fillBeat = beat then runOn e.hbmAddr e.lines j p else 0) +
      (if e.writeBack ∧ e.closeBeat = beat then runOn e.hbmAddr e.lines j p else 0)).sum

/-- Stash reservations of kind 2: isolated bursts, spread evenly over the grove's stacks (R235; DEDUCED, log entry 27). -/
def stashSlots (v : Variant) (es : List DmaEntry) (j beat : Nat) : Nat :=
  (es.map fun e =>
    let own := groveStacks v e.grove
    if e.kind = 2 ∧ e.beat = beat ∧ own.contains j then 2 * slotUnit * e.lines / (32 * own.length) else 0).sum

/-- An area that an element phase moves: its stack address, none where its bursts lie by themselves, and num/den 1/32 bytes per
element. -/
structure AreaCost where
  addr : Option Nat
  num : Nat
  den : Nat := 1
deriving DecidableEq, Repr

/-- The bytes before element k end with a device page. -/
def AreaCost.whole (x : AreaCost) (k : Nat) : Bool :=
  match x.addr with
  | some a => a % 2048 == 0 && k * x.num % (65536 * x.den) == 0
  | none => false

/-- The charge on each PC of elements lo to hi - 1 of an area: a beat's run that does not cover whole, aligned device pages counts
twice (R211; DEDUCED, log entry 27). -/
def AreaCost.cost (x : AreaCost) (lo hi : Nat) : Rat :=
  let n : Nat := 3 * (hi - lo) * x.num * (if x.whole lo && x.whole hi then 1 else 2)
  (n : Rat) / (x.den : Rat)

def areasCost (l : List AreaCost) (lo hi : Nat) : Rat := (l.map fun x => x.cost lo hi).sum

/-- An area whose elements have a whole number of 1/32 bytes. -/
def AreaCost.at_ (a num : Nat) : AreaCost := { addr := some a, num }

/-- The working copy. -/
def copyAreas (d : TensorDesc) : List AreaCost :=
  if d.copyFmt = 0xFF then [] else [.at_ d.copyAddr (4 * (elemFmt d.copyFmt).width + (if isMx d.copyFmt then 1 else 0))]

/-- A part that APPLY reads and writes, with its difference in a half of the staging area (R280). -/
def partAreas (d : TensorDesc) (p bytes : Nat) : List AreaCost :=
  [.at_ (Desc.partAddr d p) bytes, .at_ (Desc.partAddr d p) bytes] ++
    (if Desc.flag d 3 then [.at_ (Desc.halfAddr d 0 + Desc.halfOff d p) bytes] else [])

/-- What APPLY moves for a parameter element: the landed gradient, the items that its rule reads and writes, the work area's
value. -/
def applyAreas (d : TensorDesc) : List AreaCost :=
  .at_ d.gradAddr 72 :: partAreas d 1 128 ++ (if Desc.flag d 0 then partAreas d 2 64 else []) ++
    (if d.rule = 4 then [.at_ (Desc.workU d) 128] else partAreas d 3 128) ++
    (if d.rule = 2 then partAreas d 4 128 else []) ++ (if d.rule = 3 then [.at_ (Desc.workX d) 128] else [])

/-- What APPLY moves for an element of a factor of rule 4: the factor, its product, its snapshot, and the root installed, whose
difference takes the old one. -/
def factorAreas (d : TensorDesc) (f : Nat) : List AreaCost :=
  partAreas d (5 + f) 128 ++ [.at_ (Desc.factor d f 6) 128, .at_ (Desc.factor d f 0) 128, .at_ (Desc.factor d f 1) 128] ++
    (if Desc.flag d 3 then partAreas d (7 + f) 128 else [.at_ (Desc.partAddr d (7 + f)) 128])

/-- The replica slice of a descriptor's part: every burst where K words or more lie in each, otherwise one burst by itself for
each word (R340). -/
def sliceArea (k : Nat) (d : TensorDesc) (p : Nat) : AreaCost :=
  let words := ceilDiv (Desc.halfSize d p) 4
  let n := max (Desc.elems d) 1
  if 16 < k then { addr := none, num := 2048 * words, den := k * n }
  else { addr := some (Desc.partAddr d p), num := 128 * words, den := n }

/-- VERIFY: blocks, chunk headers, and the replica slice. -/
def verifyAreas (s : State) (pt : Nat) (d : TensorDesc) : List AreaCost :=
  let x := (s.redPt pt).rep
  [.at_ d.gradAddr 72, { addr := none, num := 2048 * d.chunks, den := max (Desc.elems d) 1 }] ++
    (if x.gm1 = 0 then [] else (List.range 9).map (sliceArea (x.km1 + 1) d))

/-- Elements that follow one another in a phase and move the same areas. -/
structure Segment where
  count : Nat
  areas : List AreaCost
deriving DecidableEq, Repr

/-- The segments of a tensor in an element phase (R258). -/
def segments (s : State) (pt op : Nat) (d : TensorDesc) : List Segment :=
  match op with
  | 1 => [⟨Desc.elems d, verifyAreas s pt d⟩]
  | 4 => ⟨Desc.elems d, applyAreas d⟩ ::
      (if d.rule = 4 then [⟨d.rows * d.rows, factorAreas d 0⟩, ⟨d.cols * d.cols, factorAreas d 1⟩] else [])
  | 5 => [⟨Desc.elems d, copyAreas d⟩]
  | _ => []

/-- The charge of elements lo to hi - 1 of segments. -/
def segsCost : List Segment → Nat → Nat → Rat
  | [], _, _ => 0
  | g :: gs, lo, hi => areasCost g.areas (min lo g.count) (min hi g.count) + segsCost gs (lo - g.count) (hi - g.count)

/-- What the loader charges for an element phase: its first and last beat, its elements per beat, whether its tensors follow
different rules, and its segments. -/
structure PhaseCharge where
  start : Nat
  stop : Nat
  rate : Nat
  mixed : Bool
  segs : List Segment

/-- The charge of a beat on each PC, spread evenly (R259; DEDUCED, log entry 27): the beat's elements at their own bytes, and where
the rules differ not below the largest cost of a full beat per element. -/
def PhaseCharge.slots (x : PhaseCharge) (beat : Nat) : Rat :=
  if beat < x.start ∨ x.stop < beat then 0
  else
    let lo := x.rate * (beat - x.start)
    let hi := lo + x.rate
    let own := segsCost x.segs lo hi
    if x.mixed then
      let total := (x.segs.map Segment.count).sum
      let most := (x.segs.map fun g => areasCost g.areas 0 x.rate).foldl max 0
      max own (most * ((min hi total - min lo total : Nat) : Rat) / (x.rate : Rat))
    else own

/-- The element phases of relative stack j. -/
def pithCharges (s : State) (pt : Nat) (b : List Byte) (j : Nat) : List PhaseCharge :=
  let prog := secPith b j
  let l := descs prog
  (phaseRecs prog).map fun r =>
    let ds := r.descs l
    { start := r.start, stop := r.stop, rate := r.rate, mixed := decide (1 < (ds.map fun d => d.rule).eraseDups.length),
      segs := ds.flatMap (segments s pt r.op) }

/-- Pith traffic of a beat on each PC. -/
def pithSlots (cs : List PhaseCharge) (beat : Nat) : Rat := (cs.map fun c => c.slots beat).sum

/-- The loader's 1/64 of a PC's slots (R88). -/
def loaderSlots : Nat := 600 * slotUnit / 64

/-- What a tier plans for one relative stack: its DMA and Crown entries, its Pith charges and the refresh plan. -/
structure StackPlan where
  v : Variant
  dma : List DmaEntry
  crown : List CrownEntry
  pith : List PhaseCharge
  plan : List Byte

/-- PC p of relative stack j serves a beat. -/
def StackPlan.serves (x : StackPlan) (j p beat : Nat) : Bool :=
  let slots := if bitAt (maskIn x.plan beat j) p then 360 else 600
  let planned := dmaSlots x.dma j p beat + windowSlots x.crown j p beat + stashSlots x.v x.dma j beat + loaderSlots
  decide ((planned : Rat) + pithSlots x.pith beat ≤ (slots * slotUnit : Nat))

/-! ## Outer memory (R91, R235, R247, Table 9-6)

Charges are counted in 1/512 line time, so that the eighths of a reservation are exact. -/

/-- Lines below device line x that lie on a bus (R19): 64 lines to a page, 8 pages to a round. -/
def busBelow (bus x : Nat) : Nat := x / 512 * 64 + min 64 (x % 512 - 64 * bus)

/-- Lines and charge of a copy's outer-memory run on a bus: 73 or 78 a line where it covers whole pages, 160 or 224
otherwise. -/
def runBus (s : State) (pt a n bus : Nat) (write : Bool) : Nat × Nat :=
  match spaceOf a with
  | .outer off =>
    let x := 64 * firstPage s pt + off / 64
    let k := busBelow bus (x + n) - busBelow bus x
    let whole := off % 4096 == 0 && n % 64 == 0
    let cost := if write then (if whole then 78 else 224) else (if whole then 73 else 160)
    (8 * k, 8 * k * cost)
  | _ => (0, 0)

/-- Sums of lines and of charges, in eighths. -/
def addPairs (l : List (Nat × Nat)) : Nat × Nat := ((l.map (·.1)).sum, (l.map (·.2)).sum)

/-- A bus serves a beat of a tier: n eighths of 139,264 units, 16 more for each line of the less numerous direction. -/
def busServes (s : State) (pt : Nat) (es : List DmaEntry) (pushes groves bus beat : Nat) : Bool :=
  let reads := addPairs (es.map fun e => if e.kind = 1 ∧ e.beat = beat then runBus s pt e.src e.lines bus false else (0, 0))
  let copies := es.map fun e => if e.kind = 1 ∧ writeBeat e = beat then runBus s pt e.dst e.lines bus true else (0, 0)
  let held := es.map fun e => if e.kind = 3 ∧ e.beat = beat then (e.lines, 78 * e.lines) else (0, 0)
  let writes := addPairs ((8 * pushes, 8 * 78 * pushes) :: copies ++ held)
  decide (reads.2 + writes.2 + 16 * min reads.1 writes.1 ≤ 139264 * groves)

/-- LOADER_SHARE. -/
def loaderShareCheck (s : State) (pt : Nat) (b : List Byte) : Option LoadFail :=
  let plan := refreshPlan b
  let rel := List.range (ptStacks s pt).length
  let pith := rel.map (pithCharges s pt b)
  firstFail (imgTiers b) fun tier =>
    let dma := dmaEntries b tier
    let crown := (List.range (imgGroves b)).flatMap (crownEntries b tier)
    let sec := secIndex b 0x12 tier
    firstFail (List.range (imgStepBeats b)) fun beat =>
      need ((rel.all fun j =>
          let x : StackPlan := { v := hdrVariant b, dma, crown, pith := pith.getD j [], plan }
          (List.range 32).all fun p => x.serves j p beat) &&
        (List.range 8).all fun bus => busServes s pt dma (manStashSlots b) (imgGroves b) bus beat)
        ⟨0x0051, sec, beat⟩

/-! ## Power (R84, R93, Table 3-8) -/

/-- What a limit is on: the partition, or each relative grove. -/
def powTargets (b : List Byte) : List (Option Nat) := none :: (List.range (imgGroves b)).map some

/-- W of a limit: n times the partition's, or the grove's. -/
def powLimit (b : List Byte) (k : Option Nat) (perGrove grove : Nat) : Nat :=
  match k with
  | none => perGrove * imgGroves b
  | some _ => grove

/-- The offset of the first beat of the first run with a property. -/
def runAt (f : Nat → Nat → Bool) : List (Nat × Nat) → Nat → Option Nat
  | [], _ => none
  | (r, v) :: l, i => if f r v then some i else runAt f l (i + r)

/-- The 1,001st beat of a run of beats above a limit. -/
def longRun (limit : Nat) : List (Nat × Nat) → Nat → Nat → Option Nat
  | [], _, _ => none
  | (r, v) :: l, k, i =>
    if v ≤ limit then longRun limit l 0 (i + r)
    else if 1000 < k + r then some (i + 1000 - k)
    else longRun limit l (k + r) (i + r)

/-- The first beat of a window of 10,000 beats that holds more than a limit. -/
def windowOver (runs : List (Nat × Nat)) (limit : Nat) : Option Nat :=
  (List.range ((runs.map (·.1)).sum)).find? fun i => decide (limit < sumCycle runs (i + 10000) - sumCycle runs i)

/-- The first change above a limit; the change into the step gap is at the step's last beat. -/
def stepOver (limit last : Nat) : Nat → List (Nat × Nat) → Nat → Option Nat
  | _, [], _ => none
  | v, (r, w) :: l, i => if limit < v - w + (w - v) then some (min i last) else stepOver limit last w l (i + r)

/-- A check of each tier's profile, for the partition and for each grove. -/
def powCheck (s : State) (b : List Byte) (code : Half) (f : Option Nat → List (Nat × Nat) → Option Nat) :
    Option LoadFail :=
  firstFail (imgTiers b) fun tier => firstFail (powTargets b) fun k =>
    (f k (cycleRuns s (powRecs (secPower b tier)) (imgGroves b) k)).map fun beat => ⟨code, secIndex b 0x13 tier, beat⟩

/-- POWER_BEAT. -/
def powerBeatCheck (s : State) (b : List Byte) : Option LoadFail :=
  powCheck s b 0x0070 fun k runs => runAt (fun _ v => decide (128 * powLimit b k 425 300 < v)) runs.dropLast 0

/-- POWER_SUSTAINED. -/
def powerSustainedCheck (s : State) (b : List Byte) : Option LoadFail :=
  powCheck s b 0x0071 fun k runs =>
    (windowOver runs (128 * 10000 * powLimit b k 375 265)) <|>
    (match k with
      | none => (longRun (128 * 375 * imgGroves b) (runs ++ runs) 0 0).map (· % (imgStepBeats b + 20))
      | some _ => none)

/-- CURRENT_STEP. -/
def currentStepCheck (s : State) (b : List Byte) : Option LoadFail :=
  powCheck s b 0x0072 fun k runs =>
    let idle := (runs.getLastD (0, 0)).2
    stepOver (128 * powLimit b k 15 120) (imgStepBeats b - 1) idle runs 0

end Sys2Proof.Machine
end

