-- ==== Sys2Proof/Machine/Load.lean ====
section
/-!
DEFINITION. The loader (03): all checks in the order of Table 3-7, and a load from its command to its completion (R85 to
R90). An accepted image is held with its slot, and stands in the image region.
-/

namespace Sys2Proof.Machine

/-- The first check of Table 3-7 that an image fails, for a load into partition pt (R89). -/
def loadChecks (s : State) (pt : Nat) (b : List Byte) (unitsOk : Bool) : Option LoadFail :=
  formatCheck b <|> versionCheck b <|> sizeCheck s pt b <|> digestCheck s pt b unitsOk <|> malformedCheck b <|>
  fieldCheck (loadThin s pt b) b <|> variantCheck s b <|> partitionSizeCheck s pt b <|> gridCheck s pt b <|> rangeCheck s pt b <|>
  boundCheck b <|> hbmFitCheck s pt b <|> outerFitCheck s pt b <|> scratchpadFitCheck b <|> accumulatorFitCheck b <|>
  crownWaysCheck s b <|> stashBoundsCheck b <|> stashBalanceCheck b <|> unbackedCheck s pt b <|> pinCheck s pt b <|>
  timerCheck s pt b <|> bufferCheck b <|> durationCheck b <|> overlapCheck (loadThin s pt b) b <|> slotWindowCheck b <|>
  slotDelayCheck s pt b <|> slotPortCheck s pt b <|> tierSetCheck b <|> tierEventsCheck b <|> refreshCheck s pt b <|>
  loaderShareCheck s pt b <|> pithCheck s pt b <|> commitOrderCheck b <|> powerBeatCheck s b <|>
  powerSustainedCheck s b <|> currentStepCheck s b

/-- A LOAD that has been executed waits for the loader (R87). -/
def loadEffect (q : Nat) (s : State) : State := s.onCmd q 0x02 fun _ s => s.setBusy q

/-- The loader works for this queue. -/
def atLoader (s : State) (q : Nat) : Bool :=
  (List.range 4).any fun p => match (s.part p).load with
    | some j => j.queue == q
    | none => false

/-- A queue's LOAD that waits for the loader. -/
def waitingLoad (s : State) (q : Nat) : Option Fetched :=
  match (s.queue q).cmd with
  | some c =>
    if opOf c.body = 2 ∧ c.busy ∧ (s.queue q).held = none ∧ (queuePt s q).isSome ∧ !atLoader s q then some c else none
  | none => none

/-- The waiting LOAD that was fetched first (R87). -/
def nextLoad (s : State) : Option (Nat × Fetched) :=
  ((List.range 48).filterMap fun q => (waitingLoad s q).map fun c => (q, c)).foldl (fun m x =>
    match m with
    | none => some x
    | some y => if x.2.order < y.2.order then some x else some y) none

/-- The loader processes a load (R87). -/
def loaderBusy (s : State) : Bool := (List.range 4).any fun p => (s.part p).load.isSome

/-- A queued or running step of a partition names the slot (R86): fetched, selected or running, without an outcome. -/
def slotBusy (s : State) (pt : Nat) (slot : Bool) : Bool :=
  let p := s.part pt
  let queued := (List.range 48).any fun q =>
    match (s.queue q).cmd with
    | some c =>
      let ended : Bool := match p.cur with
        | some r => r.queue == q && r.seq == c.seq && p.running.isNone
        | none => false
      opOf c.body == 1 && (s.queue q).held.isNone && queuePt s q == some pt && decide (getLE c.body 4 1 = 1) == slot &&
        !ended
    | none => false
  let names (r : Option StepRun) : Bool := match r with
    | some r => r.slot == slot
    | none => false
  queued || names p.sel || names p.running

/-- The completion of a load (Table 14-8). -/
def State.endLoad (s : State) (q : Nat) (code : Half) (imageId : DWord) : State :=
  let seq : DWord := match (s.queue q).cmd with
    | some c => c.seq
    | none => 0
  s.hold q (compBody 2 (if code = 0 then 0 else 2) code.toNat 0 0 2 0 seq imageId.toNat 0 0) (code == 0)

/-- The registers of a refusal (R86, R89). -/
def State.loadReason (s : State) (pt : Nat) (slot : Bool) (code : Half) (sec pos : Word) : State :=
  s.updPart pt fun p => { p with rsnSlot := slot, rsnCode := code, detSec := sec, detPos := pos }

/-- What the loader finds out about an image. Every check reads the device as it stands when the load is processed: the manual
does not say at which instant of a load a check reads it (DESIGN CHOICE, log entry 27). -/
def loadJob (s : State) (pt q : Nat) (slot : Bool) (b : List Byte) (unitsOk : Bool) : LoadJob :=
  let job : LoadJob := { queue := q, slot, imageId := imgId b, image := b, checked := true }
  match loadChecks s pt b unitsOk with
  | none => job
  | some f => { job with code := f.code, sec := BitVec.ofNat 32 f.sec, pos := BitVec.ofNat 32 f.pos }

/-- Every data unit of an image of n bytes is there and passes its tag (R391, R392). -/
def imageUnitsOk (s : State) (q iv n : Nat) (units : List Unit4K) : Bool :=
  (List.range (ceilDiv n 4096)).all fun i =>
    decide (i < units.length) && unitOk s (s.queue q).session iv i (unitAt units i)

/-- The bytes of n bytes of data units. -/
def unitBytes (n : Nat) (units : List Unit4K) : List Byte := padTo n ((units.map fun u => padTo 4096 u.data).flatten.take n)

/-- LOAD_PROCESS: the loader takes the load fetched first, that of queue q; a busy slot ends it at once, otherwise the slot is LOADING
while the checks run (R86, R87, R89). The image is what the data units decrypt to. -/
def loadProcessEffect (q : Nat) (units : List Unit4K) (s : State) : State :=
  if loaderBusy s || s.isHalted then s
  else
    match (nextLoad s).filter fun x => x.1 = q with
    | none => s
    | some (_, c) =>
      let pt := (queuePt s q).getD 0
      let slot := decide (getLE c.body 4 1 = 1)
      let b := unitBytes (getLE c.body 32 8) units
      let unitsOk := imageUnitsOk s q (getLE c.body 8 8) (getLE c.body 32 8) units
      let o := objAt s ((s.queue q).ctx.getD 0) (field (getLE c.body 16 4) 0 16)
      let s := s.readUnits o (getLE c.body 24 8) (ceilDiv (getLE c.body 32 8) 4096)
      if slotBusy s pt slot then (s.loadReason pt slot 0x0080 0xFFFFFFFF 0).endLoad q 0x0080 (imgId b)
      else
        let job := loadJob s pt q slot b unitsOk
        s.updPart pt fun p => { p.setSlot slot { st := .loading } with load := some job }

/-- The outcome of a load in its partition: the slot, and the registers of a refusal. -/
def Part.finishLoad (p : Part) (j : LoadJob) : Part :=
  let p := { p with load := none }
  if j.code = 0 then p.setSlot j.slot { st := .accepted, image := j.image }
  else
    { p.setSlot j.slot { st := .refused, code := j.code } with
      rsnSlot := j.slot, rsnCode := j.code, detSec := j.sec, detPos := j.pos }

/-- The loader writes an image into a slot's part of the image region: its k-th GiB into relative stack k of the partition, from
the slot's first byte on (R88; DESIGN CHOICE, log entry 27: the manual does not say in which stack a section stands). -/
def State.writeImage (s : State) (pt : Nat) (slot : Bool) (b : List Byte) : State :=
  s.each (List.range (ceilDiv b.length 64)) fun s i =>
    let a := 64 * i
    hbmWrite s ((ptStacks s pt).getD (a / 2 ^ 30) 0) (openBytes + (if slot then 2 ^ 30 else 0) + a % 2 ^ 30)
      (padTo 64 ((b.drop a).take 64))

/-- LOAD_COMPLETE (R87 to R89); the image stands in its region from then on (DESIGN CHOICE, log entry 27). -/
def loadCompleteEffect (s : State) : State :=
  if s.isHalted then s
  else
    match (List.range 4).find? fun p => (s.part p).load.isSome with
    | none => s
    | some pt =>
      match (s.part pt).load with
      | none => s
      | some j =>
        let s := if j.code = 0 then s.writeImage pt j.slot j.image else s
        (s.updPart pt fun p => p.finishLoad j).endLoad j.queue j.code j.imageId

/-! ## Meanings -/

def execLoad (q : Nat) (s : State) := checked (.load q) s (loadEffect q s)
def execLoadProcess (q : Nat) (us : List Unit4K) (s : State) := checked (.loadProcess q us) s (loadProcessEffect q us s)
def execLoadComplete (s : State) := checked .loadComplete s (loadCompleteEffect s)

end Sys2Proof.Machine
end

