-- ==== Sys2Proof/Machine/Boundary.lean ====
section
/-!
DEFINITION. The beat boundary (02, R61, Table 2-4): stream time runs to the end of the beat, what the beat still sends, the
arrivals applied, the expiries, the steps dropped, tenancy messages, attestation lock, requested commits, the counts of beats, and what takes effect at a step boundary. A
command that arrives within the beat stands before this one; configuration commits and the actions of the next beat have commands
of their own, which wait for it (DEDUCED, log entry 28).
-/

namespace Sys2Proof.Machine

/-! ## The control slot (R49, R304 to R307, R315) -/

/-- A beat marker record sent in the current beat (R49, Table 11-8). -/
def markerRec (s : State) : List Byte :=
  let origin := s.cmb.src == 1 || (s.cmb.src == 2 && s.cmb.origin)
  [2, BitVec.ofNat 8 (b2n s.onGrid + 2 * b2n origin), BitVec.ofNat 8 s.cmb.hops, 0] ++ toLE 4 controlStamp ++
    toLE 8 s.cmb.beat.toNat ++ zeros 16

/-- A delay request sent in the current beat (R307). -/
def delayReqRec (s : State) : List Byte := [3, 0, 0, 0] ++ toLE 4 controlStamp ++ toLE 8 s.cmb.beat.toNat ++ zeros 16

/-- The current beat is at offset 0 of its 128-beat frame. -/
def markerBeat (s : State) : Bool := s.cmb.beat.toNat % 128 == 0

/-- A delay request is due on a port: it is the beat parent, in every beat of acquisition and with every marker. -/
def requestDue (s : State) (n : Nat) : Bool :=
  s.cmb.src == 2 && s.cmb.parent == n && (s.cmb.st == .acquiring || (s.onGrid && markerBeat s))

/-- COUNT of a forwarded notice is the key's count as it is sent (R350). -/
def recount (s : State) (pt : Nat) (rec : List Byte) : List Byte :=
  let f := noticeOf rec
  if getLE rec 0 1 ≠ 1 ∨ f.hops = 0 then rec
  else
    match (s.part pt).cur with
    | some r =>
      if r.start ≠ f.start then rec
      else
        match r.keys.find? fun k => k.cause == f.cause && k.suspect == f.suspect with
        | some k => patch rec 4 (toLE 4 (min k.count 0xFFFFFFFF))
        | none => rec
    | none => rec

/-- The records of a control slot and those that stay: the delay replies of this beat first, then the records that waited
when the beat began, up to 31 in all. -/
def controlRecs (s : State) (n : Nat) : List (List Byte) × List (List Byte) :=
  let p := s.port n
  let own := if p.active then (if markerBeat s then [markerRec s] else []) ++ (if requestDue s n then [delayReqRec s] else [])
    else []
  let isReply (r : List Byte) : Bool := getLE r 0 1 == 4
  let replies := p.waiting.filter isReply
  let old := (p.waiting.take p.ready).filter fun r => !isReply r
  let new := (p.waiting.drop p.ready).filter fun r => !isReply r
  let room := 31 - own.length - replies.length
  (own ++ replies ++ (old.take room).map (recount s ((ptOfPort s n).getD 0)), old.drop room ++ new)

/-- A port sends control messages: native, in AUTH, UP or SWAP from the beat after it entered AUTH on, and its partition does not
scrub (R287, R304, R315). -/
def sendsControl (s : State) (n : Nat) : Bool :=
  (s.port n).aligned && !(s.port n).fresh && !s.cmb.framesOff && !s.isHalted && !portScrubs s n

/-- The control slot of the beat that ends. -/
def State.sendControl (s : State) (n : Nat) : State :=
  if sendsControl s n then
    let r := controlRecs s n
    let pay := padTo 992 (r.1.map (padTo 32)).flatten
    let s := s.updPort n fun p => { p with waiting := r.2 }
    s.sendMessage n (controlStamp / 64) [1545, 1546, 1547, 1548] (msgHeader 0x10 4 0 pay ++ pay)
  else s

/-- The alignment blocks of the beat that ends, on every native port that carries them, from the beat after the entry of AUTH on,
whose LINK_BEAT is 0 (R287, Table 11-2, Table 11-3). They go on where only the frames stop, behind the 64th HOLDOVER beat and in a
halt, which keeps the lanes trained (R66, R244; DEDUCED, log entry 34). -/
def State.sendBlocks (s : State) (n : Nat) : State :=
  let p := s.port n
  if (p.aligned || (p.mode == 0 && p.st == .failed)) && !p.fresh then
    s.emit (.blocks n p.txBeat p.txPos16 p.txPos17 p.rxSwap p.txAck)
  else s

/-- Egress barriers at their DEADLINE (R311, Table 11-11). -/
def State.sendBarriers (s : State) (pt : Nat) : State :=
  match (s.part pt).working with
  | none => s
  | some r =>
    let img := (s.part pt).image r
    s.each (graftRecs img) fun s g =>
      if g.dir = 0 ∧ g.kind = 3 ∧ g.deadline = s.offset r then s.emitBough (.graftBarrier (absPort s pt g.port)) else s

/-! ## The beat number (R42, R52, R54, R66, R462) -/

/-- Phase moved in one beat: at most 10 ps, in 1/64,000 ns (R52). -/
def phaseMove (residue : Int) : Int := max (-640) (min 640 residue)

/-- Cambium and the hub's count at a boundary. -/
def Cambium.tick (c : Cambium) : Cambium :=
  let c := if c.st = .unlocked then { c with localBeat := c.localBeat + 1 } else { c with beat := c.beat + 1 }
  match c.st with
  | .aligned => { c with phase := c.phase + phaseMove c.residue, residue := c.residue - phaseMove c.residue }
  | .flywheel => { c with flyBeats := c.flyBeats + 1 }
  | .holdover => { c with holdBeats := c.holdBeats + 1 }
  | _ => c

/-- The root's first beat, and the start of an acquisition (R54, R69, Table 2-3). -/
def State.startGrid (s : State) : State :=
  if s.cmb.st ≠ .freqLocked then { s with cmb := { s.cmb with rootPending := false } }
  else if s.cmb.src ≠ 0 then ({ s with cmb := { s.cmb with rootPending := false } }).setCmb .acquiring
  else if s.cmb.rootPending then
    let c := { s.cmb with rootPending := false, beat := s.cmb.rootHi ++ s.cmb.rootLo }
    ({ s with cmb := c }).setCmb .aligned
  else s

/-- Width of the BEAT_OUT pulse of a beat (Table 2-2). -/
def pulseWidth (beat : Nat) : Nat :=
  let k := beat % 128
  let first := beat / 128 * 128
  let bit (v i : Nat) : Nat := if bitAt v i then 400 else 200
  if k = 0 then 600
  else if k ≤ 64 then bit first (64 - k)
  else if k ≤ 80 then bit (crc16 (toBE 8 first)) (80 - k)
  else 200

/-- BEAT_OUT of the beat that begins. While Cambium is UNLOCKED there is no beat grid to time it to, and the pin stays low, which
the rules do not say (DESIGN CHOICE, log entry 6). -/
def State.drivePulse (s : State) : State :=
  if s.cmb.beatOut && s.cmb.st != .unlocked then s.emit (.pulse (pulseWidth s.cmb.beat.toNat)) else s

/-! ## Ports (R287, R305, R306, Table 11-3) -/

/-- What waits now, a confirm of this boundary too, goes out in the beat that begins (R306). -/
def Port.makeReady (p : Port) : Port := { p with ready := p.waiting.length }

/-- A port's counts at a boundary. Beats without an authenticated control slot count on a native port in UP and SWAP (R291). -/
def Port.tick (p : Port) : Port :=
  let p := { p with ctlOk := 0 }
  let next := if p.fresh then p.txBeat else p.txBeat + 1
  if p.st = .auth ∨ p.st = .up ∨ p.st = .swap then
    { p with txBeat := next, fresh := false, rxBeat := p.rxBeat.map (· + 1),
             noCtl := if p.st = .auth ∨ p.mode ≠ 0 then 0 else p.noCtl + 1 }
  else if p.st = .failed then { p with txBeat := next, fresh := false }
  else p

/-- An assigned port leaves RESET once the Leafed stage has been reached (Table 11-3, Table 16-4). -/
def State.tickPort (s : State) (n : Nat) : State :=
  let trains := (s.port n).st == .reset && (ptOfPort s n).isSome && (s.pwr.stage == .leafed || s.pwr.stage == .full)
  let s := if trains then s.updPort n fun p => { p with st := .training } else s
  s.updPort n Port.tick

/-! ## Step boundaries (R169, R170, R294, R428) -/

/-- EST_CLEAR: every history of the partition's current context is emptied (R170). -/
def State.clearEst (s : State) (pt : Nat) : State :=
  if (s.part pt).estClear then
    let s := s.updPart pt fun p => { p with estClear := false }
    match (s.part pt).lastCtx with
    | some h => s.updCtx (h % 65536) fun c => if c.tag = h / 65536 then { c with hist := [], depth := 0 } else c
    | none => s
  else s

/-- A committed WINDOW: the newest entries of each history stay (R169). -/
def State.applyWindow (s : State) (pt : Nat) : State :=
  match (s.numPt pt).nextWindow with
  | none => s
  | some w =>
    let s := s.setNum pt { s.numPt pt with window := w, nextWindow := none }
    s.each (List.range 4096) fun s i =>
      if (s.ctx i).live ∧ (s.ctx i).pt = pt then
        s.updCtx i fun c => { c with hist := c.hist.map fun e => (e.1, e.2.take w) }
      else s

/-- A new job key takes effect: digest bases derive from it and the ports confirm it (R294, R331, R428). -/
def State.applyKeys (s : State) (pt : Nat) : State :=
  let t := s.tenancy pt
  let s := match t.ckptKeyNext with
    | some k => s.updTen pt fun t => { t with ckptKey := some k, ckptKeyNext := none }
    | none => s
  match t.jobKeyNext with
  | none => s
  | some k =>
    let s := s.updTen pt fun t => { t with jobKey := some k, jobKeyNext := none, rho := some k }
    s.each (ptPorts s pt) fun s n => s.sendConfirm n k

/-- A step boundary: with no step running, every beat boundary is one. -/
def State.stepBoundary (s : State) (pt : Nat) : State :=
  if (s.part pt).running.isSome then s else ((s.clearEst pt).applyWindow pt).applyKeys pt

/-! ## BEAT_BOUNDARY -/

/-- What has not come by the end of the beat expires (R58, R61, R313, R328). -/
def State.expireOne (s : State) (pt : Nat) : Expiry → State
  | .slot slot occ lane frames => s.expireSlot pt slot occ lane frames
  | .graft idx => s.expireGraft pt idx
  | .keys => s.expireKeys pt
  | .lane => s.expireLane pt

/-- Order 3: everything due in a partition expires, in the order in which it was named. -/
def State.expire (s : State) (pt : Nat) : State :=
  ((s.part pt).due.foldl (fun s x => s.expireOne pt x) s).updPart pt fun p => { p with due := [] }

/-- At the boundary that ends a step's start beat Sapflow retargets the partition's standby PLL (R450, Table 16-1). -/
def State.retargetDue (s : State) (pt : Nat) : State :=
  match (s.part pt).working with
  | some r => if r.start = s.cmb.beat then s.retarget pt ((s.part pt).image r) r else s
  | none => s

/-- What a partition does at orders 2 and 3: refresh of the beat, expiries, classification, and the drop of a faulted step; the
standby PLL after a start beat. -/
def State.endBeat (s : State) (pt : Nat) : State :=
  ((((s.retargetDue pt).refreshBeat pt).expire pt).classifyAll pt).dropFaulted pt

/-- The counts outside the ports: the beat, the caps as they stood (R447), the local beats of a pending commit (R462). -/
def State.countBeat (s : State) : State :=
  { s with
    cmb := s.cmb.tick
    cfg := { s.cfg with remain := if s.cfg.pending then s.cfg.remain.map (· - 1) else s.cfg.remain }
    sap := { s.sap with capSel := s.sap.capNow, capNow := min s.sap.capHost s.sap.capMgmt }
    pwr := { s.pwr with uptime := s.pwr.uptime + 1 } }

/-- BEAT_BOUNDARY: the beat that has run ends and the next one begins. -/
def beatBoundaryEffect (s : State) : State :=
  if !s.powered then { s with pwr := { s.pwr with uptime := if s.pwr.pwrOk then s.pwr.uptime + 1 else s.pwr.uptime } }
  else
    let low := lowGroves s
    let ports := List.range s.variant.ports
    let s := s.each (ptList s) State.advanceBeat
    let s := (s.each ports State.sendBlocks).each ports State.sendControl
    let s := s.each (ptList s) State.sendBarriers
    let s := s.applyFences.satisfyWaits.expireWaits
    let s := s.each (ptList s) State.endBeat
    let s := (s.runMsgs.takeLock.runArms.countBeat.warnFalls low).startGrid.drivePulse
    let s := s.each ports State.tickPort
    let s := s.each (ptList s) fun s p => (s.stepBoundary p).readyScrub p
    (s.each ports fun s n => s.updPort n Port.makeReady).endMailbox

/-! ## Meanings -/

def execBeatBoundary (s : State) := checked .beatBoundary s (beatBoundaryEffect s)

end Sys2Proof.Machine
end

