-- ==== Sys2Proof/Machine/Registers.lean ====
section
/-!
DEFINITION. The set-up registers as the host reads and writes them: the decisions of R9 and R507, every register of the
BAR0 blocks (19, and the register tables of 02, 03, 06, 09, 11 to 17), the doorbells and MSI-X structures of BAR2, and
the Seedling window of BAR4. A field that has a command of its own acts here through that command's effect.
-/

namespace Sys2Proof.Machine

/-! ## Codes of read-only fields -/

/-- CMB_STATUS.STATE (Table 2-9). -/
def CmbSt.code : CmbSt → Nat
  | .unlocked => 0
  | .freqLocked => 1
  | .acquiring => 2
  | .aligned => 3
  | .flywheel => 4
  | .holdover => 5

/-- BGH_STATUS.STATE (Table 11-14). -/
def PortSt.code : PortSt → Nat
  | .reset => 0
  | .training => 1
  | .auth => 2
  | .up => 3
  | .swap => 4
  | .failed => 5

/-- HIF_QS_STATUS.STATE (Table 14-15). -/
def QState.code : QState → Nat
  | .disabled => 0
  | .enabled => 1
  | .error => 2
  | .stopping => 3

/-- LDR_PT_STATUS.SLOT_A (Table 3-12). -/
def SlotSt.code : SlotSt → Nat
  | .empty => 0
  | .loading => 1
  | .accepted => 2
  | .refused => 3

/-- MEM_OKR_STATE's state (Table 9-8). -/
def RegSt.code : RegSt → Nat
  | .unused => 0
  | .init => 1
  | .active => 2
  | .rotating => 3
  | .flushing => 4
  | .exhausted => 5

/-- FLT_SUSPECT_HI.STATE (Table 13-11). -/
def SuspSt.code : SuspSt → Nat
  | .empty => 0
  | .pending => 1
  | .transient => 2
  | .permanent => 3
  | .unresolved => 4

/-- The partition's tenant scrub runs: its registers of Table 19-10 read as zero and take no write (R513). -/
def ptScrubs (s : State) (p : Nat) : Bool := (s.tenancy p).st == .scrubbing

/-- A value that a scrub hides. -/
def hidden (scrubs : Bool) (v : Nat) : Nat := if scrubs then 0 else v

/-! ## Reads, block by block -/

/-- ID (Tables 19-2 to 19-6). -/
def readId (s : State) (o : Nat) : Nat :=
  match o with
  | 0x00 => s.variant.part
  | 0x04 => 0x0100
  | 0x08 => field s.shortId.toNat 0 32
  | 0x0C => field s.shortId.toNat 32 32
  | 0x10 => atBits s.variant.ports 24 8 + atBits s.variant.stacks 16 8 + atBits (2 * s.variant.stacks) 8 8 + 8
  | _ => 0

/-- CMB (Tables 2-7 to 2-9); the mirror of CMB_CTRL (R510). HOPS shows the low 4 bits of a marker's 8-bit hop count (DESIGN CHOICE,
log entry 6). -/
def readCmb (s : State) (o : Nat) : Nat :=
  let c := s.cmb
  match o with
  | 0x00 => atBits (b2n c.stBeatOut) 8 1 + atBits c.stParent 4 3 + atBits c.stSrc 0 2
  | 0x04 => atBits c.errBound 16 16 + atBits c.hops 12 4 + atBits c.st.code 0 3
  | 0x08 => field c.beat.toNat 0 32
  | 0x0C => c.beatHi.toNat
  | 0x10 => c.phaseErr.toNat
  | 0x14 => c.inDelay.toNat
  | 0x18 => c.rootLo.toNat
  | 0x1C => c.rootHi.toNat
  | 0x20 => c.flyLimit.toNat
  | 0x24 => s.evt.cmb.toNat
  | 0x8000 => atBits (b2n c.beatOut) 8 1 + atBits c.parent 4 3 + atBits c.src 0 2
  | _ => if 0x40 ≤ o ∧ o < 0x40 + 4 * s.variant.ports then (mget 0 c.portDelay ((o - 0x40) / 4)).toNat else 0

/-- SAP_PT_STATUS[p] (Table 16-12). -/
def sapPtWord (s : State) (p : Nat) : Nat :=
  let c := s.clock p
  atBits c.budget 16 16 + atBits (b2n c.throttle) 7 1 + atBits (b2n c.lag) 6 1 + atBits (b2n c.standbyLocked) 5 1 +
    atBits c.standbyTier 2 2 + atBits c.tier 0 2

/-- SAP/CLK (Tables 16-8 to 16-15). -/
def readSap (s : State) (o : Nat) : Nat :=
  let x := s.sap
  match o with
  | 0x00 => sapStageWord s
  | 0x04 => atBits x.capHost 0 16
  | 0x08 => atBits x.capMgmt 0 16
  | 0x0C => sapCtrlWord s
  | 0x10 => s.evt.sap.toNat
  | 0x20 => sapPtWord s 0
  | 0x24 => sapPtWord s 1
  | 0x28 => sapPtWord s 2
  | 0x2C => sapPtWord s 3
  | 0x100 => x.clkEn.toNat
  | 0x104 => atBits x.trDiv 2 2 + atBits x.sbDiv 0 2
  | 0x110 => atBits (b2n x.fmcBusy) 30 1 + atBits x.fmcTgtSrc 24 4 + atBits x.fmcTgtIdx 16 8 + atBits x.fmcRefSrc 8 4 +
      atBits x.fmcRefIdx 0 8
  | 0x114 => x.fmcWindow.toNat
  | 0x118 => x.fmcCount.toNat
  | _ => 0

/-- CFG (Table 16-16); the mirror of CFG_LAYOUT (R510). -/
def readCfg (s : State) (o : Nat) : Nat :=
  let c := s.cfg
  match o with
  | 0x00 => c.commitLo.toNat
  | 0x04 => c.commitHi.toNat
  | 0x0C => atBits c.reason.toNat 24 8 + atBits (b2n c.pending) 16 1
  | 0x10 => atBits c.stLayout 0 4
  | 0x14 => s.evt.cfg.toNat
  | 0x8010 => atBits c.layout 0 4
  | _ => 0

/-- HIF_QS_STATUS[q] (Table 14-15). -/
def qsStatusWord (s : State) (q : Nat) : Nat :=
  let x := s.queue q
  atBits x.err.toNat 24 8 + atBits ((queuePt s q).getD 0) 22 2 + atBits (b2n x.ctx.isSome) 21 1 +
    atBits (b2n x.notice) 20 1 + atBits x.st.code 0 2

/-- A HIF_QS register of queue q (Tables 14-13 to 14-15); zero while the bound partition scrubs (R408). -/
def readQs (s : State) (q reg : Nat) : Nat :=
  let x := s.queue q
  hidden (queueScrubs s q) <| match reg with
    | 0x00 => field x.sqBase.toNat 0 32
    | 0x04 => field x.sqBase.toNat 32 32
    | 0x08 => field x.cqBase.toNat 0 32
    | 0x0C => field x.cqBase.toNat 32 32
    | 0x10 => atBits (vectorOf s q) 8 6 + atBits x.cqK 4 4 + atBits x.sqK 0 4
    | 0x14 => x.session.toNat
    | 0x1C => qsStatusWord s q
    | _ => 0

/-- HIF (Table 14-13). -/
def readHif (s : State) (o : Nat) : Nat :=
  match o with
  | 0x00 => atBits (s.sessions.filter fun e => e.2.live).length 0 6
  | 0x04 => s.evt.hif.toNat
  | 0x08 => s.hif.ctxBaseLo.toNat
  | 0x0C => s.hif.ctxBaseHi.toNat
  | 0x10 => s.hif.fenceBaseLo.toNat
  | 0x14 => s.hif.fenceBaseHi.toNat
  | _ => if 0x1000 ≤ o ∧ o < 0x1000 + 0x40 * 48 then readQs s ((o - 0x1000) / 0x40) (o % 0x40) else 0

/-- Fences that some command or step names (R401). -/
def residentFences (s : State) : Nat :=
  (s.hif.fences.filter fun e => e.2.live && fenceResident s e.1 48).length

/-- MMU (Table 14-17). -/
def readMmu (s : State) (o : Nat) : Nat :=
  match o with
  | 0x00 => atBits (residentFences s) 8 7 + atBits (residentCtxs s).length 0 6
  | 0x04 => s.hif.denied.toNat
  | _ => 0

/-- MEM_STACK_RAS[j] (Table 9-11). -/
def rasWord (s : State) (j : Nat) : Nat :=
  let n := (s.mb.retired.filter fun x => x.1 == j).length
  atBits (512 - n) 22 10 + atBits n 12 10 + min (s.mb.repaired.filter fun x => rowStack x == j).length 0xFFF

/-- A MEM_OKR register of region r (Table 9-8, R251). -/
def readOkr (s : State) (r reg : Nat) : Nat :=
  let x := s.region r
  hidden (ptScrubs s (r / 16)) <| match reg with
    | 0x0 => x.base
    | 0x4 => x.pages
    | 0x8 => atBits x.kid 24 8 + atBits x.prev 16 8 + atBits x.st.code 0 3
    | _ => x.progress

/-- MEM (Tables 9-8 to 9-11). -/
def readMem (s : State) (o : Nat) : Nat :=
  let m := s.mb
  let ns := s.variant.stacks
  match o with
  | 0x00 => atBits (b2n m.halted) 31 1 + atBits m.haltCause 8 4 + atBits m.haltBus 0 3
  | 0x04 => s.evt.mem.toNat
  | 0x08 => field m.haltAddr 0 32
  | 0x0C => field m.haltAddr 32 13
  | 0x10 => m.ceThresh.toNat
  | 0x14 => 218750000
  | _ =>
    if 0x20 ≤ o ∧ o < 0x20 + 4 * ns then 23436988
    else if 0x60 ≤ o ∧ o < 0x60 + 4 * ns then rasWord s ((o - 0x60) / 4)
    else if 0xA0 ≤ o ∧ o < 0xA0 + 4 * ns then (mget 0 m.ce ((o - 0xA0) / 4)).toNat
    else if 0xE0 ≤ o ∧ o < 0xE0 + 4 * ns then (mget 0 m.ue ((o - 0xE0) / 4)).toNat
    else if 0x200 ≤ o ∧ o < 0x600 then readOkr s ((o - 0x200) / 16) (o % 16)
    else 0

/-- BGH_STATUS[n] (Table 11-14). -/
def bghStatusWord (p : Port) : Nat :=
  atBits (if p.hidden then 0 else p.partnerPort) 24 4 + atBits (b2n p.level1) 20 1 + atBits (18 - p.failedLanes.length) 8 5 + atBits p.st.code 0 3

/-- BGH_LANES[n] (Table 11-12). -/
def bghLanesWord (p : Port) : Nat :=
  atBits (p.pos17.getD 31) 24 5 + atBits (p.pos16.getD 31) 19 5 + maskOf (p.failedLanes.filter (· < 18)).eraseDups

/-- A register of port n (Table 11-12), zero while its partition scrubs (R315). -/
def readPort (s : State) (n reg : Nat) : Nat :=
  let p := s.port n
  hidden (portScrubs s n) <| match reg with
    | 0x00 => atBits p.stMode 0 2
    | 0x04 => bghStatusWord p
    | 0x08 => (s.evt.get (.bgh n)).toNat
    | 0x0C => bghLanesWord p
    | 0x10 => p.fecCe.toNat
    | 0x14 => p.fecUe.toNat
    | 0x18 => p.tagFail.toNat
    | 0x1C => p.slotMiss.toNat
    | 0x20 => hidden p.hidden (field p.partner.toNat 0 32)
    | 0x24 => hidden p.hidden (field p.partner.toNat 32 32)
    | 0x28 => p.graftDrop.toNat
    | _ => 0

/-- BGH (Tables 11-12 to 11-15); the mirrors of BGH_CTRL (R510); ports that the variant lacks read zero (R508). -/
def readBgh (s : State) (o : Nat) : Nat :=
  let np := s.variant.ports
  if o = 0xF00 then s.bgh.laneThresh.toNat
  else if o = 0xF04 then s.bgh.tagLimit.toNat
  else if o < 0x100 * np then readPort s (o / 0x100) (o % 0x100)
  else if 0x8000 ≤ o ∧ o < 0x8000 + 0x100 * np ∧ o % 0x100 = 0 then
    let n := (o - 0x8000) / 0x100
    hidden (portScrubs s n) (atBits (s.port n).mode 0 2)
  else 0

/-- RED_PT_REPLICA's layout (Table 12-7). -/
def Replica.word (r : Replica) : Nat := atBits r.index 12 3 + atBits r.gm1 8 3 + atBits r.km1 0 5

/-- RED_PT_THIN's layout (Table 12-8). -/
def Thin.word (t : Thin) : Nat := atBits t.phase 8 6 + atBits t.nm1 0 6

/-- RED_ACTIVE_DATA (Table 19-8). -/
def redActive (s : State) : Nat :=
  let p := field s.redSel 12 2
  let x := s.redPt p
  hidden (ptScrubs s p) <| match field s.redSel 14 2 with
    | 0 => x.init.toNat
    | 1 => x.rep.word
    | 2 => (mget {} x.thin (field s.redSel 0 12) : Thin).word
    | _ => 0

/-- RED (Tables 12-5 to 12-9, 19-8); a register takes an offset that is also a mirror (R511). -/
def readRed (s : State) (o : Nat) : Nat :=
  if o < 0x40 then
    let p := o / 16
    let x := s.redPt p
    hidden (ptScrubs s p) <| match o % 16 with
      | 0x0 => x.stInit.toNat
      | 0x4 => x.stRep.word
      | 0x8 => (s.evt.get (.red p)).toNat
      | _ => atBits x.gveOpen 0 8
  else if 0x1000 ≤ o ∧ o < 0x11000 then
    let p := (o - 0x1000) / 0x4000
    hidden (ptScrubs s p) (mget {} (s.redPt p).stThin ((o - 0x1000) % 0x4000 / 4) : Thin).word
  else if 0x11000 ≤ o ∧ o < 0x19000 then
    let p := (o - 0x9000) / 0x4000
    hidden (ptScrubs s p) (mget {} (s.redPt p).thin ((o - 0x9000) % 0x4000 / 4) : Thin).word
  else if o = 0x19000 then s.redSel
  else if o = 0x19004 then redActive s
  else 0

/-- NUM_PT_STATUS.DEPTH: of the partition's current context, capped at W (Table 6-7). -/
def numDepth (s : State) (p : Nat) : Nat :=
  match (s.part p).lastCtx with
  | some h =>
    let c := s.ctx (h % 65536)
    if c.tag = h / 65536 then min c.depth (s.numPt p).window else 0
  | none => 0

/-- NUM (Tables 6-5 to 6-7); the mirrors of NUM_PT_CTRL (R510). -/
def readNum (s : State) (o : Nat) : Nat :=
  let p := o % 0x8000 / 16
  let x := s.numPt p
  if 0x40 ≤ o % 0x8000 then 0
  else hidden (ptScrubs s p) <|
    if o < 0x8000 then
      match o % 16 with
      | 0x0 => atBits x.stWindow 0 7
      | 0x4 => atBits x.satTensors 16 16 + atBits (numDepth s p) 0 7
      | _ => 0
    else if o < 0x10000 ∧ o % 16 = 0 then atBits x.window 0 7
    else 0

/-- FLT_SUSPECT_HI[i] (Table 13-11). -/
def suspectHi (x : Suspect) : Nat :=
  atBits x.st.code 28 4 + atBits (suspKind x.suspect) 24 4 + atBits x.pt 22 2 + atBits x.cause.toNat 4 16 +
    field (suspLoc x.suspect) 32 4

/-- FLT (Tables 13-7 to 13-11, R364). -/
def readFlt (s : State) (o : Nat) : Nat :=
  let f := s.flt
  match o with
  | 0x00 => f.accAddr.toNat
  | 0x04 => atBits (b2n f.accValid) 31 1 + atBits f.accCount 16 8 + atBits f.accWidth 2 2 + atBits (b2n f.accWrite) 1 1 +
      b2n f.accGated
  | 0x08 => s.evt.flt.toNat
  | 0x0C => f.late.toNat
  | 0x10 => f.recurLimit.toNat
  | _ =>
    if 0x20 ≤ o ∧ o < 0x40 then
      let g := s.grove ((o - 0x20) / 4)
      atBits g.unbacked.length 16 8 + atBits g.retired.length 8 8 + atBits g.spares.length 0 4
    else if 0x100 ≤ o ∧ o < 0x200 then
      let x : Suspect := mget {} f.suspects ((o - 0x100) / 8)
      if x.st = .empty then 0
      else hidden (ptScrubs s x.pt) (if o % 8 = 0 then field (suspLoc x.suspect) 0 32 else suspectHi x)
    else 0

/-- SEC (Tables 15-9 to 15-14). -/
def readSec (s : State) (o : Nat) : Nat :=
  match o with
  | 0x00 => secStatusWord s
  | 0x04 => s.evt.sec.toNat
  | 0x08 => s.hw.lockViol.toNat
  | 0x0C => b2n s.hw.locked
  | 0x10 => s.hw.bark.toNat
  | 0x20 => secPtWord s 0
  | 0x24 => secPtWord s 1
  | 0x28 => secPtWord s 2
  | 0x2C => secPtWord s 3
  | _ => 0

/-- LDR_PT_STATUS[p] (Table 3-12). -/
def ldrStatusWord (x : Part) : Nat :=
  atBits (b2n x.running.isSome) 8 1 + atBits (b2n x.active) 5 1 + atBits (b2n x.load.isSome) 4 1 +
    atBits x.slotB.st.code 2 2 + atBits x.slotA.st.code 0 2

/-- LDR (Tables 3-10 to 3-13, R98); the mirrors of the grid (R510). -/
def readLdr (s : State) (o : Nat) : Nat :=
  match o with
  | 0x00 => 0x0100
  | 0x04 => s.idleGrove
  | 0x08 => s.idleModule
  | _ =>
    let p := (o % 0x8000 - 0x100) / 0x20
    let x := s.part p
    if o % 0x8000 < 0x100 ∨ 0x180 ≤ o % 0x8000 ∨ 0x10000 ≤ o then 0
    else hidden (ptScrubs s p) <|
      if o < 0x8000 then
        match o % 0x20 with
        | 0x00 => ldrStatusWord x
        | 0x04 => atBits (b2n x.rsnSlot) 16 1 + atBits x.rsnCode.toNat 0 16
        | 0x08 => x.detSec.toNat
        | 0x0C => x.detPos.toNat
        | 0x10 => field x.stGrid.toNat 0 32
        | 0x14 => field x.stGrid.toNat 32 32
        | _ => 0
      else
        match o % 0x20 with
        | 0x10 => field x.grid.toNat 0 32
        | 0x14 => field x.grid.toNat 32 32
        | _ => 0

/-- CNP_STATUS (Table 17-9). -/
def cnpStatusWord (s : State) : Nat :=
  atBits s.cnp.resets 16 16 + atBits (b2n s.cnp.anchor.isSome) 3 1 + atBits (b2n s.cnp.recovery) 2 1 +
    atBits (b2n s.cnp.romMode) 1 1 + b2n s.cnp.up

/-- SEQ of the newest log entry; zero where the log has none (DESIGN CHOICE, log entry 15). -/
def newestSeq (s : State) : DWord := if s.cnp.logSeq = 0 then 0 else s.cnp.logSeq - 1

/-- CNP (Tables 17-8 to 17-10). -/
def readCnp (s : State) (o : Nat) : Nat :=
  match o with
  | 0x00 => cnpStatusWord s
  | 0x04 => s.evt.cnp.toNat
  | 0x08 => s.cnp.logLost.toNat
  | 0x0C => field (newestSeq s).toNat 0 32
  | 0x10 => s.cnp.logHi.toNat
  | _ => 0

/-- The 32-bit value at a BAR0 offset (Table 19-1); an offset that names no register reads zero (R507, R508). -/
def readBar0 (s : State) (off : Nat) : Nat :=
  let o := off % 0x100000
  match off / 0x100000 with
  | 0x0 => readId s o
  | 0x1 => readCmb s o
  | 0x2 => readSap s o
  | 0x3 => readCfg s o
  | 0x4 => readHif s o
  | 0x5 => readMmu s o
  | 0x6 => readMem s o
  | 0x7 => readBgh s o
  | 0x8 => readRed s o
  | 0x9 => readNum s o
  | 0xA => readFlt s o
  | 0xB => readSec s o
  | 0xC => readLdr s o
  | 0xD => readCnp s o
  | _ => 0

/-- A word of the doorbell page of queue q (Table 14-3, R515). -/
def readDoorbell (s : State) (q reg : Nat) : Nat :=
  hidden (queueScrubs s q) <| match reg with
    | 0 => (s.queue q).sqTail
    | 4 => (s.queue q).cqHead
    | _ => 0

/-- A word of an MSI-X table entry (19, "BAR2"; DESIGN CHOICE, log entry 8). -/
def readMsix (e : MsixEntry) (reg : Nat) : Nat :=
  match reg with
  | 0x0 => field e.addr.toNat 0 32
  | 0x4 => field e.addr.toNat 32 32
  | 0x8 => e.data.toNat
  | _ => b2n e.masked

/-- The 32-bit value at a BAR2 offset (Table 14-1, R367). -/
def readBar2 (s : State) (off : Nat) : Nat :=
  if off < 0x30000 then readDoorbell s (off / 0x1000) (off % 0x1000)
  else if off < 0x30400 then readMsix (mget {} s.hif.msix ((off - 0x30000) / 16)) (off % 16)
  else if off = 0x31000 then field s.hif.msixPend.toNat 0 32
  else if off = 0x31004 then field s.hif.msixPend.toNat 32 32
  else 0

/-- RCV_STATUS (Table 17-7). -/
def rcvStatusWord (s : State) : Nat :=
  atBits s.pwr.rcvError.toNat 24 8 + atBits (b2n s.pwr.rcvBusy) 8 1 + b2n s.pwr.rcvReady

/-- The 32-bit value at a BAR4 offset (Table 19-11, R517, R518). -/
def readBar4 (s : State) (off : Nat) : Nat :=
  match off with
  | 0x0000 => sapStageWord s
  | 0x0004 => s.pwr.seedAborts.toNat
  | 0x0008 => s.variant.part
  | 0x000C => secStatusWord s
  | 0x0010 => cnpStatusWord s
  | 0x0104 => if s.cnp.recovery then rcvStatusWord s else 0
  | 0x0108 => if s.cnp.recovery then s.pwr.rcvOffset.toNat else 0
  | 0x010C => if s.cnp.recovery then s.pwr.rcvLength.toNat else 0
  | _ =>
    if 0x200 ≤ off ∧ off < 0x288 then leNat ((s.ikPub.drop (off - 0x200)).take 4)
    else if 0x8000 ≤ off then
      if s.cnp.recovery then leNat ((List.range 4).map fun i => mget 0 s.pwr.rcvData (off - 0x8000 + i)) else 0
    else 0

/-- The 32-bit value at an offset of a BAR. -/
def readBar (s : State) (bar off : Nat) : Nat :=
  match bar with
  | 0 => readBar0 s off
  | 2 => readBar2 s off
  | _ => readBar4 s off

/-- What a read of a latching pair's low register does to its high one (Tables 2-7, 17-8). -/
def State.latch (s : State) (bar off : Nat) : State :=
  if bar = 0 ∧ off = 0x100008 then { s with cmb := { s.cmb with beatHi := BitVec.ofNat 32 (s.cmb.beat.toNat / 2 ^ 32) } }
  else if bar = 0 ∧ off = 0xD0000C then
    { s with cnp := { s.cnp with logHi := BitVec.ofNat 32 ((newestSeq s).toNat / 2 ^ 32) } }
  else s

/-! ## Writes, block by block -/

/-- A write of RWS fields: staged, or ignored with WRITE_PENDING while a commit is pending (R463, Table 0-5). -/
def State.stageField (s : State) (f : State → State) : State := if s.cfg.pending then s.event .cfg 2 else f s

/-- A write of a register with n RWL fields: at once, or ignored and counted under the lock (R10, R512). -/
def State.lockField (s : State) (n : Nat) (f : State → State) : State :=
  if s.hw.locked then
    ({ s with hw := { s.hw with lockViol := satAdd s.hw.lockViol n } }).event .sec 5
  else f s

/-- CMB (Tables 2-7, 2-8, R68). -/
def State.writeCmb (s : State) (o v : Nat) : State :=
  let w := BitVec.ofNat 32 v
  match o with
  | 0x00 =>
    let s := s.stageField fun s => { s with cmb := { s.cmb with
      stBeatOut := bitAt v 8, stParent := field v 4 3, stSrc := field v 0 2 } }
    if bitAt v 9 then rootStartEffect s else s
  | 0x14 => { s with cmb := { s.cmb with inDelay := w } }
  | 0x18 => { s with cmb := { s.cmb with rootLo := w } }
  | 0x1C => { s with cmb := { s.cmb with rootHi := w } }
  | 0x20 => if v = 0 ∨ 16777216 < v then s else { s with cmb := { s.cmb with flyLimit := w } }
  | 0x24 => s.clearEvents .cmb w
  | _ => s

/-- SAP_CTRL (Table 16-10): a TMARGIN above 1Eh leaves that field. -/
def Sapflow.writeCtrl (x : Sapflow) (v : Nat) : Sapflow :=
  { x with ilim := BitVec.ofNat 8 (field v 24 8), hyst := BitVec.ofNat 8 (field v 0 8),
           tmargin := if field v 8 8 ≤ 0x1E then BitVec.ofNat 8 (field v 8 8) else x.tmargin }

/-- SAP/CLK (Tables 16-8 to 16-15). -/
def State.writeSap (s : State) (o v : Nat) : State :=
  match o with
  | 0x04 =>
    let c := field v 0 16
    if c < 0x190 then s else { s with sap := { s.sap with capHost := min c 0xBB8 } }
  | 0x0C => s.lockField 3 fun s => ({ s with sap := s.sap.writeCtrl v }).warnFalls (lowGroves s)
  | 0x10 => s.clearEvents .sap (BitVec.ofNat 32 v)
  | 0x100 => { s with sap := { s.sap with clkEn := BitVec.ofNat 8 v } }
  | 0x104 =>
    { s with sap := { s.sap with
        trDiv := if field v 2 2 = 3 then s.sap.trDiv else field v 2 2,
        sbDiv := if field v 0 2 = 3 then s.sap.sbDiv else field v 0 2 } }
  | 0x110 =>
    let s := { s with sap := { s.sap with
      fmcTgtSrc := field v 24 4, fmcTgtIdx := field v 16 8, fmcRefSrc := field v 8 4, fmcRefIdx := field v 0 8 } }
    if bitAt v 31 then fmcStartEffect s else s
  | 0x114 => if v = 0 then s else { s with sap := { s.sap with fmcWindow := BitVec.ofNat 32 v } }
  | _ => s

/-- CFG (Table 16-16, R461, R463). -/
def State.writeCfg (s : State) (o v : Nat) : State :=
  match o with
  | 0x00 => { s with cfg := { s.cfg with commitLo := BitVec.ofNat 32 v } }
  | 0x04 => { s with cfg := { s.cfg with commitHi := BitVec.ofNat 32 v } }
  | 0x08 => if bitAt v 0 then configArmEffect (bitAt v 1) s else if bitAt v 1 then configAbortEffect s else s
  | 0x10 => s.stageField fun s => { s with cfg := { s.cfg with stLayout := field v 0 4 } }
  | 0x14 => s.clearEvents .cfg (BitVec.ofNat 32 v)
  | _ => s

/-- HIF_QS_CTRL[q]: RESET, then DISABLE, then ENABLE where a write sets several (Table 14-15; DESIGN CHOICE, log entry 8). -/
def State.writeQsCtrl (s : State) (q v : Nat) : State :=
  let s := if bitAt v 2 then queueResetEffect q s else s
  let s := if bitAt v 1 then queueDisableEffect q s else s
  if bitAt v 0 then queueEnableEffect q s else s

/-- HIF (Tables 14-13 to 14-15, R406). -/
def State.writeHif (s : State) (o v : Nat) : State :=
  let w := BitVec.ofNat 32 v
  match o with
  | 0x04 => s.clearEvents .hif w
  | 0x08 => s.lockField 1 fun s => { s with hif := { s.hif with ctxBaseLo := w } }
  | 0x0C => s.lockField 1 fun s => { s with hif := { s.hif with ctxBaseHi := w } }
  | 0x10 => s.lockField 1 fun s => { s with hif := { s.hif with fenceBaseLo := w } }
  | 0x14 => s.lockField 1 fun s => { s with hif := { s.hif with fenceBaseHi := w } }
  | _ =>
    if 0x1000 ≤ o ∧ o < 0x1000 + 0x40 * 48 then
      let q := (o - 0x1000) / 0x40
      if o % 0x40 = 0x18 then s.writeQsCtrl q v else queueConfigWriteEffect q (o % 0x40) w s
    else s

/-- MEM (Table 9-8). -/
def State.writeMem (s : State) (o v : Nat) : State :=
  match o with
  | 0x04 => s.clearEvents .mem (BitVec.ofNat 32 v)
  | 0x10 => { s with mb := { s.mb with ceThresh := BitVec.ofNat 16 v } }
  | _ => s

/-- BGH (Tables 11-12, 11-13, R508, R513). -/
def State.writeBgh (s : State) (o v : Nat) : State :=
  if o = 0xF00 then { s with bgh := { s.bgh with laneThresh := BitVec.ofNat 16 v } }
  else if o = 0xF04 then { s with bgh := { s.bgh with tagLimit := BitVec.ofNat 8 v } }
  else if 0x100 * s.variant.ports ≤ o ∨ portScrubs s (o / 0x100) then s
  else
    let n := o / 0x100
    match o % 0x100 with
    | 0x00 =>
      let s := s.stageField fun s => s.updPort n fun p => { p with stMode := field v 0 2 }
      if bitAt v 2 then retrainEffect n s else s
    | 0x08 => s.clearEvents (.bgh n) (BitVec.ofNat 32 v)
    | _ => s

/-- RED (Tables 12-5 to 12-9, 19-8, R513). -/
def State.writeRed (s : State) (o v : Nat) : State :=
  if o < 0x40 then
    let p := o / 16
    if ptScrubs s p then s
    else
      match o % 16 with
      | 0x0 => s.stageField fun s => s.setRed p { s.redPt p with stInit := BitVec.ofNat 8 v }
      | 0x4 => s.stageField fun s => s.setRed p { s.redPt p with
          stRep := { index := field v 12 3, gm1 := field v 8 3, km1 := field v 0 5 } }
      | 0x8 => s.clearEvents (.red p) (BitVec.ofNat 32 v)
      | _ => s
  else if 0x1000 ≤ o ∧ o < 0x11000 then
    let p := (o - 0x1000) / 0x4000
    let t := (o - 0x1000) % 0x4000 / 4
    if ptScrubs s p then s
    else s.stageField fun s => s.setRed p { s.redPt p with
      stThin := mput {} (s.redPt p).stThin t { phase := field v 8 6, nm1 := field v 0 6 } }
  else if o = 0x19000 then { s with redSel := field v 0 16 }
  else s

/-- NUM (Tables 6-5, 6-6, R513). -/
def State.writeNum (s : State) (o v : Nat) : State :=
  let p := o / 16
  if o < 0x40 ∧ o % 16 = 0 ∧ !ptScrubs s p then
    let s := s.stageField fun s => s.setNum p { s.numPt p with stWindow := field v 0 7 }
    if bitAt v 8 then estClearEffect p s else s
  else s

/-- FLT (Tables 13-7 to 13-9): clearing VALID starts COUNT anew. -/
def State.writeFlt (s : State) (o v : Nat) : State :=
  match o with
  | 0x04 => if bitAt v 31 then { s with flt := { s.flt with accValid := false, accCount := 0 } } else s
  | 0x08 => s.clearEvents .flt (BitVec.ofNat 32 v)
  | 0x10 => if field v 0 8 < 2 then s else { s with flt := { s.flt with recurLimit := BitVec.ofNat 8 v } }
  | _ => s

/-- SEC (Tables 15-9, 15-11, 15-12). -/
def State.writeSec (s : State) (o v : Nat) : State :=
  match o with
  | 0x04 => s.clearEvents .sec (BitVec.ofNat 32 v)
  | 0x0C => if bitAt v 0 then attestationLockEffect s else s
  | _ => s

/-- LDR (Table 3-10, R513). -/
def State.writeLdr (s : State) (o v : Nat) : State :=
  let p := (o - 0x100) / 0x20
  if 0x100 ≤ o ∧ o < 0x180 ∧ !ptScrubs s p then
    match o % 0x20 with
    | 0x10 => s.stageField fun s => s.updPart p fun x =>
        { x with stGrid := BitVec.ofNat 64 (x.stGrid.toNat / 2 ^ 32 * 2 ^ 32 + v) }
    | 0x14 => s.stageField fun s => s.updPart p fun x =>
        { x with stGrid := BitVec.ofNat 64 (x.stGrid.toNat % 2 ^ 32 + v * 2 ^ 32) }
    | _ => s
  else s

/-- A 32-bit write at a BAR0 offset (Table 19-1); one that names no register is ignored (R507, R508, R510). -/
def State.writeBar0 (s : State) (off v : Nat) : State :=
  let o := off % 0x100000
  match off / 0x100000 with
  | 0x1 => s.writeCmb o v
  | 0x2 => s.writeSap o v
  | 0x3 => s.writeCfg o v
  | 0x4 => s.writeHif o v
  | 0x6 => s.writeMem o v
  | 0x7 => s.writeBgh o v
  | 0x8 => s.writeRed o v
  | 0x9 => s.writeNum o v
  | 0xA => s.writeFlt o v
  | 0xB => s.writeSec o v
  | 0xC => s.writeLdr o v
  | 0xD => if o = 0x04 then s.clearEvents .cnp (BitVec.ofNat 32 v) else s
  | _ => s

/-- A write of an MSI-X table word; unmasking a vector sends its pending message (19, "BAR2"; DESIGN CHOICE, log entry 8). -/
def State.writeMsix (s : State) (vec reg v : Nat) : State :=
  let e : MsixEntry := mget {} s.hif.msix vec
  let put (e : MsixEntry) : State := { s with hif := { s.hif with msix := mput {} s.hif.msix vec e } }
  match reg with
  | 0x0 => put { e with addr := BitVec.ofNat 64 (e.addr.toNat / 2 ^ 32 * 2 ^ 32 + v) }
  | 0x4 => put { e with addr := BitVec.ofNat 64 (e.addr.toNat % 2 ^ 32 + v * 2 ^ 32) }
  | 0x8 => put { e with data := BitVec.ofNat 32 v }
  | _ =>
    let s := put { e with masked := bitAt v 0 }
    if !bitAt v 0 && s.hif.msixPend.getLsbD vec then
      ({ s with hif := { s.hif with msixPend := s.hif.msixPend &&& ~~~(1#64 <<< vec) } }).emitPcie (.msix vec)
    else s

/-- A 32-bit write at a BAR2 offset (Tables 14-1, 14-3, R367, R514, R515). -/
def State.writeBar2 (s : State) (off v : Nat) : State :=
  if off < 0x30000 then
    let q := off / 0x1000
    if queueScrubs s q then s
    else
      match off % 0x1000 with
      | 0 => s.updQueue q fun x => { x with sqTail := field v 0 16 }
      | 4 => s.updQueue q fun x => { x with cqHead := field v 0 16 }
      | _ => s
  else if off < 0x30400 then s.writeMsix ((off - 0x30000) / 16) (off % 16) v
  else s

/-- A 32-bit write at a BAR4 offset: only the recovery mailbox takes one (Tables 17-7, 19-11, R518). -/
def State.writeBar4 (s : State) (off v : Nat) : State :=
  if !s.cnp.recovery || s.pwr.rcvBusy then s
  else if off = 0x100 then
    let c := Config.slotCheck s.cnp.slot
    if bitAt v 0 then recoveryBeginEffect c.flashOk s
    else if bitAt v 1 then recoveryChunkEffect s c.flashOk
    else if bitAt v 2 then recoveryFinishEffect c s
    else s
  else if off = 0x108 then { s with pwr := { s.pwr with rcvOffset := BitVec.ofNat 32 v } }
  else if off = 0x10C then { s with pwr := { s.pwr with rcvLength := BitVec.ofNat 32 v } }
  else if 0x8000 ≤ off then
    let d := (toLE 4 v).zipIdx.foldl (fun m e => mput 0 m (off - 0x8000 + e.2) e.1) s.pwr.rcvData
    { s with pwr := { s.pwr with rcvData := d } }
  else s

/-- A 32-bit write at an offset of a BAR. -/
def State.writeBar (s : State) (bar off v : Nat) : State :=
  match bar with
  | 0 => s.writeBar0 off v
  | 2 => s.writeBar2 off v
  | _ => s.writeBar4 off v

/-! ## The access (R9, R507, R516) -/

/-- Some half of the access reaches a BAR0 block or register group whose CLK_EN bit is 0 (R9, R459). -/
def State.gatedAccess (s : State) (bar width off : Nat) : Bool :=
  bar == 0 && (!s.ungated off || (width == 64 && !s.ungated (off + 4)))

/-- The decisions that precede a register, in order: before the Rooted stage BAR0 and BAR2 abort (R516), then width and
alignment, then gating (R9, R507). -/
def State.access (s : State) (bar width off : Nat) (write : Bool) (f : State → State) : State :=
  if !s.powered then s
  else if bar ≠ 4 ∧ !s.rooted then s.seedAbort bar off write
  else if !accessOk width off then s.rejectAccess bar width off write false
  else if s.gatedAccess bar width off then s.rejectAccess bar width off write true
  else f s

/-- REGISTER_WRITE: a 64-bit write is two 32-bit ones, the lower offset first (R9). -/
def registerWriteEffect (bar width off : Nat) (val : DWord) (s : State) : State :=
  s.access bar width off true fun s =>
    let s := s.writeBar bar off (field val.toNat 0 32)
    if width = 64 then s.writeBar bar (off + 4) (field val.toNat 32 32) else s

/-- REGISTER_READ: a 64-bit read is two 32-bit ones, the lower offset first (R9). -/
def registerReadEffect (bar width off : Nat) (s : State) : State :=
  s.access bar width off false fun s =>
    let lo := readBar s bar off
    let s := s.latch bar off
    let hi := if width = 64 then readBar s bar (off + 4) else 0
    let s := if width = 64 then s.latch bar (off + 4) else s
    s.emit (.regData bar width off (BitVec.ofNat 64 (lo + hi * 2 ^ 32)))

/-! ## Meanings -/

def execRegisterWrite (b w o : Nat) (v : DWord) (s : State) :=
  checked (.registerWrite b w o v) s (registerWriteEffect b w o v s)
def execRegisterRead (b w o : Nat) (s : State) := checked (.registerRead b w o) s (registerReadEffect b w o s)

end Sys2Proof.Machine
end

