-- ==== Sys2Proof/Machine/Dispatch.lean ====
section
/-!
DEFINITION. The one dispatch: each command to its meaning, an arm for every constructor.
-/

namespace Sys2Proof.Machine

open Sys2Proof

def exec (i : Instr) (s : State) : Host.Outcome State Fault Refusal :=
  match i with
  | .registerWrite bar width off val => Sys2Proof.Machine.execRegisterWrite bar width off val s
  | .beatBoundary => Sys2Proof.Machine.execBeatBoundary s
  | .trefLost => Sys2Proof.Machine.execTrefLost s
  | .pllLockLost => Sys2Proof.Machine.execPllLockLost s
  | .holdoverEnd => Sys2Proof.Machine.execHoldoverEnd s
  | .trefStable => Sys2Proof.Machine.execTrefStable s
  | .pllLockDone => Sys2Proof.Machine.execPllLockDone s
  | .beatInFrame widths => Sys2Proof.Machine.execBeatInFrame widths s
  | .beatInLost => Sys2Proof.Machine.execBeatInLost s
  | .beatMarker port rec rxBeat rxOff => Sys2Proof.Machine.execBeatMarker port rec rxBeat rxOff s
  | .markerLost => Sys2Proof.Machine.execMarkerLost s
  | .flywheelLimit => Sys2Proof.Machine.execFlywheelLimit s
  | .delayRequest port rec rxBeat rxOff => Sys2Proof.Machine.execDelayRequest port rec rxBeat rxOff s
  | .delayReply port rec rxBeat rxOff => Sys2Proof.Machine.execDelayReply port rec rxBeat rxOff s
  | .rootStart => Sys2Proof.Machine.execRootStart s
  | .slotDeadlineExpiry pt slot occ lane someFrame => Sys2Proof.Machine.execSlotDeadlineExpiry pt slot occ s lane someFrame
  | .nop a w => Sys2Proof.Machine.execNop a w s
  | .endWord a w => Sys2Proof.Machine.execEndWord a w s
  | .wld a w => Sys2Proof.Machine.execWld a w s
  | .wldt a w => Sys2Proof.Machine.execWldt a w s
  | .mm a w => Sys2Proof.Machine.execMm a w s
  | .mmt a w mask => Sys2Proof.Machine.execMmt a w mask s
  | .vchain a w desc => Sys2Proof.Machine.execVchain a w desc s
  | .vroute a w desc => Sys2Proof.Machine.execVroute a w desc s
  | .gather a w desc => Sys2Proof.Machine.execGather a w desc s
  | .combine a w desc => Sys2Proof.Machine.execCombine a w desc s
  | .scaleGather a w desc => Sys2Proof.Machine.execScaleGather a w desc s
  | .countLoad a w desc => Sys2Proof.Machine.execCountLoad a w desc s
  | .ldc a w => Sys2Proof.Machine.execLdc a w s
  | .stc a w => Sys2Proof.Machine.execStc a w s
  | .send a w => Sys2Proof.Machine.execSend a w s
  | .gvsend a w => Sys2Proof.Machine.execGvsend a w s
  | .gveEmit pt grove key => Sys2Proof.Machine.execGveEmit pt grove key s
  | .gveKeyExpiry pt => Sys2Proof.Machine.execGveKeyExpiry pt s
  | .lktx a w => Sys2Proof.Machine.execLktx a w s
  | .lkrx a w => Sys2Proof.Machine.execLkrx a w s
  | .stpush a w => Sys2Proof.Machine.execStpush a w s
  | .stpop a w => Sys2Proof.Machine.execStpop a w s
  | .stashWriteback pt cl => Sys2Proof.Machine.execStashWriteback pt cl s
  | .stashFetch pt cl ecc => Sys2Proof.Machine.execStashFetch pt cl ecc s
  | .crownFill pt grove e ecc late => Sys2Proof.Machine.execCrownFill pt grove e ecc late s
  | .crownWriteback pt grove e => Sys2Proof.Machine.execCrownWriteback pt grove e s
  | .dmaCopy pt e ecc => Sys2Proof.Machine.execDmaCopy pt e ecc s
  | .dmaCopyWrite pt e late => Sys2Proof.Machine.execDmaCopyWrite pt e late s
  | .wcEntryTimeout bus line macOk => Sys2Proof.Machine.execWcEntryTimeout bus line s macOk
  | .trackerDone page => Sys2Proof.Machine.execTrackerDone page s
  | .macCheckComplete bus line ok => Sys2Proof.Machine.execMacCheckComplete bus line ok s
  | .releaseWindowExpiry gate => Sys2Proof.Machine.execReleaseWindowExpiry gate s
  | .refreshWatchdog stack pc => Sys2Proof.Machine.execRefreshWatchdog stack pc s
  | .regionInitDone r => Sys2Proof.Machine.execRegionInitDone r s
  | .rotationStart r => Sys2Proof.Machine.execRotationStart r s
  | .sweepDone r => Sys2Proof.Machine.execSweepDone r s
  | .flushDone r => Sys2Proof.Machine.execFlushDone r s
  | .pithVerify pt stack d ecc => Sys2Proof.Machine.execPithVerify pt stack d ecc s
  | .pithNorm pt => Sys2Proof.Machine.execPithNorm pt s
  | .pithPrep pt stack d ecc => Sys2Proof.Machine.execPithPrep pt stack d s ecc
  | .pithApply pt stack d first count ecc => Sys2Proof.Machine.execPithApply pt stack d first count ecc s
  | .pithCopy pt stack d first count => Sys2Proof.Machine.execPithCopy pt stack d first count s
  | .pithRefresh pt stack d ecc => Sys2Proof.Machine.execPithRefresh pt stack d s ecc
  | .phaseIncomplete pt unit op tensors => Sys2Proof.Machine.execPhaseIncomplete pt unit op tensors s
  | .workingCopyRegen pt stack d line ecc => Sys2Proof.Machine.execWorkingCopyRegen pt stack d line s ecc
  | .stepCommit pt => Sys2Proof.Machine.execStepCommit pt s
  | .parameterBroadcast pt slot occ stack d line ecc => Sys2Proof.Machine.execParameterBroadcast pt slot occ stack d line s ecc
  | .checkpointExport pt stack ecc => Sys2Proof.Machine.execCheckpointExport pt stack ecc s
  | .beatTimer pt timer param => Sys2Proof.Machine.execBeatTimer pt timer param s
  | .broadcastReplay pt => Sys2Proof.Machine.execBroadcastReplay pt s
  | .alignmentBlock port lane block => Sys2Proof.Machine.execAlignmentBlock port lane block s
  | .laneSwap port tx => Sys2Proof.Machine.execLaneSwap port tx s
  | .laneSwapTimeout port => Sys2Proof.Machine.execLaneSwapTimeout port s
  | .trainingDone port singlePartner straight => Sys2Proof.Machine.execTrainingDone port singlePartner s straight
  | .retrain port => Sys2Proof.Machine.execRetrain port s
  | .authentication port rec verified => Sys2Proof.Machine.execAuthentication port rec verified s
  | .keyActivation port secret transcript partner partnerPort => Sys2Proof.Machine.execKeyActivation port secret transcript partner partnerPort s
  | .authTimeout port => Sys2Proof.Machine.execAuthTimeout port s
  | .authRetry port => Sys2Proof.Machine.execAuthRetry port s
  | .frameReceive port time tagOk corrected => Sys2Proof.Machine.execFrameReceive port time tagOk corrected s
  | .jobConfirm port head confirm => Sys2Proof.Machine.execJobConfirm port head confirm s
  | .linkLevelSwitch port => Sys2Proof.Machine.execLinkLevelSwitch port s
  | .slotTransmit pt slot occ start => Sys2Proof.Machine.execSlotTransmit pt slot occ start s
  | .slotReceive pt slot occ arr => Sys2Proof.Machine.execSlotReceive pt slot occ arr s
  | .replicaDigest pt payload => Sys2Proof.Machine.execReplicaDigest pt payload s
  | .graftIngress pt port graft step data => Sys2Proof.Machine.execGraftIngress pt port graft step data s
  | .graftDeadline pt graft => Sys2Proof.Machine.execGraftDeadline pt graft s
  | .laneCheck pt => Sys2Proof.Machine.execLaneCheck pt s
  | .redSettingApply pt => Sys2Proof.Machine.execRedSettingApply pt s
  | .stepDiscard pt f => Sys2Proof.Machine.execStepDiscard pt f s
  | .faultNotice port rec => Sys2Proof.Machine.execFaultNotice port rec s
  | .discardReport pt => Sys2Proof.Machine.execDiscardReport pt s
  | .recoveryInterval pt tests ecc => Sys2Proof.Machine.execRecoveryInterval pt tests s ecc
  | .functionLevelReset => Sys2Proof.Machine.execFunctionLevelReset s
  | .getVersion => Sys2Proof.Machine.execGetVersion s
  | .getCapabilities => Sys2Proof.Machine.execGetCapabilities s
  | .negotiateAlgorithms => Sys2Proof.Machine.execNegotiateAlgorithms s
  | .getDigests => Sys2Proof.Machine.execGetDigests s
  | .getCertificate slot offset length => Sys2Proof.Machine.execGetCertificate slot offset length s
  | .challenge nonce => Sys2Proof.Machine.execChallenge nonce s
  | .getMeasurements index nonce => Sys2Proof.Machine.execGetMeasurements index nonce s
  | .keyExchange session => Sys2Proof.Machine.execKeyExchange session s
  | .finish session ok secret transcript => Sys2Proof.Machine.execFinish session ok secret transcript s
  | .heartbeat session => Sys2Proof.Machine.execHeartbeat session s
  | .keyUpdate session => Sys2Proof.Machine.execKeyUpdate session s
  | .endSession session => Sys2Proof.Machine.execEndSession session s
  | .unsupportedRequest code => Sys2Proof.Machine.execUnsupportedRequest code s
  | .sqTailWrite q width val => Sys2Proof.Machine.execSqTailWrite q width val s
  | .cqHeadWrite q width val => Sys2Proof.Machine.execCqHeadWrite q width val s
  | .entryFetch q seq entry => Sys2Proof.Machine.execEntryFetch q seq entry s
  | .nopCommand q => Sys2Proof.Machine.execNopCommand q s
  | .step q => Sys2Proof.Machine.execStep q s
  | .load q => Sys2Proof.Machine.execLoad q s
  | .loadProcess q units => Sys2Proof.Machine.execLoadProcess q units s
  | .loadComplete => Sys2Proof.Machine.execLoadComplete s
  | .copyToDevice q units => Sys2Proof.Machine.execCopyToDevice q units s
  | .copyToHost q ecc => Sys2Proof.Machine.execCopyToHost q s ecc
  | .wait q => Sys2Proof.Machine.execWait q s
  | .waitTimeout q => Sys2Proof.Machine.execWaitTimeout q s
  | .fenceOpSignal q => Sys2Proof.Machine.execFenceOpSignal q s
  | .fenceOpArm q => Sys2Proof.Machine.execFenceOpArm q s
  | .query q => Sys2Proof.Machine.execQuery q s
  | .ctxCreate q => Sys2Proof.Machine.execCtxCreate q s
  | .bind q => Sys2Proof.Machine.execBind q s
  | .ctxDestroy q => Sys2Proof.Machine.execCtxDestroy q s
  | .objMap q => Sys2Proof.Machine.execObjMap q s
  | .objFree q => Sys2Proof.Machine.execObjFree q s
  | .objFreeRelease q => Sys2Proof.Machine.execObjFreeRelease q s
  | .fenceCreate q => Sys2Proof.Machine.execFenceCreate q s
  | .fenceFree q => Sys2Proof.Machine.execFenceFree q s
  | .keyRotate q => Sys2Proof.Machine.execKeyRotate q s
  | .contextLoad ctx entry => Sys2Proof.Machine.execContextLoad ctx entry s
  | .completionWrite q => Sys2Proof.Machine.execCompletionWrite q s
  | .noticeWrite q => Sys2Proof.Machine.execNoticeWrite q s
  | .queueEnable q => Sys2Proof.Machine.execQueueEnable q s
  | .queueDisable q => Sys2Proof.Machine.execQueueDisable q s
  | .queueReset q => Sys2Proof.Machine.execQueueReset q s
  | .queueConfigWrite q reg val => Sys2Proof.Machine.execQueueConfigWrite q reg val s
  | .stepSelect pt timer => Sys2Proof.Machine.execStepSelect pt s timer
  | .contextSwitch pt ecc => Sys2Proof.Machine.execContextSwitch pt s ecc
  | .scalePageWrite pt => Sys2Proof.Machine.execScalePageWrite pt s
  | .tierSwitch pt => Sys2Proof.Machine.execTierSwitch pt s
  | .stepStart pt => Sys2Proof.Machine.execStepStart pt s
  | .stepCompletion pt => Sys2Proof.Machine.execStepCompletion pt s
  | .slotGridRefuse pt => Sys2Proof.Machine.execSlotGridRefuse pt s
  | .estClear pt => Sys2Proof.Machine.execEstClear pt s
  | .tamper c ended => Sys2Proof.Machine.execTamper c s ended
  | .tamperLatch => Sys2Proof.Machine.execTamperLatch s
  | .waferToAssembled => Sys2Proof.Machine.execWaferToAssembled s
  | .assembledToProvisioned scope ok bankAOk bankBOk => Sys2Proof.Machine.execAssembledToProvisioned scope ok bankAOk bankBOk s
  | .provisionedToDeployed scope ok key der => Sys2Proof.Machine.execProvisionedToDeployed scope ok key der s
  | .deployedToReturned => Sys2Proof.Machine.execDeployedToReturned s
  | .scrap viaJ6 => Sys2Proof.Machine.execScrap viaJ6 s
  | .debugChallenge => Sys2Proof.Machine.execDebugChallenge s
  | .challengeExpiry => Sys2Proof.Machine.execChallengeExpiry s
  | .debugToken scope ok => Sys2Proof.Machine.execDebugToken scope ok s
  | .tenantOpen session pt => Sys2Proof.Machine.execTenantOpen session pt s
  | .declareParty session party hash => Sys2Proof.Machine.execDeclareParty session party hash s
  | .partyJoin session pt party pubKey signed => Sys2Proof.Machine.execPartyJoin session pt party pubKey signed s
  | .setJobKey session key => Sys2Proof.Machine.execSetJobKey session key s
  | .setCkptKey session key => Sys2Proof.Machine.execSetCkptKey session key s
  | .defineRegions session regions => Sys2Proof.Machine.execDefineRegions session regions s
  | .approveImage session digest => Sys2Proof.Machine.execApproveImage session digest s
  | .partyLeave session => Sys2Proof.Machine.execPartyLeave session s
  | .tenantClose session => Sys2Proof.Machine.execTenantClose session s
  | .scrubStart pt => Sys2Proof.Machine.execScrubStart pt s
  | .scrubEnd pt clean => Sys2Proof.Machine.execScrubEnd pt clean s
  | .attestationLock => Sys2Proof.Machine.execAttestationLock s
  | .standbyPllLock pt => Sys2Proof.Machine.execStandbyPllLock pt s
  | .muxHang pt => Sys2Proof.Machine.execMuxHang pt s
  | .clockStop pt => Sys2Proof.Machine.execClockStop pt s
  | .clockDomainRelock pt => Sys2Proof.Machine.execClockDomainRelock pt s
  | .currentLimitTrip pt grove draw => Sys2Proof.Machine.execCurrentLimitTrip pt grove draw s
  | .thermalStop grove => Sys2Proof.Machine.execThermalStop grove s
  | .thermalStopEnd grove => Sys2Proof.Machine.execThermalStopEnd grove s
  | .thermalShutdown => Sys2Proof.Machine.execThermalShutdown s
  | .sensorRead readings rails => Sys2Proof.Machine.execSensorRead readings rails s
  | .fmcStart => Sys2Proof.Machine.execFmcStart s
  | .fmcDone count => Sys2Proof.Machine.execFmcDone count s
  | .configArm abort => Sys2Proof.Machine.execConfigArm abort s
  | .configAbort => Sys2Proof.Machine.execConfigAbort s
  | .configCommitApply => Sys2Proof.Machine.execConfigCommitApply s
  | .powerEnable => Sys2Proof.Machine.execPowerEnable s
  | .powerDisable => Sys2Proof.Machine.execPowerDisable s
  | .supplyFault gone => Sys2Proof.Machine.execSupplyFault s gone
  | .moduleReset => Sys2Proof.Machine.execModuleReset s
  | .perstDeassert => Sys2Proof.Machine.execPerstDeassert s
  | .seedlingStage => Sys2Proof.Machine.execSeedlingStage s
  | .rootedStage c cert => Sys2Proof.Machine.execRootedStage c s cert
  | .leafedStage bad => Sys2Proof.Machine.execLeafedStage bad s
  | .fullStage => Sys2Proof.Machine.execFullStage s
  | .stageTimeout reason => Sys2Proof.Machine.execStageTimeout reason s
  | .canopyWatchdogExpiry => Sys2Proof.Machine.execCanopyWatchdogExpiry s
  | .canopySramError => Sys2Proof.Machine.execCanopySramError s
  | .canopyCoreRestart readOk => Sys2Proof.Machine.execCanopyCoreRestart readOk s
  | .logEntry => Sys2Proof.Machine.execLogEntry s
  | .logBlockClose => Sys2Proof.Machine.execLogBlockClose s
  | .tlsConnect certChainsToAnchor paramsOk => Sys2Proof.Machine.execTlsConnect certChainsToAnchor paramsOk s
  | .pldmSensorRead index => Sys2Proof.Machine.execPldmSensorRead index s
  | .getStatus => Sys2Proof.Machine.execGetStatus s
  | .readLog block => Sys2Proof.Machine.execReadLog block s
  | .setCap watts => Sys2Proof.Machine.execSetCap watts s
  | .resetModule => Sys2Proof.Machine.execResetModule s
  | .setAnchor network authenticated cert => Sys2Proof.Machine.execSetAnchor network authenticated cert s
  | .getCerts => Sys2Proof.Machine.execGetCerts s
  | .firmwareUpdate b => Sys2Proof.Machine.execFirmwareUpdate b s
  | .recoveryBegin flashOk => Sys2Proof.Machine.execRecoveryBegin flashOk s
  | .recoveryChunk flashOk => Sys2Proof.Machine.execRecoveryChunk s flashOk
  | .recoveryFinish c => Sys2Proof.Machine.execRecoveryFinish c s
  | .beatInEdge offset => Sys2Proof.Machine.execBeatInEdge offset s
  | .symbolLockLost port lane => Sys2Proof.Machine.execSymbolLockLost port lane s
  | .registerRead bar width off => Sys2Proof.Machine.execRegisterRead bar width off s
  | .supplyApplied => Sys2Proof.Machine.execSupplyApplied s
  | .checkpointExportDone pt => Sys2Proof.Machine.execCheckpointExportDone pt s
  | .graftEgressDone port graft => Sys2Proof.Machine.execGraftEgressDone port graft s
  | .traceEnable => Sys2Proof.Machine.execTraceEnable s

end Sys2Proof.Machine
end

