-- ==== Sys2Proof/Certificates/Slice0/Obligations.lean ====
section
/-!
DEFINITION. The statements about the module, one Prop each, in the order of OBLIGATIONS.json. `Yields c s P` says that the
command c completes in state s with a next state of which P holds.
-/

open Sys2Proof Sys2Proof.Machine

/-- The command completes in s, and P holds of the state after it. -/
def Sys2Proof.Machine.Yields (c : Instr) (s : State) (P : State → Prop) : Prop := ∃ t, exec c s = .next t ∧ P t

/-- A step executes the command at the front of the queue with the queue's rest. With an empty queue the block idles
(log entry 18, the model's choice). The queue of waiting commands, and that the block idles with none waiting, are the
model's (DESIGN CHOICE, log entry 18). -/
def Obligations.StepRunsTheFrontCommandOrIdles : Prop :=
  (∀ (c : Instr) (s : State), step { s with pending := c :: s.pending } = exec c s) ∧
  (∀ s : State, s.pending = [] → step s = .next s)

/-- A locked state: every state of Table 2-9 but UNLOCKED and HOLDOVER. -/
def Sys2Proof.Machine.CmbLocked (s : State) : Prop := s.cmb.st ≠ .unlocked ∧ s.cmb.st ≠ .holdover

/-- Loss of TREF or of a PLL's lock: REF_LOST is set; a locked Cambium enters HOLDOVER with its beat number kept and
no beat of the 64 counted; UNLOCKED and HOLDOVER stay, and in UNLOCKED the 100 µs count starts again (R64, R66, R67).
The way back from HOLDOVER: from the 65th beat after its entry UNLOCKED with frames off; TREF valid for 100 µs starts
the lock; the lock's end reports FREQ_LOCKED (R66, R67). Nothing else of the module changes with the lock's start but
the moment from which the bounds of Leafed and Full count (R465). Taking in TREF_STABLE and PLL_LOCK_DONE as commands
of their own is the model's choice (DESIGN CHOICE, log entry 6). Where its condition does not hold a command changes
nothing (DESIGN CHOICE, log entry 16). It says of each of these constructors where it completes with its own effect:
trefLost, pllLockLost, holdoverEnd, trefStable, pllLockDone. -/
def Obligations.ReferenceLossAndRelock : Prop :=
  (∀ s : State, ∀ c, c = Instr.trefLost ∨ c = Instr.pllLockLost →
     (CmbLocked s → Yields c s fun t =>
       t.cmb.st = .holdover ∧ t.cmb.holdBeats = 0 ∧ t.cmb.beat = s.cmb.beat ∧ t.evt.cmb.getLsbD 0 = true) ∧
     (s.cmb.st = .unlocked → Yields c s fun t =>
       t.cmb.st = .unlocked ∧ t.cmb.lockStarted = false ∧ t.evt.cmb.getLsbD 0 = true) ∧
     (s.cmb.st = .holdover → Yields c s fun t =>
       t.cmb.st = .holdover ∧ t.cmb.holdBeats = s.cmb.holdBeats ∧ t.evt.cmb.getLsbD 0 = true)) ∧
  (∀ s : State,
     (s.cmb.st = .holdover → 65 ≤ s.cmb.holdBeats → Yields .holdoverEnd s fun t =>
       t.cmb.st = .unlocked ∧ t.cmb.framesOff = true ∧ t.cmb.hops = 0 ∧ t.cmb.errBound = 0) ∧
     (s.cmb.st = .holdover → s.cmb.holdBeats < 65 → exec .holdoverEnd s = .next s) ∧
     (s.cmb.st = .unlocked → exec .trefStable s =
       .next { s with cmb := { s.cmb with tref := true, lockStarted := true },
                      pwr := { s.pwr with trefAt := some (s.pwr.trefAt.getD s.pwr.uptime) } }) ∧
     (s.cmb.st ≠ .unlocked → exec .trefStable s =
       .next { s with cmb := { s.cmb with tref := true },
                      pwr := { s.pwr with trefAt := some (s.pwr.trefAt.getD s.pwr.uptime) } }) ∧
     (s.cmb.st = .unlocked → s.cmb.lockStarted = true → Yields .pllLockDone s fun t =>
       t.cmb.st = .freqLocked ∧ t.cmb.pllLocked = true ∧ t.cmb.lockStarted = false ∧ t.cmb.beat = s.cmb.beat))

/-- What BEAT_OUT sends over a frame of 128 beats decodes, as BEAT_IN widths, to the number of the frame's first beat
(R45, Table 2-2). -/
def Obligations.BeatOutFramesDecodeAsBeatIn : Prop :=
  ∀ m : Nat, 128 * m + 127 < 2 ^ 64 →
    frameNumber ((List.range 128).map fun k => pulseWidth (128 * m + k)) = some (128 * m)

/-- A good BEAT_IN frame of number n, taken in at its 128th beat: while ACQUIRING the first sets phase and number, a
second of the next frame within half a nanosecond aligns, and a bad one between them breaks the row; while ALIGNED or
FLYWHEEL an inconsistent number is NUMBER_FAULT and acquires anew, while in HOLDOVER it is NUMBER_FAULT alone, and
FLYWHEEL ends at the first consistent frame within 2 ns (R53, R64, R67, R521). That a symbol error anywhere in the
frame makes it bad is the model's choice (DESIGN CHOICE, log entry 6). It says of each of these constructors where it
completes with its own effect: beatInFrame. -/
def Obligations.BeatInFrameAlignsOrFaults : Prop :=
  ∀ (s : State) (w : List Nat) (n : Nat), w.length = 128 → frameNumber w = some n → s.cmb.src = 1 →
    (s.cmb.st = .acquiring → s.cmb.stepped = false → Yields (.beatInFrame w) s fun t =>
      t.cmb.st = .acquiring ∧ t.cmb.beat = BitVec.ofNat 64 (n + 127) ∧ t.cmb.stepped = true ∧ t.cmb.good = 1) ∧
    (s.cmb.st = .acquiring → s.cmb.stepped = true → 1 ≤ s.cmb.good → s.cmb.lastGood + 128 = BitVec.ofNat 64 n →
      s.cmb.beat = BitVec.ofNat 64 (n + 127) →
      -32 ≤ s.cmb.phaseErr.toInt → s.cmb.phaseErr.toInt ≤ 32 → Yields (.beatInFrame w) s fun t =>
      t.cmb.st = .aligned ∧ t.cmb.beat = s.cmb.beat ∧ t.cmb.hops = 0 ∧ t.cmb.errBound = 80) ∧
    (∀ v : List Nat, v.length = 128 → frameNumber v = none → s.cmb.st = .acquiring → s.cmb.badCrc < 2 →
      exec (.beatInFrame v) s = .next { s with cmb := { s.cmb with good := 0, badCrc := s.cmb.badCrc + 1 } }) ∧
    (s.onGrid = true → s.cmb.beat ≠ BitVec.ofNat 64 (n + 127) → Yields (.beatInFrame w) s fun t =>
      t.cmb.st = .acquiring ∧ t.evt.cmb.getLsbD 4 = true ∧ t.cmb.beat = s.cmb.beat) ∧
    (s.cmb.st = .holdover → s.cmb.beat ≠ BitVec.ofNat 64 (n + 127) → Yields (.beatInFrame w) s fun t =>
      t.cmb.st = .holdover ∧ t.evt.cmb.getLsbD 4 = true ∧ t.cmb.beat = s.cmb.beat) ∧
    (s.cmb.st = .flywheel → s.cmb.beat = BitVec.ofNat 64 (n + 127) → -128 ≤ s.cmb.phaseErr.toInt →
      s.cmb.phaseErr.toInt ≤ 128 → Yields (.beatInFrame w) s fun t =>
      t.cmb.st = .aligned ∧ t.cmb.flyBeats = 0 ∧ t.cmb.beat = s.cmb.beat)

/-- Every step of s that runs before its commit is faulted in t. -/
def Sys2Proof.Machine.StepsFaulted (s t : State) : Prop :=
  ∀ p ∈ ptList s, ∀ r, (s.part p).running = some r → r.ph = .running →
    ∃ q, (t.part p).cur = some q ∧ q.faulted = true ∧ q.start = r.start

/-- Loss of the selected source: BEAT_IN missing, a third bad frame in a row, and missing markers set their event bits
and take ALIGNED to FLYWHEEL, whose beat number runs on (Table 2-5). A frame with a symbol error counts among the
three (DESIGN CHOICE, log entry 6). FLYWHEEL that has lasted its limit, and a BEAT_IN edge beyond 2 ns of the
boundary, are ALIGN_FAULT: every running step has a fault of this beat, and Cambium acquires anew; an edge within 2 ns
is the phase to correct (R52, R64). It says of each of these constructors where it completes with its own effect:
beatInFrame, beatInLost, markerLost, flywheelLimit, beatInEdge. -/
def Obligations.SourceLossFlywheelsAndAlignFaultAcquires : Prop :=
  (∀ s : State, s.cmb.st = .aligned →
     (s.cmb.src = 1 → Yields .beatInLost s fun t =>
       t.cmb.st = .flywheel ∧ t.cmb.flyBeats = 0 ∧ t.cmb.beat = s.cmb.beat ∧ t.evt.cmb.getLsbD 1 = true) ∧
     (s.cmb.src = 1 → s.cmb.badCrc = 2 → ∀ w : List Nat, w.length = 128 → frameNumber w = none →
       Yields (.beatInFrame w) s fun t =>
         t.cmb.st = .flywheel ∧ t.cmb.badCrc = 0 ∧ t.cmb.beat = s.cmb.beat ∧ t.evt.cmb.getLsbD 1 = true) ∧
     (s.cmb.src = 2 → Yields .markerLost s fun t =>
       t.cmb.st = .flywheel ∧ t.cmb.flyBeats = 0 ∧ t.cmb.beat = s.cmb.beat ∧ t.evt.cmb.getLsbD 2 = true)) ∧
  (∀ s : State,
     (s.cmb.st = .flywheel → s.cmb.flyLimit.toNat ≤ s.cmb.flyBeats → Yields .flywheelLimit s fun t =>
       t.cmb.st = .acquiring ∧ t.evt.cmb.getLsbD 3 = true ∧ StepsFaulted s t) ∧
     (∀ o : Int, s.cmb.src = 1 → s.onGrid = true → -2 ^ 31 ≤ o - s.cmb.inDelay.toInt →
       o - s.cmb.inDelay.toInt < 2 ^ 31 →
       (-128 ≤ o - s.cmb.inDelay.toInt → o - s.cmb.inDelay.toInt ≤ 128 → Yields (.beatInEdge o) s fun t =>
         t.cmb.st = s.cmb.st ∧ t.cmb.phaseErr.toInt = o - s.cmb.inDelay.toInt ∧
         t.cmb.residue = 1000 * (o - s.cmb.inDelay.toInt) ∧ t.cmb.beat = s.cmb.beat) ∧
       (¬(-128 ≤ o - s.cmb.inDelay.toInt ∧ o - s.cmb.inDelay.toInt ≤ 128) → Yields (.beatInEdge o) s fun t =>
         t.cmb.st = .acquiring ∧ t.evt.cmb.getLsbD 3 = true ∧ StepsFaulted s t)))

/-- A marker from the beat parent port: one without its ALIGNED flag is ignored; any other gives HOPS, ERR_BOUND, the
origin and the phase error in ACQUIRING, ALIGNED, FLYWHEEL and HOLDOVER alike. While ACQUIRING the first of a chain
whose bound stays within 2.0 ns sets the beat number, a bound above 2.0 ns sets DEPTH_EXCEEDED and aligns nothing, and
after the first another number is NUMBER_FAULT; on the grid a marker of the same number within 2 ns is the phase to
correct, and ends FLYWHEEL (R50 to R53, R64, R521). That a bound above 2.0 ns holds back an acquisition only is the
model's choice (DESIGN CHOICE, log entry 6). A delay request is answered by a delay reply record with the request's
stamp and beat, the receive offset, the offset of the reply's control slot and the beat of receipt, queued in the port
and changing nothing else (R307); a delay reply stores the one-way delay, and one above 500 ns fails the port (R50,
R283). Half of an odd sum of stamps is rounded down (DESIGN CHOICE, log entry 6). The layout of the records is
PRESUMED where the spec leaves it open (log entry 11). Where its condition does not hold a command changes nothing
(DESIGN CHOICE, log entry 16). It says of each of these constructors where it completes with its own effect:
beatMarker, delayRequest, delayReply. -/
def Obligations.MarkersAndDelaysAlignToTheParent : Prop :=
  (∀ (s : State) (port : Nat) (rec : List Byte) (rxBeat : DWord) (rxOff : Int), port < s.variant.ports →
     s.cmb.src = 2 → s.cmb.parent = port → (s.port port).mode = 0 →
     (getLE rec 1 1 % 2 = 0 → exec (.beatMarker port rec rxBeat rxOff) s = .next s) ∧
     (getLE rec 1 1 % 2 = 1 →
       ∀ base, base = (if getLE rec 1 1 / 2 % 2 = 1 then 80 else 0) →
       ∀ d, d = 64000 * ((getLE rec 8 8 : Nat) : Int) + getLE rec 4 4 + (mget 0 s.cmb.portDelay port : Word).toInt -
           (64000 * (rxBeat.toNat : Int) + rxOff) →
       ∀ n, n = (d + 32000).fdiv 64000 →
       (s.cmb.st = .acquiring ∨ s.cmb.st = .holdover ∨ s.onGrid = true →
         Yields (.beatMarker port rec rxBeat rxOff) s fun t =>
           t.cmb.origin = decide (getLE rec 1 1 / 2 % 2 = 1) ∧ t.cmb.phaseErr = BitVec.ofInt 32 (64000 * n - d)) ∧
       (s.cmb.st = .holdover → Yields (.beatMarker port rec rxBeat rxOff) s fun t =>
           t.cmb.st = .holdover ∧ t.cmb.beat = s.cmb.beat ∧ t.cmb.hops = getLE rec 2 1 + 1 ∧
           t.cmb.errBound = base + 16 * (getLE rec 2 1 + 1)) ∧
       (s.cmb.st = .acquiring → base + 16 * (getLE rec 2 1 + 1) ≤ 128 → s.cmb.stepped = false →
         Yields (.beatMarker port rec rxBeat rxOff) s fun t =>
           t.cmb.st = .acquiring ∧ t.cmb.stepped = true ∧ t.cmb.hops = getLE rec 2 1 + 1 ∧
           t.cmb.errBound = base + 16 * (getLE rec 2 1 + 1) ∧ t.cmb.beat = s.cmb.beat + BitVec.ofInt 64 n) ∧
       (s.cmb.st = .acquiring → 128 < base + 16 * (getLE rec 2 1 + 1) → s.cmb.stepped = false →
         Yields (.beatMarker port rec rxBeat rxOff) s fun t =>
           t.cmb.st = .acquiring ∧ t.cmb.stepped = false ∧ t.cmb.beat = s.cmb.beat ∧ t.evt.cmb.getLsbD 6 = true) ∧
       (s.cmb.st = .acquiring → s.cmb.stepped = true → n ≠ 0 → Yields (.beatMarker port rec rxBeat rxOff) s fun t =>
           t.cmb.st = .acquiring ∧ t.evt.cmb.getLsbD 4 = true) ∧
       (s.onGrid = true → n = 0 → -128 ≤ -d → -d ≤ 128 → Yields (.beatMarker port rec rxBeat rxOff) s fun t =>
           t.cmb.st = .aligned ∧ t.cmb.beat = s.cmb.beat ∧ t.cmb.residue = 1000 * -d ∧
           t.cmb.hops = getLE rec 2 1 + 1 ∧ t.cmb.errBound = base + 16 * (getLE rec 2 1 + 1)))) ∧
  (∀ (s : State) (port : Nat) (rec : List Byte) (rxBeat : DWord) (rxOff : Int), port < s.variant.ports →
     (s.port port).active = true →
     exec (.delayRequest port rec rxBeat rxOff) s = .next (s.setPort port { s.port port with
       waiting := (s.port port).waiting ++ [padTo 32 ([4, 0, 0, 0] ++ (rec.drop 4).take 12 ++
         toLE 4 (BitVec.ofInt 32 rxOff).toNat ++ toLE 4 63812 ++ toLE 8 rxBeat.toNat)] }) ∧
     Yields (.delayReply port rec rxBeat rxOff) s (fun t => t.cmb = { s.cmb with
       portDelay := mput 0 s.cmb.portDelay port (BitVec.ofInt 32 (delayOf rec rxBeat rxOff)) }) ∧
     (∀ d, d = delayOf rec rxBeat rxOff → d ≤ 32000 → (∀ p, ptOfPort s port = some p → (s.part p).running = none) →
       exec (.delayReply port rec rxBeat rxOff) s = .next { s with cmb := { s.cmb with
         portDelay := mput 0 s.cmb.portDelay port (BitVec.ofInt 32 d) } }) ∧
     (32000 < delayOf rec rxBeat rxOff → Yields (.delayReply port rec rxBeat rxOff) s fun t =>
       (t.port port).st = .failed ∧ (t.evt.get (.bgh port)).getLsbD 8 = true ∧
       mget 0 t.cmb.portDelay port = BitVec.ofInt 32 (delayOf rec rxBeat rxOff)))

/-- The beat root: ROOT_START written in FREQ_LOCKED with SRC 0 is kept, the next beat boundary loads the root beat
number and reports ALIGNED; written in any other state or with any other source it changes nothing (R54). Where its
condition does not hold a command changes nothing (DESIGN CHOICE, log entry 16). It says of each of these constructors
where it completes with its own effect: beatBoundary, rootStart. -/
def Obligations.RootStartLoadsTheRootNumber : Prop :=
  ∀ s : State,
    (s.rooted = true → s.cmb.st = .freqLocked → s.cmb.src = 0 →
      exec .rootStart s = .next { s with cmb := { s.cmb with rootPending := true } }) ∧
    (s.rooted = true → ¬(s.cmb.st = .freqLocked ∧ s.cmb.src = 0) → exec .rootStart s = .next s) ∧
    (s.powered = true → s.pwr.rcvReady = false → s.cmb.st = .freqLocked → s.cmb.src = 0 → s.cmb.rootPending = true →
      Yields .beatBoundary s fun t => t.cmb.st = .aligned ∧ t.cmb.beat = s.cmb.rootHi ++ s.cmb.rootLo)

/-- A beat boundary: the beat number rises by one while ALIGNED, FLYWHEEL or HOLDOVER and those states stay; the phase
moves by at most 10 ps; UNLOCKED counts local beats; FREQ_LOCKED with another source than the root begins to acquire;
in Dormant only the uptime counts, from PWR_OK on (R42, R52, R66, R462, R465). No clause is about a boundary at which
the recovery loader resets the module (R487). Trace enabled through J6 takes the trace pins, but not where a committed
BEAT_OUT or an image owns them: then PIN_CONFLICT is set and the write is ignored; where trace is not open nothing
happens (R48, R501). Where its condition does not hold a command changes nothing (DESIGN CHOICE, log entry 16). It
says of each of these constructors where it completes with its own effect: beatBoundary, traceEnable. -/
def Obligations.BeatBoundaryCountsAndTraceYields : Prop :=
  (∀ s : State, (s.powered = true → s.pwr.rcvReady = false) →
     (s.powered = false → exec .beatBoundary s =
       .next { s with pwr := { s.pwr with uptime := if s.pwr.pwrOk then s.pwr.uptime + 1 else s.pwr.uptime } }) ∧
     (s.powered = true → s.cmb.st = .aligned ∨ s.cmb.st = .flywheel ∨ s.cmb.st = .holdover →
       Yields .beatBoundary s fun t =>
         t.cmb.st = s.cmb.st ∧ t.cmb.beat = s.cmb.beat + 1 ∧
         -640 ≤ t.cmb.phase - s.cmb.phase ∧ t.cmb.phase - s.cmb.phase ≤ 640 ∧
         t.cmb.flyBeats = (if s.cmb.st = .flywheel then s.cmb.flyBeats + 1 else s.cmb.flyBeats) ∧
         t.cmb.holdBeats = (if s.cmb.st = .holdover then s.cmb.holdBeats + 1 else s.cmb.holdBeats) ∧
         t.pwr.uptime = s.pwr.uptime + 1) ∧
     (s.powered = true → s.cmb.st = .unlocked → Yields .beatBoundary s fun t =>
         t.cmb.st = .unlocked ∧ t.cmb.localBeat = s.cmb.localBeat + 1 ∧ t.cmb.beat = s.cmb.beat) ∧
     (s.powered = true → s.cmb.st = .freqLocked → s.cmb.src ≠ 0 → Yields .beatBoundary s fun t =>
         t.cmb.st = .acquiring ∧ t.cmb.hops = 0 ∧ t.cmb.errBound = 0)) ∧
  (∀ s : State, s.powered = true →
     (traceOpen s = false → exec .traceEnable s = .next s) ∧
     (traceOpen s = true → s.cmb.beatOut = false →
       (∀ p ∈ ptList s, imageOwns s p 1 = false ∧ imageOwns s p 2 = false) →
       exec .traceEnable s = .next { s with cmb := { s.cmb with trace := true } }) ∧
     (traceOpen s = true → s.cmb.beatOut = true ∨ (∃ p ∈ ptList s, imageOwns s p 1 = true ∨ imageOwns s p 2 = true) →
       Yields .traceEnable s fun t => t.cmb = s.cmb ∧ t.evt.cmb.getLsbD 5 = true))

/-- Word w of opcode op is the next word of its stream in the running step r, and its start ac lies in the beat that
runs and has not passed. -/
def Sys2Proof.Machine.WordRuns (a : WordAt) (w : OpWord) (op : Nat) (s : State) (r : StepRun) : Prop :=
  (s.part a.pt).running = some r ∧ r.replay = false ∧ a.pt < 4 ∧ a.cl < 800 ∧ wOp w = op ∧ wordDue s a w r = true

/-- The start ac of a stream's next word: DELTA after the start of the word before it. -/
def Sys2Proof.Machine.startAc (s : State) (a : WordAt) (w : OpWord) : Nat := (streamAt s a).t + wDelta w

/-- Stream time has run to the word's start ac, and its stream has gone on by one word, which ends it where it is END.
-/
def Sys2Proof.Machine.moved (s : State) (a : WordAt) (w : OpWord) : State :=
  (s.advance a.pt (startAc s a w)).setStream a
    { t := startAc s a w, words := (streamAt (s.advance a.pt (startAc s a w)) a).words + 1, ended := wOp w == 1 }

/-- The word as it is under way: its start ac, the descriptor that it names and the count that it takes there. -/
def Sys2Proof.Machine.flightOf (s : State) (a : WordAt) (w : OpWord) (r : StepRun) : Flight :=
  newFlight (s.advance a.pt (startAc s a w)) a w (startAc s a w) (wordDesc (wordSec s a r) w)

/-- Every command that runs a word of a stream. -/
def Sys2Proof.Machine.wordCommands (a : WordAt) (w : OpWord) (d : List Byte) : List Instr :=
  [.nop a w, .endWord a w, .wld a w, .wldt a w, .mm a w, .mmt a w d, .vchain a w d, .vroute a w d, .gather a w d,
    .combine a w d, .scaleGather a w d, .countLoad a w d, .ldc a w, .stc a w, .send a w, .gvsend a w, .lktx a w, .lkrx a w, .stpush a w,
    .stpop a w]

/-- f, a word of opcode op, is the one word of its partition's step r that is under way, in its ac k, and no sum of a
grove vector engine is landing. -/
def Sys2Proof.Machine.LoneWord (s : State) (r : StepRun) (f : Flight) (op k : Nat) : Prop :=
  (s.part f.at_.pt).cur = some r ∧ r.flights = [f] ∧ r.emits = [] ∧ wOp f.w = op ∧ r.clock = f.t + k ∧ k < wDur f.w

/-- The state after one ac of the word's partition. -/
def Sys2Proof.Machine.afterAc (s : State) (f : Flight) : State := s.cycle f.at_.pt

/-- After the ac the word under way has become g, and stream time is one ac further. -/
def Sys2Proof.Machine.WordIs (s : State) (f g : Flight) (r : StepRun) : Prop :=
  ∃ q, ((afterAc s f).part f.at_.pt).cur = some q ∧ q.flights = [g] ∧ q.clock = r.clock + 1

/-- Every byte outside n bytes from device address a reads in t as in s. -/
def Sys2Proof.Machine.KeepsOutside (s t : State) (a n : Nat) : Prop := ∀ b, ¬(a ≤ b ∧ b < a + n) → readB t b = readB s b

/-- A word that is due in its stream starts in its ac: NOP and END only move their stream on, WLD, WLDT, MM, MMT,
VCHAIN, VROUTE, GVSEND and the four modes of VMOVE are under way from there with the descriptor and count they name;
after END no word of the stream does anything. While a word is under way stream time runs on ac by ac (R72, R104,
R107, R113). A WLD takes in 1,024 bytes of its stored tile in each ac, and its last ac puts the tile into the
background buffer; a WLDT takes in a source row in each of 64 ac, and its last ac puts them in across the diagonal.
Element (k, n) of an unscaled format is the decoded element n of row k, or element k of row n, within KROWS and COLS,
and zero elsewhere; the foreground tile and every byte of memory stay (R117, R118, R124, R522). Where its condition
does not hold a command changes nothing (DESIGN CHOICE, log entry 16). It says of each of these constructors where it
completes with its own effect: nop, endWord, wld, wldt, mm, mmt, vchain, vroute, gather, combine, scaleGather,
countLoad, gvsend. -/
def Obligations.NopEndAndWeightLoads : Prop :=
  (∀ (a : WordAt) (w : OpWord) (s : State) (r : StepRun),
     (WordRuns a w 0x00 s r → exec (.nop a w) s = .next (moved s a w)) ∧
     (WordRuns a w 0x01 s r → exec (.endWord a w) s = .next (moved s a w)) ∧
     (WordRuns a w 0x10 s r → exec (.wld a w) s = .next ((moved s a w).fly (flightOf s a w r))) ∧
     (WordRuns a w 0x11 s r → exec (.wldt a w) s = .next ((moved s a w).fly (flightOf s a w r))) ∧
     (WordRuns a w 0x12 s r → exec (.mm a w) s = .next ((moved s a w).fly (flightOf s a w r))) ∧
     (WordRuns a w 0x13 s r → exec (.mmt a w (wordDesc (wordSec s a r) w)) s = .next ((moved s a w).fly (flightOf s a w r))) ∧
     (WordRuns a w 0x20 s r → exec (.vchain a w (wordDesc (wordSec s a r) w)) s = .next ((moved s a w).fly (flightOf s a w r))) ∧
     (WordRuns a w 0x21 s r → exec (.vroute a w (wordDesc (wordSec s a r) w)) s = .next ((moved s a w).fly (flightOf s a w r))) ∧
     (WordRuns a w 0x33 s r → exec (.gvsend a w) s = .next ((moved s a w).fly (flightOf s a w r))) ∧
     (WordRuns a w 0x22 s r → ∀ d m, d = wordDesc (wordSec s a r) w → m = mvMode d →
       (m = 0 → exec (.gather a w d) s = .next ((moved s a w).fly (flightOf s a w r))) ∧
       (m = 1 → exec (.combine a w d) s = .next ((moved s a w).fly (flightOf s a w r))) ∧
       (m = 2 → exec (.scaleGather a w d) s = .next ((moved s a w).fly (flightOf s a w r))) ∧
       (m = 3 → exec (.countLoad a w d) s = .next ((moved s a w).fly (flightOf s a w r)))) ∧
     (a.pt < 4 → a.cl < 800 → (streamAt s a).ended = true → ∀ d, ∀ i ∈ wordCommands a w d, exec i s = .next s) ∧
     (∀ t, (s.part a.pt).cur = some r → quiet s a.pt = false → r.clock < t →
       s.advance a.pt t = (State.cycles (t - r.clock - 1) a.pt (s.cycle a.pt)).updRun a.pt fun q =>
         { q with clock := max q.clock t })) ∧
  (∀ (s : State) (r : StepRun) (f : Flight) (k fmt kr co : Nat), fmt = wBits f.w 53 50 → kr = wBits f.w 49 41 + 1 →
     co = wBits f.w 40 35 + 1 →
     (LoneWord s r f 0x10 k → ∀ bs, bs = f.bytes ++ ((List.range (min 1024 (tileBytes fmt - 1024 * k))).map fun i =>
         spadB s f.c (wSrc f.w + tileByte fmt (wPitch f.w) (1024 * k + i))) →
       (afterAc s f).mem = s.mem ∧
       (k + 1 < wDur f.w → WordIs s f { f with bytes := bs } r ∧ (afterAc s f).cluster f.c = s.cluster f.c) ∧
       (k + 1 = wDur f.w → fmt ≤ 3 → kr ≤ 128 → bs.length = tileBytes fmt → ∀ t, t = (afterAc s f).cluster f.c →
         t.bg.fmt = fmt ∧ t.fg = (s.cluster f.c).fg ∧ ∀ i < 128, ∀ n < 64, (t.bg.col 128 n).getD i .nan =
           if n < co ∧ i < kr then
             decodeN (elemFmt fmt) (elemCode ((bs.drop (64 * (elemFmt fmt).width / 8 * i)).take
               (64 * (elemFmt fmt).width / 8)) (elemFmt fmt).width n)
           else .zero)) ∧
     (LoneWord s r f 0x11 k → (afterAc s f).mem = s.mem ∧
       (k < 64 → k + 1 < wDur f.w → WordIs s f
         { f with lines := f.lines ++ [(k, spadR s f.c (wSrc f.w + wPitch f.w * k) (128 * tbBytes fmt))] } r) ∧
       (∀ rows : Nat → List Byte, 64 ≤ k → k + 1 = wDur f.w → fmt ≤ 3 → kr ≤ 128 →
         f.lines = (List.range 64).map (fun i => (i, rows i)) → ∀ t, t = (afterAc s f).cluster f.c →
         t.bg.fmt = fmt ∧ t.fg = (s.cluster f.c).fg ∧ ∀ i < 128, ∀ n < 64, (t.bg.col 128 n).getD i .nan =
           if n < co ∧ i < kr then decodeN (elemFmt fmt) (leNat (((rows n).drop (tbBytes fmt * i)).take (tbBytes fmt)))
           else .zero)))

/-- The foreground tile of a pass in ac k, after the swap its word asks for (R119). -/
def Sys2Proof.Machine.passTile (s : State) (f : Flight) (k : Nat) : Tile :=
  if wSwap f.w = true ∧ k = passEntry f.w then (s.cluster f.c).bg else (s.cluster f.c).fg

/-- A row that enters the array: its 64 pass values over the tile's columns, and its check against the checksum
columns. -/
def Sys2Proof.Machine.rowEntry (t : Tile) (m : Nat) (row : List Ext) : Nat × List Word × Option Bool :=
  let y := (List.range 64).map fun n => passValue row (t.col row.length n)
  (m, y, rowCheck row y (padExt row.length t.wc) (padExt row.length t.ac))

/-- In the ac of its row slot an MM reads activation row m as it stands and forms its pass values; the row slot after
the last takes in the seal's row of ones; with SWAP the tiles have changed places at the first (R117, R119, R121,
R122, R126, R127, R522). An MMT reads a source row of a 128-row block in each fill ac, keeping two blocks, and holds a
block in the transposing buffer from its last row on; in the ac of array row m it forms the pass values of source
column m, unless its mask leaves the row out (R122, R125, R171 to R173). In the ac of its write a pass of MM or MMT
writes row m by its MODE: its pass values, their sums with what the row held, or nothing; every byte outside the row
reads as before. A row whose check fails is a fault of the step, one that is not checked is counted. In the word's
last ac the seal is judged, and nothing is written (R122, R126 to R129, R132, R133). -/
def Obligations.MatrixPassesWriteThePassValues : Prop :=
  (∀ (s : State) (r : StepRun) (f : Flight) (k m : Nat) (t : Tile), LoneWord s r f 0x12 k → k = m * passR f.w →
     k + 1 < wDur f.w → t = passTile s f k →
     ((afterAc s f).cluster f.c).fg = t ∧
     (m < f.cnt → WordIs s f { f with rows := f.rows ++ [rowEntry t m ((List.range (tileK t.fmt)).map fun j =>
       rowElem (spadR s f.c (wSrc f.w + wPitch f.w * m) (rowBytes (wBits f.w 26 23) (tileK t.fmt))) (wBits f.w 26 23)
         (tileK t.fmt) j)] } r) ∧
     (f.cnt ≤ m → m = passM f.w → WordIs s f { f with
       rows := f.rows ++ [(m, t.sealRow (tileK t.fmt), some (t.sealRow (tileK t.fmt) == t.sealed))] } r)) ∧
  (∀ (s : State) (r : StepRun) (f : Flight) (k : Nat), LoneWord s r f 0x13 k → k + 1 < wDur f.w →
     (∀ b i, mmtFill f.w k = some (b, i) → ∃ g, WordIs s f g r ∧
       g.lines = (f.lines.filter fun l => b ≤ l.1 / 128 + 1) ++ [(128 * b + i, spadR s f.c (wSrc f.w +
         b * 128 * tbBytes (wBits f.w 26 23) + wPitch f.w * i) (128 * tbBytes (wBits f.w 26 23)))] ∧
       (i = 127 → ((afterAc s f).cluster f.c).tb = mmtTb g b)) ∧
     (∀ m t, k = 128 + m * passR f.w → m < f.cnt → t = passTile s f k → ∃ g, WordIs s f g r ∧
       ((afterAc s f).cluster f.c).fg = t ∧
       (maskRow f.desc m = true → g.rows = f.rows ++ [rowEntry t m ((f.lines.filter fun l => l.1 / 128 = m / 128).map fun l =>
         tbElem (wBits f.w 26 23) ((l.2.drop (tbBytes (wBits f.w 26 23) * (m % 128))).take (tbBytes (wBits f.w 26 23))))]) ∧
       (maskRow f.desc m = false → g.rows = f.rows))) ∧
  (∀ (s : State) (r : StepRun) (f : Flight) (op k : Nat), op = 0x12 ∨ op = 0x13 → LoneWord s r f op k → r.ph = .running →
     (∀ m y ok, k = passBase f.w + m * passR f.w → k + 1 < wDur f.w → itemAt m f.rows = some (y, ok) → y.length = 64 →
       (wBits f.w 22 21 = 0 → 64 * wBits f.w 39 27 + 256 * m + 256 ≤ accSize →
         accR (afterAc s f) f.c (64 * wBits f.w 39 27 + 256 * m) 256 = f32Bytes y ∧
         KeepsOutside s (afterAc s f) (accBase f.c + 64 * wBits f.w 39 27 + 256 * m) 256) ∧
       (wBits f.w 22 21 = 1 → 64 * wBits f.w 39 27 + 256 * m + 256 ≤ accSize →
         (∀ n < 64, f32At (accR (afterAc s f) f.c (64 * wBits f.w 39 27 + 256 * m + 4 * n) 4) 0 =
           rne ((ofF32 (f32At (accR s f.c (64 * wBits f.w 39 27 + 256 * m + 4 * n) 4) 0)).add (ofF32 (y.getD n 0)))) ∧
         KeepsOutside s (afterAc s f) (accBase f.c + 64 * wBits f.w 39 27 + 256 * m) 256) ∧
       (wBits f.w 22 21 = 2 → 64 * wBits f.w 39 27 + 512 * m + 512 ≤ accSize →
         accR (afterAc s f) f.c (64 * wBits f.w 39 27 + 512 * m) 512 =
           accRowBytes (accR s f.c (64 * wBits f.w 39 27 + 512 * m) 512) 2 y ∧
         KeepsOutside s (afterAc s f) (accBase f.c + 64 * wBits f.w 39 27 + 512 * m) 512) ∧
       (wBits f.w 22 21 = 3 → (afterAc s f).mem = s.mem) ∧
       (∃ q, ((afterAc s f).part f.at_.pt).cur = some q ∧ (ok = none → q.unchecked = r.unchecked + 1 ∧ q.keys = r.keys) ∧
         (ok = some true → q.unchecked = r.unchecked ∧ q.keys = r.keys) ∧ (ok = some false → q.faulted = true))) ∧
     (∀ v ok, k + 1 = wDur f.w → passBase f.w ≤ k → itemAt (passM f.w) f.rows = some (v, some ok) →
       (afterAc s f).mem = s.mem ∧ ∃ q, ((afterAc s f).part f.at_.pt).cur = some q ∧
         (ok = true → q.keys = r.keys) ∧ (ok = false → q.faulted = true)))

/-- A VCHAIN reads a group of 256 elements in each of its first ac, as far as its count reaches; 16 + 4S ac later,
with stages and no conversion or reduction, it writes the last stage's FP32 value of each element of the group to its
scratchpad destination, and every byte outside the group's 1,024 bytes reads as before (R102, R113, R137 to R140,
R144). -/
def Obligations.VchainWritesItsStageResults : Prop :=
  ∀ (s : State) (r : StepRun) (f : Flight) (k : Nat), LoneWord s r f 0x20 k →
    (k < chainGroups f.w → k + 1 < wDur f.w → WordIs s f { f with
      elems := f.elems ++ (List.range 256).filterMap fun i =>
        if 256 * k + i < min (chainE f.w) f.cnt then some (readElem s f.c f.desc (chainE f.w) (256 * k + i)) else none } r) ∧
    (∀ g, k = 16 + 4 * dS f.desc + g → chainGroups f.w ≤ k → 0 < dS f.desc → dCvt f.desc = none →
      (∀ x ∈ dStages f.desc, isReduction x.op = false) → dDstKind f.desc = 0 →
      32 * dDstAddr f.desc + 1024 * g + 1024 ≤ spadSize → (f.elems.map ElemRead.i).Nodup →
      (∀ e ∈ f.elems, e.i / 256 = g →
        f32At (spadR (afterAc s f) f.c (32 * dDstAddr f.desc + 4 * e.i) 4) 0 = e.trace.getLastD 0) ∧
      KeepsOutside s (afterAc s f) (spadBase f.c + 32 * dDstAddr f.desc + 1024 * g) 1024)

/-- In its last ac a VROUTE makes, for every token of its count whose enabled logits are all finite, k choices (or one
for each enabled expert where there are fewer), and routes or drops each of them; the other tokens are counted as not
finite (R113, R190, R191, R194). That it acts in its last ac is the model's choice (DESIGN CHOICE, log entry 24). -/
def Obligations.VrouteRoutesOrDropsEveryChoice : Prop :=
  ∀ (s : State) (r : StepRun) (f : Flight) (k nf : Nat), LoneWord s r f 0x21 k → k + 1 = wDur f.w →
    nf = ((List.range f.cnt).filter fun t => (rtEnabled f.desc (wBits f.w 51 44 + 1)).any fun e =>
      !(ofF32 (f32At (spadR s f.c (32 * getLE f.desc 4 4 + t * (32 * getLE f.desc 8 2) + 4 * e.e) 4) 0)).isFin).length →
    ∃ q, ((afterAc s f).part f.at_.pt).cur = some q ∧
      q.routed + q.dropped = r.routed + r.dropped +
        min (wBits f.w 43 41 + 1) (rtEnabled f.desc (wBits f.w 51 44 + 1)).length * (f.cnt - nf) ∧
      q.nonfiniteTokens = r.nonfiniteTokens + nf ∧ q.flights = []

/-- GATHER takes in the row of each record's token and SCALE_GATHER the row times the record's gate, a fill record
giving a row of zeros, one record every w ac; 24 ac later the row stands in its place of the destination, and every
byte outside it reads as before (R113, R200, R201). 24 ac after it has taken a record in, COMBINE adds the gate times
the source row into the destination row of the record's token as it then stands, element by element, and leaves every
other byte; a fill record leaves all of memory. In its last ac COUNT_LOAD truncates an entry at its bound, counts the
excess, attaches the bound, and leaves all of memory (R114, R201, R202, R204). -/
def Obligations.VmovesGatherCombineAndLoadCounts : Prop :=
  (∀ (s : State) (r : StepRun) (f : Flight) (k i : Nat), LoneWord s r f 0x22 k →
     mvMode f.desc = 0 ∨ mvMode f.desc = 2 →
     (∀ t g, k = i * mvAc f.w → i < f.cnt → k + 1 < wDur f.w →
       t = getLE (spadR s f.c (32 * getLE f.desc 4 4 + 8 * i) 8) 4 2 →
       g = f32At (spadR s f.c (32 * getLE f.desc 4 4 + 8 * i) 8) 0 → ∀ src,
       src = spadR s f.c (32 * (getLE f.desc 8 4 + t * getLE f.desc 12 4)) (mvLen f.w) →
       WordIs s f { f with lines := f.lines ++ [(i, if t = 0xFFFF then zeros (mvLen f.w)
         else if mvMode f.desc = 0 then src
         else f32Bytes ((rowF32 src).map fun v => rne ((ofF32 g).mul (ofF32 v))))] } r) ∧
     (∀ row, k = 24 + i * mvAc f.w → itemAt i f.lines = some row → row.length = mvLen f.w →
       32 * (getLE f.desc 16 4 + i * getLE f.desc 20 4) + mvLen f.w ≤ spadSize →
       spadR (afterAc s f) f.c (32 * (getLE f.desc 16 4 + i * getLE f.desc 20 4)) (mvLen f.w) = row ∧
       KeepsOutside s (afterAc s f) (spadBase f.c + 32 * (getLE f.desc 16 4 + i * getLE f.desc 20 4)) (mvLen f.w))) ∧
  (∀ (s : State) (r : StepRun) (f : Flight) (k i : Nat), LoneWord s r f 0x22 k →
     (∀ t g row, mvMode f.desc = 1 → k = 24 + i * mvAc f.w → itemAt i f.recs = some (t, g) → itemAt i f.lines = some row →
       row.length = mvLen f.w →
       (t ≠ 0xFFFF → 32 * (getLE f.desc 16 4 + t * getLE f.desc 20 4) + mvLen f.w ≤ spadSize →
         spadR (afterAc s f) f.c (32 * (getLE f.desc 16 4 + t * getLE f.desc 20 4)) (mvLen f.w) =
           f32Bytes (List.zipWith (fun o v => rne ((ofF32 o).add ((ofF32 g).mul (ofF32 v))))
             (rowF32 (spadR s f.c (32 * (getLE f.desc 16 4 + t * getLE f.desc 20 4)) (mvLen f.w))) (rowF32 row)) ∧
         KeepsOutside s (afterAc s f) (spadBase f.c + 32 * (getLE f.desc 16 4 + t * getLE f.desc 20 4)) (mvLen f.w)) ∧
       (t = 0xFFFF → (afterAc s f).mem = s.mem)) ∧
     (∀ line j v mx, mvMode f.desc = 3 → k + 1 = wDur f.w → 0 < k → itemAt 0 f.lines = some line → j < 12 →
       getLE f.desc 24 2 = 2 ^ j → v = getLE line (4 * j) 4 →
       boundMax (stepImage s f.at_.pt) (getLE f.desc (40 + 2 * j) 2) = some mx →
       ((afterAc s f).cluster f.c).count (field (getLE f.desc 32 8) (4 * j) 4) =
         { val := min v mx, bound := some (getLE f.desc (40 + 2 * j) 2) } ∧ (afterAc s f).mem = s.mem ∧
       ∃ q, ((afterAc s f).part f.at_.pt).cur = some q ∧ q.crExcess = r.crExcess + (v - mx)))

/-- LDC and STC start where their range lies in a way of the own grove's Crown or in an open window, LDC only where
its fill has landed; elsewhere LDC is a CROWN_READ fault and STC moves nothing, and out of the partition the firewall
drops them. LDC reads line k in ac k and writes it in ac 96 + k, STC writes it in ac 64 + k, and every other byte
reads as before (R36, R208, R209, R229, R231). SEND starts towards a cluster of its partition; a target outside is
dropped by the firewall. It reads line k in ac k, and the line stands at the target 48 ac later within a grove and 160
ac later between groves; every other byte reads as before (R22, R36, R100, R102). It says of each of these
constructors where it completes with its own effect: ldc, stc, send. -/
def Obligations.LineWordsCopyAndLeaveTheRest : Prop :=
  ((∀ (a : WordAt) (w : OpWord) (s u : State) (r : StepRun) (f : Flight) (addr m : Nat), u = moved s a w →
     f = flightOf s a w r → m = 64 * wBits w 62 25 →
     (∀ off, m / 64 * 64 = m → inPartition u a.pt m (64 * crownN w) = true →
       resolve u a.pt m = .crown (ptFirst u a.pt + f.at_.cl / 100) off →
       crownAt u f m (crownN w) = .way (crownBase (ptFirst u a.pt + f.at_.cl / 100) + off)) ∧
     (WordRuns a w 0x30 s r →
       (crownAt u f m (crownN w) = .way addr ∨ crownAt u f m (crownN w) = .window addr true →
         exec (.ldc a w) s = .next (u.fly { f with place := addr })) ∧
       (crownAt u f m (crownN w) = .closed ∨ crownAt u f m (crownN w) = .window addr false →
         exec (.ldc a w) s = .next (u.wordFault f 0x0105 5 f.t 0 (crownSuspect u a.pt m))) ∧
       (crownAt u f m (crownN w) = .outside → exec (.ldc a w) s = .next (u.firewall a.pt))) ∧
     (WordRuns a w 0x31 s r →
       ((crownAt u f m (crownN w) = .way addr ∨ ∃ b, crownAt u f m (crownN w) = .window addr b) →
         exec (.stc a w) s = .next (u.fly { f with place := addr })) ∧
       (crownAt u f m (crownN w) = .closed → exec (.stc a w) s = .next u) ∧
       (crownAt u f m (crownN w) = .outside → exec (.stc a w) s = .next (u.firewall a.pt)))) ∧
   ∀ (s : State) (r : StepRun) (f : Flight) (k j : Nat) (l : List Byte), l.length = 64 →
     (LoneWord s r f 0x30 k → k < crownN f.w → k + 1 < wDur f.w →
       WordIs s f { f with lines := f.lines ++ [(k, readN s (f.place + 64 * k) 64)] } r) ∧
     (LoneWord s r f 0x30 k → k = 96 + j → itemAt j f.lines = some l → wSrc f.w + 64 * j + 64 ≤ spadSize →
       spadR (afterAc s f) f.c (wSrc f.w + 64 * j) 64 = l ∧
       KeepsOutside s (afterAc s f) (spadBase f.c + wSrc f.w + 64 * j) 64) ∧
     (LoneWord s r f 0x31 k → k < crownN f.w → k + 1 < wDur f.w →
       WordIs s f { f with lines := f.lines ++ [(k, spadR s f.c (wSrc f.w + 64 * k) 64)] } r) ∧
     (LoneWord s r f 0x31 k → k = 64 + j → itemAt j f.lines = some l →
       readN (afterAc s f) (f.place + 64 * j) 64 = l ∧ KeepsOutside s (afterAc s f) (f.place + 64 * j) 64)) ∧
  ((∀ (a : WordAt) (w : OpWord) (s : State) (r : StepRun), WordRuns a w 0x32 s r →
     (wBits w 45 36 < 100 * ptSize (moved s a w) a.pt → exec (.send a w) s = .next ((moved s a w).fly (flightOf s a w r))) ∧
     (100 * ptSize (moved s a w) a.pt ≤ wBits w 45 36 → exec (.send a w) s = .next ((moved s a w).firewall a.pt))) ∧
   (∀ (s : State) (r : StepRun) (pt : Nat), (s.part pt).cur = some r → r.ph = .running →
     ∃ q, ((s.firewall pt).part pt).cur = some q ∧ q.faulted = true ∧ (s.firewall pt).mem = s.mem) ∧
   ∀ (s : State) (r : StepRun) (f : Flight) (k j d tgt : Nat) (l : List Byte), LoneWord s r f 0x32 k →
     d = absCluster s f.at_.pt (wBits f.w 45 36) → tgt = 32 * wBits f.w 62 46 + 64 * j →
     (k < sendN f.w → k + 1 < wDur f.w →
       WordIs s f { f with lines := f.lines ++ [(k, spadR s f.c (wSrc f.w + 64 * k) 64)] } r) ∧
     (k = (if f.at_.cl / 100 = wBits f.w 45 36 / 100 then 48 else 160) + j → itemAt j f.lines = some l → l.length = 64 →
       tgt + 64 ≤ spadSize → spadR (afterAc s f) d tgt 64 = l ∧ KeepsOutside s (afterAc s f) (spadBase d + tgt) 64))

/-- In a GVSEND's last ac a stamped gradient chunk whose key is not open opens the engine's next key and is held
there. GVE_EMIT of a key whose inputs have all been added, 56 ac after the last came in, takes the key out and sends
its sum to the target cluster of the grove; a line of it lands in each ac (R22, R101, R325, R326, R328).
GVE_KEY_EXPIRY in VERIFY_END makes the open keys due at the boundary that ends the beat; in any other beat nothing
changes. Keys that are due and open then are a fault of the step, with PLAN_FAULT set; where none is open nothing
changes (R61, R328). Where its condition does not hold a command changes nothing (DESIGN CHOICE, log entry 16). It
says of each of these constructors where it completes with its own effect: gveEmit, gveKeyExpiry. -/
def Obligations.GroveEngineKeysOpenEmitAndExpire : Prop :=
  ((∀ (s : State) (r : StepRun) (f : Flight) (k g : Nat) (b : List Byte), LoneWord s r f 0x33 k → k + 1 = wDur f.w →
     sendN f.w ≤ k → g = f.c / 100 → b = (f.lines.flatMap (·.2)).take (chLength (f.lines.flatMap (·.2))) → chKind b ≠ 2 →
     chStamped b = true → (∀ x ∈ chBlockList b, x.residueOk = true ∧ x.bOk = true) →
     (∀ y ∈ gveKeys s g, y.isOpen = true → sameKey y.chunk b = false) →
     ((gveKeys s g).filter GveKey.isOpen).length < 64 → gveBytes (gveKeys s g) + b.length ≤ 8388608 →
     (afterAc s f).mem = s.mem ∧ gveKeys (afterAc s f) g = gveKeys s g ++
       [{ id := freeKey (gveKeys s g), chunk := b, got := 1, inputs := chInputs b, src := f.c, last := f.t + k }]) ∧
   (∀ (pt grove key t : Nat) (s u : State) (r : StepRun) (k : GveKey), pt < 4 → grove < 8 → (s.part pt).working = some r →
     t / acPerBeat r.tier = s.offset r → r.clock ≤ t → grove < ptSize s pt → u = s.advance pt t →
     ptSize u pt = ptSize s pt → gveDue u (ptFirst u pt + grove) key t = some k →
     chTarget k.chunk < 100 * ptSize s pt → chTarget k.chunk / 100 = grove → (u.part pt).cur.isSome = true →
     Yields (.gveEmit pt grove ⟨key, t⟩) s fun v => v.mem = u.mem ∧
       gveKeys v (ptFirst u pt + grove) = ((gveKeys u (ptFirst u pt + grove)).filter fun y => y.id ≠ k.id) ∧
       ∃ q, (v.part pt).cur = some q ∧
         ({ c := absCluster u pt (chTarget k.chunk), spa := 32 * chSpa k.chunk, t, bytes := k.chunk } : Emit) ∈ q.emits) ∧
   ∀ (s : State) (pt : Nat) (r : StepRun) (e : Emit) (i : Nat), (s.part pt).cur = some r → r.flights = [] →
     r.emits = [e] → r.clock = e.t + i → 64 * i + 64 ≤ e.bytes.length → e.spa + 64 * i + 64 ≤ spadSize →
     spadR (s.cycle pt) e.c (e.spa + 64 * i) 64 = (e.bytes.drop (64 * i)).take 64 ∧
     KeepsOutside s (s.cycle pt) (spadBase e.c + e.spa + 64 * i) 64) ∧
  (∀ (pt : Nat) (s : State) (r : StepRun), pt < 4 → (s.part pt).working = some r →
     (s.offset r ≠ imgVerifyEnd ((s.part pt).image r) → exec (.gveKeyExpiry pt) s = .next s) ∧
     (s.offset r = imgVerifyEnd ((s.part pt).image r) → exec (.gveKeyExpiry pt) s = .next (s.setDue pt .keys) ∧
       .keys ∈ ((s.setDue pt .keys).part pt).due) ∧
     ((∀ g ∈ ptGroves s pt, ∀ k ∈ gveKeys s g, k.isOpen = false) → s.expireOne pt .keys = s) ∧
     (r.ph = .running → (∃ g ∈ ptGroves s pt, ∃ k ∈ gveKeys s g, k.isOpen = true) →
       ((s.expireOne pt .keys).evt.get (.red pt)).getLsbD 2 = true ∧
         ∃ q, ((s.expireOne pt .keys).part pt).cur = some q ∧ q.faulted = true))

/-- LKTX starts towards the first occurrence whose window it makes, and LKRX from the latest that has landed; a
receive whose message has not landed is a SLOT_DATA fault. LKTX puts each line at its place of the occurrence's
transmit buffer after the crossing, lines beyond its count as fill bytes, and changes no byte of memory; LKRX writes
the landed lines to the scratchpad after the crossing and leaves every other byte (R59, R112, R113, R299, R302). It
says of each of these constructors where it completes with its own effect: lktx, lkrx. -/
def Obligations.LinkWordsMoveSlotBuffers : Prop :=
  (∀ (a : WordAt) (w : OpWord) (s u : State) (r : StepRun) (f : Flight) (img : List Byte) (g : SegRec) (x : SlotRec)
      (c k : Nat), u = moved s a w → f = flightOf s a w r → img = stepImage u a.pt → g = segRec img (wBits w 62 47) →
    g.graft = false → x = slotRec img g.slot → c = acPerBeat (flightRun u f).tier →
    (WordRuns a w 0x34 s r →
      (x.dir = 0 → x.firstFrom c ((f.t + wDur w) * 64000 + 16384 * c) = some k →
        exec (.lktx a w) s = .next (u.fly { f with place := k })) ∧
      (x.dir ≠ 0 → x.firstFrom c ((f.t + wDur w) * 64000) = some k →
        exec (.lktx a w) s = .next (u.fly { f with place := k }))) ∧
    (WordRuns a w 0x35 s r → x.lastBy (manLmax img x.port) c (f.t * 64000) = some k →
      ((slotBuf (u.ptBufs a.pt).rx g.slot k).arrived = true → exec (.lkrx a w) s = .next (u.fly { f with place := k })) ∧
      ((slotBuf (u.ptBufs a.pt).rx g.slot k).arrived = false → x.type ≠ 2 → exec (.lkrx a w) s =
        .next (u.wordFault f 0x0102 2 f.t g.slot (linkSuspect u (absPort u a.pt x.port)))))) ∧
  ∀ (s : State) (r : StepRun) (f : Flight) (k j : Nat) (l : List Byte) (g : SegRec), g = linkSeg s f → g.graft = false →
    l.length = 64 →
    (LoneWord s r f 0x34 k → k < linkN f.w → k + 1 < wDur f.w → WordIs s f { f with
      lines := f.lines ++ [(k, if k < f.cnt then spadR s f.c (wSrc f.w + 64 * k) 64 else zeros 64)] } r) ∧
    (LoneWord s r f 0x34 k → k = crossing r.tier + j → itemAt j f.lines = some l →
      (slotRec (stepImage s f.at_.pt) g.slot).dir = 0 →
      (afterAc s f).mem = s.mem ∧ (slotBuf ((afterAc s f).ptBufs f.at_.pt).tx g.slot f.place).data =
        patch (padTo (slotRec (stepImage s f.at_.pt) g.slot).payload (slotBuf (s.ptBufs f.at_.pt).tx g.slot f.place).data)
          (g.offset + 64 * j) l) ∧
    (LoneWord s r f 0x35 k → k < f.cnt → f.bytes = [] → k + 1 < wDur f.w → WordIs s f { f with
      lines := f.lines ++ [(k, padTo 64 ((slotBuf (s.ptBufs f.at_.pt).rx g.slot f.place).data.drop (g.offset + 64 * k)))] } r) ∧
    (LoneWord s r f 0x35 k → k = crossing r.tier + j → itemAt j f.lines = some l → wSrc f.w + 64 * j + 64 ≤ spadSize →
      spadR (afterAc s f) f.c (wSrc f.w + 64 * j) 64 = l ∧
      KeepsOutside s (afterAc s f) (spadBase f.c + wSrc f.w + 64 * j) 64)

/-- A stash block of any number of lines reads back as it was stored (R178). STPUSH starts with an empty record of its
TAG and N on top of the cluster's stack; its block is placed in the compressed region where it fits and nothing has
spilt, and in a mode with an overflow region it spills raw where it does not. STPOP of the newest record's TAG and N
takes it off, and its lines stand in the scratchpad from ac 104 on; any other STPOP is a fault that moves nothing
(R176, R177, R179, R181 to R183). The lines of a record outside Crown that lie in HBM go out in the beat after its
push has ended, and come back into the staging area in the beat eight before its pop; other beats move nothing (R180,
R216). The places are the model's choice (log entry 25). Where its condition does not hold a command changes nothing
(DESIGN CHOICE, log entry 16). It says of each of these constructors where it completes with its own effect: stpush,
stpop, stashWriteback, stashFetch. -/
def Obligations.StashKeepsWhatWasPushed : Prop :=
  (∀ (lines : Nat) (bs : List Byte), bs.length = 64 * lines → loadBlock lines (storeBlock bs) = bs) ∧
  ((∀ (a : WordAt) (w : OpWord) (s u : State) (r : StepRun) (f : Flight) (c : Nat), u = moved s a w →
     f = flightOf s a w r → c = f.c →
     (WordRuns a w 0x38 s r → Yields (.stpush a w) s fun t => t.mem = u.mem ∧ t.ptBufs a.pt = u.ptBufs a.pt ∧
       ∃ e, (t.cluster c).stash = e :: (u.cluster c).stash ∧ e.tag = stashTag w ∧ e.n = stashN w ∧ e.blocks = [] ∧
         e.born = f.t) ∧
     (∀ e es, (u.cluster c).stash = e :: es → WordRuns a w 0x39 s r →
       (e.tag = stashTag w → e.n = stashN w → e.outside (stepImage u a.pt) = false → exec (.stpop a w) s =
         .next ({ u.setCluster c { u.cluster c with stash := es } with freeCtr := u.freeCtr + 1 }.fly
           { f with bytes := restoreBlocks e.blocks e.comp e.ovf })) ∧
       (¬(e.tag = stashTag w ∧ e.n = stashN w) → exec (.stpop a w) s =
         .next (u.wordFault f 0x0204 0 f.t 0 (clusterSuspect u c))))) ∧
   ∀ (s : State) (r : StepRun) (f : Flight) (k j : Nat),
     (∀ bs img e, LoneWord s r f 0x38 k → img = stepImage s f.at_.pt → pushBlock (stashN f.w) k = some j →
       bs = (f.lines.filter fun l => l.1 / 16 = j).flatMap (·.2) → (s.cluster f.c).stash.head? = some e → e.born = f.t →
       e.blocks.length = j → ∀ n, n = (f.lines.filter fun l => l.1 / 16 = j).length →
       (afterAc s f).mem = s.mem ∧
       (stashOver (s.cluster f.c).stash = false →
         stashUsed (s.cluster f.c).stash + (storeBlock bs).length ≤ stashRoom img →
         ∃ x, ((afterAc s f).cluster f.c).stash = x :: (s.cluster f.c).stash.tail ∧
           x.blocks = e.blocks ++ [⟨n, storeBlock bs, false⟩]) ∧
       (stashOver (s.cluster f.c).stash = true ∨ stashRoom img < stashUsed (s.cluster f.c).stash + (storeBlock bs).length →
         manStashMode img ≠ 1 →
         ∃ x, ((afterAc s f).cluster f.c).stash = x :: (s.cluster f.c).stash.tail ∧
           x.blocks = e.blocks ++ [⟨n, bs, true⟩]) ∧
       (stashRoom img < stashUsed (s.cluster f.c).stash + (storeBlock bs).length → manStashMode img = 1 → r.ph = .running →
         ((afterAc s f).cluster f.c).stash = (s.cluster f.c).stash ∧
         ∃ q, ((afterAc s f).part f.at_.pt).cur = some q ∧ q.faulted = true)) ∧
     (LoneWord s r f 0x39 k → k = 104 + j → j < stashN f.w → 64 * j + 64 ≤ f.bytes.length →
       wSrc f.w + 64 * j + 64 ≤ spadSize →
       spadR (afterAc s f) f.c (wSrc f.w + 64 * j) 64 = (f.bytes.drop (64 * j)).take 64 ∧
       KeepsOutside s (afterAc s f) (spadBase f.c + wSrc f.w + 64 * j) 64)) ∧
  (∀ (pt cl : Nat) (s : State) (r : StepRun) (c h : Nat) (img : List Byte), pt < 4 → cl < 800 → c = absCluster s pt cl →
     (s.part pt).working = some r → img = (s.part pt).image r → h = stashStack s pt cl →
     ((∀ e ∈ (s.cluster c).stash, e.outside img = false ∨ e.written = true ∨ e.pushEnd + 1 ≠ s.cmb.beat) →
       exec (.stashWriteback pt cl) s = .next s) ∧
     ((∀ e ∈ (s.cluster c).stash, e.outside img = false ∨ e.staged ≠ none) → exec (.stashFetch pt cl []) s = .next s) ∧
     ∀ e, (s.cluster c).stash = [e] → e.outside img = true → e.ovf = [] → e.comp.length % 64 = 0 →
       (∀ l ∈ e.hbmLines img, stashHbm s img pt cl l.1 < stackBytes) →
       (e.written = false → e.pushEnd + 1 = s.cmb.beat → (hbmKey s h).isSome = true →
         Yields (.stashWriteback pt cl) s fun t => (t.cluster c).stash = [{ e with written := true }] ∧
           ∀ l ∈ e.hbmLines img, hbmRead t h (stashHbm s img pt cl l.1) = l.2) ∧
       (e.staged = none → (∀ l ∈ s.mb.lost, l.pt ≠ pt) →
         (∀ l ∈ e.hbmLines img, poisoned s h (stashHbm s img pt cl l.1) = false ∧
           hbmRead s h (stashHbm s img pt cl l.1) = l.2) →
         ((popsIn ((s.offset r + 8) * acPerBeat r.tier) ((s.offset r + 9) * acPerBeat r.tier)
           ((stashAhead s pt cl r).foldl (fun l x => insertAhead x l) []) [some e]).any fun d => d.born == e.born) = true →
         Yields (.stashFetch pt cl []) s fun t => t.mem = s.mem ∧
           (t.cluster c).stash = [{ e with staged := some (restoreBlocks e.blocks e.comp []) }]))

/-- No burst of a range is poisoned, and no shard of the partition is reported lost. -/
def Sys2Proof.Machine.CleanStack (s : State) (pt h a n : Nat) : Prop :=
  (∀ i < n, poisoned s h (a + 64 * i) = false) ∧ ∀ l ∈ s.mb.lost, l.pt ≠ pt

/-- CROWN_FILL of clean bursts in its FILL_BEAT lands the window's plain lines in Crown and opens it as filled;
CROWN_WRITEBACK in its CLOSE_BEAT writes them back, so that each burst of the stack reads as the line of the window.
An entry that is not of the running tier's table, or not due in the beat, moves nothing (R71, R72, R212, R228, R229).
DMA_COPY of an entry that is due reads its source lines in HBM as they stand and holds them; DMA_COPY_WRITE in its
write beat writes them to a Crown destination, and a late one writes nothing and is a fault of the step; what is not
due moves nothing (R71, R72, R233, R234). Where its condition does not hold a command changes nothing (DESIGN CHOICE,
log entry 16). It says of each of these constructors where it completes with its own effect: crownFill,
crownWriteback, dmaCopy, dmaCopyWrite. -/
def Obligations.CrownWindowsAndDmaCopyLines : Prop :=
  (∀ (pt grove : Nat) (e : CrownEntry) (s : State) (h a base : Nat), pt < 4 → grove < 8 →
     resolve s pt e.hbmAddr = .hbm h a → inPartition s pt e.hbmAddr (64 * e.lines) = true →
     a + 64 * e.lines ≤ stackBytes → base = windowAddr s pt grove e →
     e.way < 256 → e.offset < 2 ^ 32 → e.lines < 2 ^ 32 →
     (crownDue s pt grove e e.fillBeat = true → windowHeld s pt grove e = false → e.fill = true →
       CleanStack s pt h a e.lines → Yields (.crownFill pt grove e [] false) s fun t =>
       (∀ i < e.lines, readN t (base + 64 * i) 64 = hbmRead s h (a + 64 * i)) ∧
       KeepsOutside s t base (64 * e.lines) ∧
       t.mb.windows = { pt, grove, entry := e, filled := true } :: s.mb.windows) ∧
     (crownDue s pt grove e e.fillBeat = false → exec (.crownFill pt grove e [] false) s = .next s) ∧
     (crownDue s pt grove e e.closeBeat = true → e.writeBack = true → (hbmKey s h).isSome →
       Yields (.crownWriteback pt grove e) s fun t =>
       (∀ i < e.lines, hbmRead t h (a + 64 * i) = readN s (base + 64 * i) 64) ∧
       KeepsOutside s t (hbmBase h + a) (64 * e.lines) ∧
       ∀ w ∈ t.mb.windows, ¬(w.pt = pt ∧ w.grove = grove ∧ w.entry = e)) ∧
     (crownDue s pt grove e e.closeBeat = false → exec (.crownWriteback pt grove e) s = .next s)) ∧
  ((∀ (pt h o : Nat) (e : DmaEntry) (s : State), pt < 4 →
     (dmaDue s pt e = false → exec (.dmaCopy pt e []) s = .next s) ∧
     (dmaDue s pt e = true → (∀ d ∈ s.mb.dma, ¬(d.pt = pt ∧ d.entry = e)) → inPartition s pt e.src (64 * e.lines) = true →
       resolve s pt e.src = .hbm h o → CleanStack s pt h o e.lines →
       Yields (.dmaCopy pt e []) s fun t => t.mem = s.mem ∧
         t.mb.dma = s.mb.dma ++
           [{ pt, entry := e, data := (List.range e.lines).map fun i => hbmRead s h (o + 64 * i), late := false }])) ∧
   ∀ (pt : Nat) (e : DmaEntry) (d : DmaPend) (s : State) (g off : Nat), pt < 4 → d ∈ s.mb.dma → d.pt = pt →
     d.entry = e → (∀ x ∈ s.mb.dma, x.pt = pt → x.entry = e → x = d) →
     (dmaWrites s d = false → exec (.dmaCopyWrite pt e false) s = .next s) ∧
     (dmaWrites s d = true → d.late = false → inPartition s pt e.dst (64 * e.lines) = true →
       (∀ i < d.data.length, resolve s pt (e.dst + 64 * i) = .crown g (off + 64 * i)) →
       Yields (.dmaCopyWrite pt e false) s fun t =>
         (∀ i < d.data.length, readN t (crownBase g + off + 64 * i) 64 = padTo 64 (d.data.getD i [])) ∧
         KeepsOutside s t (crownBase g + off) (64 * d.data.length) ∧
         t.mb.dma = s.mb.dma.erase d) ∧
     (dmaWrites s d = true → ∀ r, (s.part pt).running = some r → r.ph = .running →
       Yields (.dmaCopyWrite pt e true) s fun t =>
       t.mem = s.mem ∧ t.mb.dma = s.mb.dma.erase d ∧ ∃ q, (t.part pt).cur = some q ∧ q.faulted = true))

/-- A Pith command of relative stack j reaches the absolute stack h while step r works and the current limiter has not
tripped, and the stack is keyed. -/
def Sys2Proof.Machine.PithRuns (s : State) (pt j h : Nat) (r : StepRun) : Prop :=
  pt < 4 ∧ j < s.variant.stacks ∧ (s.part pt).working = some r ∧ r.tripped = false ∧ (ptStacks s pt)[j]? = some h ∧ (hbmKey s h).isSome = true

/-- No burst under n bytes of a stack is poisoned. -/
def Sys2Proof.Machine.Unpoisoned (s : State) (h a n : Nat) : Prop :=
  ∀ i < ceilDiv (a % 64 + n) 64, poisoned s h (a / 64 * 64 + 64 * i) = false

/-- No burst under the areas of a list is poisoned, and no shard of the partition is reported lost. -/
def Sys2Proof.Machine.CleanAreas (s : State) (pt h : Nat) (l : List (Nat × Nat)) : Prop :=
  (∀ a ∈ l, Unpoisoned s h a.1 a.2) ∧ ∀ x ∈ s.mb.lost, x.pt ≠ pt

/-- Two byte ranges do not meet. -/
def Sys2Proof.Machine.Apart (a n b m : Nat) : Prop := a + n ≤ b ∨ b + m ≤ a

/-- A NORM phase of the image is in its beat (R258). -/
def Sys2Proof.Machine.normDue (s : State) (pt : Nat) (r : StepRun) : Bool :=
  (pithPrograms ((s.part pt).image r)).any fun p => (phaseRecs p.2).any fun x => x.op == 2 && x.start == s.offset r

/-- VERIFY of clean landed chunks, in the beat of the tensor's last element, only adds the replica slice of the
tensor; a chunk that fails R333 sets CHECK_FAULT and is a fault of the running step; in another beat nothing happens
(R71, R258, R333, R340). That VERIFY acts on the whole tensor in one beat is the model's choice (DESIGN CHOICE, log
entry 26). NORM in its phase's beat forms the clipping coefficient once: 1.0 where the root of Q is at most CLIP, CLIP
over the root otherwise with the clipped flag; where Q is NaN or infinite the commit will skip its updates. Nothing
else of the module changes, and nothing at all in another beat (R258, R263, R265, Table 10-6). Where its condition
does not hold a command changes nothing (DESIGN CHOICE, log entry 16). It says of each of these constructors where it
completes with its own effect: pithVerify, pithNorm. -/
def Obligations.VerifyAndNormCheckTheStep : Prop :=
  (∀ (pt j h : Nat) (d : TensorDesc) (s : State) (r : StepRun), PithRuns s pt j h r → r.ph = .running →
     (elemsDue s pt j r 1 d (Desc.elems d - 1) (Desc.elems d) = false → exec (.pithVerify pt j d []) s = .next s) ∧
     (elemsDue s pt j r 1 d (Desc.elems d - 1) (Desc.elems d) = true → CleanAreas s pt h (verifyReads s pt d) →
       (landedFault s pt r d ((List.range d.chunks).map (gradHead s h d)) (gradBlocks s h d) 0 = none →
         exec (.pithVerify pt j d []) s = .next (s.updRun pt fun q =>
           { q with repSlice := (q.repSlice + replicaSlice s pt h r d) % (2 ^ 61 - 1) })) ∧
       (∀ b, landedFault s pt r d ((List.range d.chunks).map (gradHead s h d)) (gradBlocks s h d) 0 = some b →
         Yields (.pithVerify pt j d []) s fun t => (t.evt.get (.red pt)).getLsbD 1 = true ∧ t.mem = s.mem ∧
           ∃ q, (t.part pt).cur = some q ∧ q.faulted = true))) ∧
  (∀ (pt : Nat) (s : State) (r : StepRun) (q clip : Word), pt < 4 → (s.part pt).working = some r → r.coef = none →
     r.skip = false → q = stepQ r → clip = imgClip ((s.part pt).image r) →
     (normDue s pt r = false → exec (.pithNorm pt) s = .next s) ∧
     (normDue s pt r = true → (ofF32 q).isFin = true → fLe (fSqrt (ofF32 q)) clip = true → exec (.pithNorm pt) s =
       .next (s.updRun pt fun r => { r with coef := some oneF32 })) ∧
     (normDue s pt r = true → (ofF32 q).isFin = true → fLe (fSqrt (ofF32 q)) clip = false →
       fDiv clip (fSqrt (ofF32 q)) ≠ oneF32 → exec (.pithNorm pt) s = .next (s.updRun pt fun r =>
         { r with coef := some (fDiv clip (fSqrt (ofF32 q))), flags := r.flags ||| 1 })) ∧
     (normDue s pt r = true → (ofF32 q).isFin = false → exec (.pithNorm pt) s =
       .next (s.updRun pt fun r => { r with skip := true, flags := r.flags ||| 2 })))

/-- PREP of a due rule 3 tensor, in a beat of its phase, leaves in the work area the new momentum and the
orthogonalised update of the landed gradient, and no byte of another stack, of a cluster or of Crown changes; in
another beat nothing does (R258, R268). The layout of the work area is the model's (DESIGN CHOICE, log entry 26).
Where its condition does not hold a command changes nothing (DESIGN CHOICE, log entry 16). It says of each of these
constructors where it completes with its own effect: pithPrep. -/
def Obligations.PrepLeavesTheOrthogonalUpdate : Prop :=
  ∀ (pt j h : Nat) (d : TensorDesc) (s : State) (r : StepRun), PithRuns s pt j h r →
    (matrixDue s pt j r 3 d = false → exec (.pithPrep pt j d []) s = .next s) ∧
    ∀ (c : Word), matrixDue s pt j r 3 d = true → d.rule = 3 → CleanAreas s pt h (prepReads s h d r) →
    Desc.due d ((s.part pt).commits.toNat + 1) = true → 0 < d.rows → 0 < d.cols →
    clipCoef (stepQ r) (imgClip ((s.part pt).image r)) = some c → Unpoisoned s h (Desc.workX d) (8 * Desc.elems d) →
    Desc.workX d + 8 * Desc.elems d ≤ stackBytes →
    ∀ mu, mu = List.zipWith (List.zipWith (momentum d)) (matR s h (Desc.itemAddr d 2) d.rows d.cols) (gradMat s h d c) →
    Yields (.pithPrep pt j d []) s fun t =>
      matR t h (Desc.workM d) d.rows d.cols = mu.map (List.map (·.1)) ∧
      matR t h (Desc.workX d) d.rows d.cols = orthogonal d (mu.map (List.map (·.2))) ∧
      ∀ b, b < hbmBase h + Desc.workX d / 64 * 64 ∨ hbmBase h + (Desc.workX d + 8 * Desc.elems d + 63) / 64 * 64 ≤ b →
        readB t b = readB s b

/-- APPLY of a whole rule 1 tensor with no compensation and no differences, in a committed step and in the beat
planned for it, updates every master word and its momentum, and counts the update in the tensor's header; before the
commit, or in another beat, it does nothing (R256, R258, R266, R273). Where its condition does not hold a command
changes nothing (DESIGN CHOICE, log entry 16). It says of each of these constructors where it completes with its own
effect: pithApply. -/
def Obligations.ApplyUpdatesTheMasters : Prop :=
  ∀ (pt j h n : Nat) (d : TensorDesc) (s : State) (r : StepRun), PithRuns s pt j h r → d.rule = 1 → n = Desc.elems d →
    (r.ph ≠ .committed ∨ elemsDue s pt j r 4 d 0 n = false → exec (.pithApply pt j d 0 n []) s = .next s) ∧
    ∀ (c : Word), r.ph = .committed → elemsDue s pt j r 4 d 0 n = true →
    r.coef = some c → d.flags = 0 → 0 < n → Desc.due d (s.part pt).commits.toNat = true →
    d.masterAddr % 64 = 0 → d.stateAddr % 64 = 0 → d.gradAddr % 64 = 0 →
    Apart d.masterAddr (4 * n) d.stateAddr (Desc.itemAddr d 9 - d.stateAddr) →
    Apart d.gradAddr (72 * Desc.blocks d) d.stateAddr 64 → d.masterAddr + 4 * n ≤ stackBytes →
    Desc.itemAddr d 9 ≤ stackBytes → CleanAreas s pt h ((d.stateAddr, 64) :: applyReads d 0 n) →
    (∀ k < Desc.blocks d, (gradBlock s h d k).ovf = false) → (tHead s h d).t + 1 < 2 ^ 64 →
    ∀ w m g, w = stackWords s h d.masterAddr n → m = stackWords s h (Desc.itemAddr d 2) n →
      g = (List.range n).map (fun i => gradElem (gradBlock s h d (i / 32)) c (i % 32)) →
    Yields (.pithApply pt j d 0 n []) s fun t =>
      (∀ i < n, (stackWords t h d.masterAddr n).getD i 0 =
        fSub (w.getD i 0) (fMul d.lr (fAdd (fAdd (fMul d.beta1 (m.getD i 0)) (g.getD i 0)) (fMul d.wd (w.getD i 0))))) ∧
      (∀ i < n, (stackWords t h (Desc.itemAddr d 2) n).getD i 0 = fAdd (fMul d.beta1 (m.getD i 0)) (g.getD i 0)) ∧
      (tHead t h d).t = (tHead s h d).t + 1

/-- COPY of a whole tensor in BF16, in a committed step and in the beat of its elements, writes each master word
rounded to the nearest BF16 into the working copy, and leaves the masters; before the commit, or in another beat, it
does nothing (R258, R273, R276). REFRESH of a rule 4 tensor with a snapshot and iterations left, in a beat of its
phase, runs its slice once in a step: in a step not yet committed the progress in the header stays, and in a committed
one it grows by the slice up to the iterations (R258, R270, R271). That REFRESH acts on the whole tensor in one beat
is the model's choice (DESIGN CHOICE, log entry 26). Where its condition does not hold a command changes nothing
(DESIGN CHOICE, log entry 16). It says of each of these constructors where it completes with its own effect: pithCopy,
pithRefresh. -/
def Obligations.WorkingCopyAndRefreshFollowTheCommit : Prop :=
  (∀ (pt j h n : Nat) (d : TensorDesc) (s : State) (r : StepRun), PithRuns s pt j h r → n = Desc.elems d →
     (r.ph ≠ .committed ∨ elemsDue s pt j r 5 d 0 n = false → exec (.pithCopy pt j d 0 n) s = .next s) ∧
     (r.ph = .committed → elemsDue s pt j r 5 d 0 n = true →
     d.copyFmt = 2 → 0 < d.cols → Desc.due d (s.part pt).commits.toNat = true →
     Apart d.masterAddr (4 * n) d.copyAddr (2 * n) → Unpoisoned s h d.copyAddr (2 * n) → d.copyAddr + 2 * n ≤ stackBytes →
     Unpoisoned s h d.masterAddr (4 * n) →
     Yields (.pithCopy pt j d 0 n) s fun t =>
       (∀ i < n, getLE (stackR t h (d.copyAddr + 2 * i) 2) 0 2 =
         (encodeN fBF16 .near (ofF32 ((stackWords s h d.masterAddr n).getD i 0))).1) ∧
       stackWords t h d.masterAddr n = stackWords s h d.masterAddr n)) ∧
  (∀ (pt j h : Nat) (d : TensorDesc) (s : State) (r : StepRun), PithRuns s pt j h r →
     (matrixDue s pt j r 6 d = false ∨ r.hasRefreshed h d = true → exec (.pithRefresh pt j d []) s = .next s) ∧
     (matrixDue s pt j r 6 d = true → d.rule = 4 →
     d.stateAddr % 64 = 0 → CleanAreas s pt h (refreshReads d (tHead s h d).r) →
     Unpoisoned s h (Desc.itemAddr d 8) (Desc.itemSize d 8) → Desc.itemAddr d 8 + Desc.itemSize d 8 ≤ stackBytes →
     0 < (tHead s h d).snaps → (tHead s h d).r < d.iters → d.iters < 256 → r.hasRefreshed h d = false →
     (r.ph = .running → Yields (.pithRefresh pt j d []) s fun t => tHead t h d = tHead s h d ∧
       ∃ q, (t.part pt).cur = some q ∧ q.refreshed = r.refreshed ++ [(h, d.stateAddr)]) ∧
     (r.ph = .committed → Yields (.pithRefresh pt j d []) s fun t =>
       (tHead t h d).r = min d.iters ((tHead s h d).r + d.rslice) ∧ (tHead t h d).snaps = (tHead s h d).snaps)))

/-- A phase that is not complete at its END: before the commit a fault of its Pith unit; after it an APPLY that is
late marks the step and loses the shard of its tensor. Where no phase of the unit ends with the beat nothing happens
(R258, R275). In the step gap a line that waits for its regeneration is written as the copy rule gives it from clean
masters, the rest of its burst stays, and it waits no more; a line that does not wait is left (R217). Where its
condition does not hold a command changes nothing (DESIGN CHOICE, log entry 16). It says of each of these constructors
where it completes with its own effect: phaseIncomplete, workingCopyRegen. -/
def Obligations.LatePhasesAndRegeneration : Prop :=
  (∀ (pt unit op tensor : Nat) (s : State) (r : StepRun), pt < 4 → unit < 2 * s.variant.stacks →
     (s.part pt).working = some r →
     (phasesEnding s pt unit op r = [] → ∀ ts, exec (.phaseIncomplete pt unit op ts) s = .next s) ∧
     (r.ph = .running → phasesEnding s pt unit op r ≠ [] → ∀ ts, Yields (.phaseIncomplete pt unit op ts) s fun t =>
       t.mem = s.mem ∧ ∃ q, (t.part pt).cur = some q ∧ q.faulted = true ∧ ∃ k ∈ q.keys, k.cause = 0x0106) ∧
     (r.ph = .committed → tensor ∈ phaseTensors (secPith ((s.part pt).image r) (relStack s pt (unit / 2)))
       (phasesEnding s pt unit 4 r) → Yields (.phaseIncomplete pt unit 4 [tensor]) s fun t => t.mem = s.mem ∧
       (∃ q, (t.part pt).cur = some q ∧ q.ph = .committed ∧ q.flags = r.flags ||| 8) ∧
       ∃ l ∈ t.mb.lost, l.pt = pt ∧ l.stack = unit / 2 ∧ l.tensor = tensor ∧ l.drift = false)) ∧
  (∀ (pt j h line : Nat) (d : TensorDesc) (s : State) (r : StepRun) (k : Nat × Nat), pt < 4 → j < s.variant.stacks →
     (s.part pt).running = none → (s.part pt).cur = some r → (ptStacks s pt)[j]? = some h → (hbmKey s h).isSome = true →
     k = copySpan d line →
     ((pt, h, d.tensor, line) ∉ s.mb.regen → exec (.workingCopyRegen pt j d line []) s = .next s) ∧
     ((pt, h, d.tensor, line) ∈ s.mb.regen → d ∈ descs (secPith ((s.part pt).image r) j) →
       (∀ a ∈ regenReads d k.1 k.2, Unpoisoned s h a.1 a.2) → d.copyAddr / 64 * 64 + 64 * line < stackBytes →
       d.copyAddr % 64 + k.1 - 64 * line + (copyBytes s h d (r.history d.copyTensor) k.1 k.2).length ≤ 64 →
       Yields (.workingCopyRegen pt j d line []) s fun t =>
       hbmRead t h (d.copyAddr / 64 * 64 + 64 * line) = patch (hbmRead s h (d.copyAddr / 64 * 64 + 64 * line))
         (d.copyAddr % 64 + k.1 - 64 * line) (copyBytes s h d (r.history d.copyTensor) k.1 k.2) ∧
       poisoned t h (d.copyAddr / 64 * 64 + 64 * line) = false ∧
       t.mb.regen = s.mb.regen.erase (pt, h, d.tensor, line)))

/-- STEP_COMMIT at the commit beat of a step with no fault and no notice: the commit counter rises by one and the step
is committed; with a fault of the beat or a notice taken in, or before a configuration commit of the same boundary,
nothing changes (R61, R63, R273). STEP_COMMIT runs after the boundary's command (DEDUCED, log entry 28). Where its
condition does not hold a command changes nothing (DESIGN CHOICE, log entry 16). It says of each of these constructors
where it completes with its own effect: stepCommit. -/
def Obligations.CommitNeedsAFaultFreeStep : Prop :=
  ∀ (pt : Nat) (s : State) (r : StepRun), pt < 4 → (s.part pt).running = some r → r.ph = .running →
    (r.replay = false → r.faulted = false → r.noticed = false → commitDue s = false →
      s.offset r = manCommitBeat ((s.part pt).image r) → Yields (.stepCommit pt) s fun t =>
        (t.part pt).commits = (s.part pt).commits + 1 ∧ (t.part pt).commitSlot = r.slot ∧
        (t.part pt).committedStarts = (s.part pt).committedStarts ++ [r.start] ∧
        ∃ q, (t.part pt).cur = some q ∧ q.ph = .committed ∧ q.committedAt = s.cmb.beat) ∧
    (r.faulted = true ∨ r.noticed = true ∨ commitDue s = true → exec (.stepCommit pt) s = .next s)

/-- The descriptors of a relative stack's program that export (R280). -/
def Sys2Proof.Machine.exporters (img : List Byte) (j : Nat) : List TensorDesc :=
  (descs (secPith img j)).filter fun d => Desc.flag d 2 || Desc.flag d 3

/-- A broadcast event of a committed step puts the lines of the working copy that its entry names, as far as the
payload and the copy reach, into the occurrence's transmit buffer, with zeros behind them; before the commit, with no
such entry in the beat, or once the current limiter has tripped, nothing changes (R83, R273, R277, R455).
CHECKPOINT_EXPORT at its event, under a checkpoint key, writes the record of the one exporting descriptor of the
stack's program into the release buffer and holds the next step's overwriting; with no event, or no key, nothing
changes. CHECKPOINT_EXPORT_DONE ends the hold (R83, R279 to R281). A beat timer's event with bit 0 clear raises the
vector of the step's queue, which enters the release buffer where its table entry is not masked and is held pending
where it is; with no such event in the beat nothing changes (R29, R83, R403, R409). The order of an export's payload
is the model's (DESIGN CHOICE, log entry 26). Where its condition does not hold a command changes nothing (DESIGN
CHOICE, log entry 16). It says of each of these constructors where it completes with its own effect:
parameterBroadcast, checkpointExport, checkpointExportDone, beatTimer. -/
def Obligations.BroadcastsExportsAndTimersOfAStep : Prop :=
  (∀ (pt slot occ j h n off line : Nat) (d : TensorDesc) (img : List Byte) (s : State) (r : StepRun),
     pt < 4 → j < s.variant.stacks → (s.part pt).running = some r → r.replay = false → img = (s.part pt).image r →
     (castDue img (s.offset r) slot occ (j, d, line) = false ∨ r.tripped = true → exec (.parameterBroadcast pt slot occ j d line []) s = .next s) ∧
     (castDue img (s.offset r) slot occ (j, d, line) = true → r.tripped = false → (ptStacks s pt)[j]? = some h →
     (r.ph = .running → exec (.parameterBroadcast pt slot occ j d line []) s = .next s) ∧
     (r.ph = .committed → off = d.copyAddr + 64 * line → off % 64 = 0 →
       n = min ((slotRec img slot).payload / 64 * 64) (Desc.copySize d - 64 * line) →
       (∀ i < ceilDiv n 64, poisoned s h (off + 64 * i) = false) →
       Yields (.parameterBroadcast pt slot occ j d line []) s fun t => t.mem = s.mem ∧
         (slotBuf (t.ptBufs pt).tx slot occ).data = padTo (slotRec img slot).payload
           (((List.range (ceilDiv n 64)).flatMap fun i => hbmRead s h (off + 64 * i)).take n)))) ∧
  ((∀ (pt j h : Nat) (d : TensorDesc) (s : State) (r : StepRun), PithRuns s pt j h r →
     ((s.tenancy pt).ckptKey = none ∨ (∀ e ∈ eventsAt ((s.part pt).image r) 6 (s.offset r), e.object ≠ j) →
       exec (.checkpointExport pt j []) s = .next s) ∧
     ∀ (key : Key), (s.tenancy pt).ckptKey = some key → d.flags = 4 → exporters ((s.part pt).image r) j = [d] →
     (∃ e ∈ eventsAt ((s.part pt).image r) 6 (s.offset r), e.object = j) → r.exportObj ≠ 0 → r.expShort = false →
     CleanAreas s pt h (exportReads d ((s.part pt).commits.toNat % 2)) →
     ∀ o bs, o = objAt s r.ctx (field r.exportObj 0 16) →
       bs = exportBytes key (s.part pt).commits d ⟨1, shardBytes s h d⟩ o.expSeq →
       r.exportOff + r.expOff + bs.length ≤ o.length → Yields (.checkpointExport pt j []) s fun t =>
         t.gates.ckpt = s.gates.ckpt ++ [.hostWrite (o.base + (r.exportOff + r.expOff)) bs] ∧ t.mem = s.mem ∧
         (t.part pt).exporting = true ∧ (h, d.masterAddr) ∈ (t.part pt).expShards ∧
         ∃ q, (t.part pt).cur = some q ∧ q.expOff = r.expOff + bs.length) ∧
   ∀ (pt : Nat) (s : State), pt < 4 → exec (.checkpointExportDone pt) s =
     .next (s.setPart pt { s.part pt with exporting := false, expShards := [], expHalves := [] })) ∧
  (∀ (pt timer : Nat) (param : DWord) (s : State) (r : StepRun), pt < 4 → timer < 16 → (s.part pt).working = some r →
     ((∀ e ∈ eventsAt ((s.part pt).image r) 5 (s.offset r), ¬(e.object = timer ∧ e.param = param.toNat)) →
       exec (.beatTimer pt timer param) s = .next s) ∧
     ((∃ e ∈ eventsAt ((s.part pt).image r) 5 (s.offset r), e.object = timer ∧ e.param = param.toNat) →
       param.getLsbD 0 = false →
       ((mget {} s.hif.msix (vectorOf s r.queue) : MsixEntry).masked = false → exec (.beatTimer pt timer param) s =
         .next { s with gates := { s.gates with pcie := s.gates.pcie ++ [.msix (vectorOf s r.queue)] } }) ∧
       ((mget {} s.hif.msix (vectorOf s r.queue) : MsixEntry).masked = true → exec (.beatTimer pt timer param) s =
         .next { s with hif := { s.hif with msixPend := s.hif.msixPend ||| (1#64 <<< vectorOf s r.queue) } })))

/-- A native slot's message: one that starts at S or within 8 ns after it goes out once, in the frames of its window;
at the end of that time it is a slot miss of the step with the own port as suspect; before S, and once the current
limiter has tripped, nothing goes out (R57, R75, R300, R455). A receive occurrence that arrives whole by its deadline
lands in its buffer; one that fails its checks is a slot miss, counted, logged and a fault of the step; one received
after its deadline changes nothing. An expiry in the beat of the deadline is due at the boundary that ends the beat,
where an occurrence that has not arrived is a slot miss, with the lane as suspect that lost its frames and otherwise
the link or the partner, and one that has arrived is none; before that beat the expiry changes nothing (R58, R61,
R301, R302, R347). Where its condition does not hold a command changes nothing (DESIGN CHOICE, log entry 16). It says
of each of these constructors where it completes with its own effect: slotTransmit, slotDeadlineExpiry, slotReceive.
-/
def Obligations.SlotMessagesGoLandOrMiss : Prop :=
  (∀ (pt slot occ start n : Nat) (s u : State) (r : StepRun) (sr : SlotRec), pt < 4 → (s.part pt).running = some r →
     r.ph = .running → r.replay = false → sr = slotRec ((s.part pt).image r) slot →
     slot < slotCount ((s.part pt).image r) → sr.dir = 0 → sr.type ≠ 2 → occ < sr.count → s.offset r = sr.beatOf occ →
     n = absPort s pt sr.port → (s.port n).active = true → commitDue s = false →
     (slotBuf (s.ptBufs pt).tx slot occ).arrived = false → (slotBuf (s.ptBufs pt).tx slot occ).missed = false →
     u = s.advanceTo pt (64000 * sr.beatOf occ + start) →
     (start < sr.start ∨ r.tripped = true → exec (.slotTransmit pt slot occ start) s = .next s) ∧
     (r.tripped = false → sr.start ≤ start → start ≤ sr.start + 512 → exec (.slotTransmit pt slot occ start) s =
       .next ((u.setTx pt { slotBuf (u.ptBufs pt).tx slot occ with slot, occ, arrived := true }).sendMessage n (start / 64)
         (slotFrames sr) (msgHeader sr.type sr.frames r.start (txPayload u pt slot occ sr) ++ txPayload u pt slot occ sr))) ∧
     (r.tripped = false → sr.start + 512 < start → Yields (.slotTransmit pt slot occ start) s fun t =>
       t.gates = s.gates ∧ t.mem = s.mem ∧ ∃ q, (t.part pt).cur = some q ∧ q.faulted = true ∧
         ∃ k ∈ q.keys, k.cause = 0x0101 ∧ k.suspect = ownLink s n)) ∧
  (∀ (pt slot occ n : Nat) (s : State) (r : StepRun) (sr : SlotRec) (d : Nat), pt < 4 → (s.part pt).running = some r →
     r.ph = .running → r.replay = false → sr = slotRec ((s.part pt).image r) slot → n = absPort s pt sr.port →
     d = deadlineOf ((s.part pt).image r) sr occ → sr.type ≠ 1 → sr.type ≠ 2 → awaits s pt slot occ r = true →
     (∀ a : Arrival, d < sr.beatOf occ * 64000 + a.time → exec (.slotReceive pt slot occ a) s = .next s) ∧
     (∀ a : Arrival, sr.beatOf occ * 64000 + a.time ≤ d → (sr.beatOf occ * 64000 + a.time) / 64000 = s.offset r →
       ∀ u, u = s.advanceTo pt (sr.beatOf occ * 64000 + a.time) →
       (arrivalOk r sr a = true → exec (.slotReceive pt slot occ a) s = .next (u.setRx pt
         { slotBuf (u.ptBufs pt).rx slot occ with slot, occ, data := padTo sr.payload a.payload, arrived := true })) ∧
       (arrivalOk r sr a = false → exec (.slotReceive pt slot occ a) s = .next (u.slotMiss pt slot occ
         (sr.beatOf occ * 64000 + a.time) r (missSuspect u n a.lane a.someFrame)))) ∧
     (∀ (u : Nat) (susp : DWord), ∀ t, t = s.slotMiss pt slot occ u r susp →
       (slotBuf (t.ptBufs pt).rx slot occ).missed = true ∧ (t.port n).slotMiss = satSucc (s.port n).slotMiss ∧
       (t.evt.get (.bgh n)).getLsbD 7 = true ∧ ∃ q, (t.part pt).cur = some q ∧ q.faulted = true) ∧
     ∀ (lane : Option Nat) (fr : Bool),
     (d / 64000 ≤ s.offset r →
       exec (.slotDeadlineExpiry pt slot occ lane fr) s = .next (s.setDue pt (.slot slot occ lane fr))) ∧
     (s.offset r < d / 64000 → exec (.slotDeadlineExpiry pt slot occ lane fr) s = .next s) ∧
     s.expireOne pt (.slot slot occ lane fr) = s.slotMiss pt slot occ d r (missSuspect s n lane fr) ∧
     ∀ b : SlotBuf, b.slot = slot → b.occ = occ → b.arrived = true →
       (s.setRx pt b).expireOne pt (.slot slot occ lane fr) = s.setRx pt b)

/-- Graft data for the step's number or the next one is kept, other data is dropped and counted; a record incomplete
at the boundary that ends its deadline and tolerance is a fault of the step, with the partner's step-abort message; a
region whose contents are out is no more under way (R61, R310, R313, R314). The valid entries of a replica digest
message enter the table and the others stay; a lane that differs or lacks a statistic at the boundary that ends
NORM_BEAT is a fault of the step with LANE_FAULT set; a replica group and a thinning that wait take effect at a step
boundary whose commit counter is a multiple of 64 (R337, R341, R343). The wire layout of grafts is PRESUMED (log entry
11). Where its condition does not hold a command changes nothing (DESIGN CHOICE, log entry 16). It says of each of
these constructors where it completes with its own effect: graftIngress, graftDeadline, graftEgressDone,
replicaDigest, laneCheck, redSettingApply. -/
def Obligations.GraftsAndReductionSettings : Prop :=
  ((∀ (pt n idx : Nat) (step : DWord) (data : List Byte) (s : State) (r : StepRun) (g : GraftRec), pt < 4 →
     n < s.variant.ports → (s.part pt).cur = some r → g = graftRec ((s.part pt).image r) idx → graftPort s n = true →
     idx < graftCount ((s.part pt).image r) → g.dir = 1 → g.kind ≠ 3 → absPort s pt g.port = n →
     (step ≠ r.graftStep → step ≠ r.graftStep + 1 → exec (.graftIngress pt n idx step data) s =
       .next (s.updPort n fun p => { p with graftDrop := satSucc p.graftDrop })) ∧
     (step = r.graftStep + 1 → Yields (.graftIngress pt n idx step data) s fun t =>
       (graftArrived t pt idx step).elems = (graftArrived s pt idx step).elems ++
         wireElems (isYelger ((s.part pt).image r) g.port) g data ∧ t.mem = s.mem ∧ t.parts = s.parts)) ∧
   (∀ (pt idx : Nat) (s : State) (r : StepRun) (g : GraftRec), pt < 4 → (s.part pt).working = some r →
     r.ph = .running → g = graftRec ((s.part pt).image r) idx →
     (idx < graftCount ((s.part pt).image r) → g.dir = 1 → s.offset r = g.deadline + g.tol →
       (graftArrived s pt idx r.graftStep).complete g = false →
       exec (.graftDeadline pt idx) s = .next (s.setDue pt (.graft idx)) ∧ ∀ t, t = s.expireOne pt (.graft idx) →
         t.gates.bough = s.gates.bough ++ [.graftAbort (absPort s pt g.port)] ∧
         (t.evt.get (.bgh (absPort s pt g.port))).getLsbD 9 = true ∧
         ∃ q, (t.part pt).cur = some q ∧ q.faulted = true) ∧
     ((graftArrived s pt idx r.graftStep).complete g = true →
       exec (.graftDeadline pt idx) s = .next s ∧ s.expireOne pt (.graft idx) = s)) ∧
   ∀ (n idx pt : Nat) (s : State), n < s.variant.ports → ptOfPort s n = some pt →
     exec (.graftEgressDone n idx) s = .next (s.setBufs pt { s.ptBufs pt with
       graftOut := (s.ptBufs pt).graftOut.filter fun e => !(e.sending && e.port == n && e.idx == idx) })) ∧
  ((∀ (pt : Nat) (payload : List Byte) (s : State) (r : StepRun), pt < 4 → (s.part pt).working = some r →
     Yields (.replicaDigest pt payload) s fun t => t.mem = s.mem ∧ t.parts = s.parts ∧
       ∀ i < 8, mget none (t.redPt pt).repTable i = match replicaEntry (s.redPt pt) payload i with
         | some e => some e
         | none => mget none (s.redPt pt).repTable i) ∧
   (∀ (pt : Nat) (s : State) (r : StepRun), pt < 4 → (s.part pt).working = some r → r.ph = .running →
     (s.offset r = imgNormBeat ((s.part pt).image r) → exec (.laneCheck pt) s = .next (s.setDue pt .lane)) ∧
     (s.offset r ≠ imgNormBeat ((s.part pt).image r) → exec (.laneCheck pt) s = .next s) ∧
     (laneBad ((s.part pt).image r) r = true → ∀ t, t = s.expireOne pt .lane → (t.evt.get (.red pt)).getLsbD 3 = true ∧
       t.mem = s.mem ∧ ∃ q, (t.part pt).cur = some q ∧ q.faulted = true) ∧
     (laneBad ((s.part pt).image r) r = false → s.expireOne pt .lane = s)) ∧
   ∀ (pt : Nat) (s : State), pt < 4 →
     ((s.part pt).running = none → (s.part pt).commits.toNat % 64 = 0 → Yields (.redSettingApply pt) s fun t =>
       (t.redPt pt).rep = (s.redPt pt).nextRep.getD (s.redPt pt).rep ∧ (t.redPt pt).nextRep = none ∧
       (t.redPt pt).thin = (s.redPt pt).nextThin.getD (s.redPt pt).thin ∧ (t.redPt pt).nextThin = none) ∧
     (¬((s.part pt).running = none ∧ (s.part pt).commits.toNat % 64 = 0) → exec (.redSettingApply pt) s = .next s))

/-- Nothing of partition pt's step r is under way: no word, no sum, no window that is being filled. -/
def Sys2Proof.Machine.AtRest (s : State) (pt : Nat) (r : StepRun) : Prop :=
  r.flights = [] ∧ r.emits = [] ∧ ∀ w ∈ s.mb.windows, w.pt ≠ pt

/-- A fault found before the commit drops the running step at the boundary, after the words under way have run to it
and what they were writing has become free: DISCARDED, no commit counted, and of a step at rest no byte of memory
changed; after the commit the step stays COMMITTED. A notice of the running step marks it for its discard, one of an
unknown step is late. The recovery interval leaves no PERMANENT entry of the partition without its remedy, but for a
remap in a grove of a partition whose step runs, and takes at most 256 beats (R25, R227, R348, R350, R356, R361). That
such a remap waits for the next interval is the model's reading (DEDUCED, log entry 32). Where its condition does not
hold a command changes nothing (DESIGN CHOICE, log entry 16). It says of each of these constructors where it completes
with its own effect: stepDiscard, faultNotice, recoveryInterval. -/
def Obligations.FaultsDiscardBeforeTheCommit : Prop :=
  (∀ (pt : Nat) (f : FaultInfo) (s : State) (r : StepRun), pt < 4 → (s.part pt).running = some r →
    (r.ph = .running → exec (.stepDiscard pt f) s = .next ((((s.advanceBeat pt).detect pt f).classifyAll pt).dropNow pt)) ∧
    (r.ph = .running → AtRest s pt r → Yields (.stepDiscard pt f) s fun t => t.mem = s.mem ∧
      (t.part pt).commits = (s.part pt).commits ∧ (t.part pt).outDisc = true ∧
      (t.part pt).outBeat = some s.cmb.beat ∧
      ∃ q, (t.part pt).cur = some q ∧ q.ph = .discarded ∧ q.endBeat = s.cmb.beat ∧ q.start = r.start) ∧
    (∀ t, t = s.dropStep pt → t.mem = s.mem ∧ (t.part pt).commits = (s.part pt).commits ∧ (t.part pt).outDisc = true ∧
      (t.part pt).outBeat = some s.cmb.beat ∧
      ∃ q, (t.part pt).cur = some q ∧ q.ph = .discarded ∧ q.endBeat = s.cmb.beat ∧ q.start = r.start) ∧
    (r.ph = .committed → Yields (.stepDiscard pt f) s fun t => t.mem = s.mem ∧
      (t.part pt).commits = (s.part pt).commits ∧ ∃ q, (t.part pt).cur = some q ∧ q.ph = .committed)) ∧
  (∀ (port pt : Nat) (rec : List Byte) (s : State) (r : StepRun), port < s.variant.ports →
    ptOfPort s port = some pt → (s.port port).active = true → getLE rec 0 1 = 1 → (noticeOf rec).cause ≠ 0x0504 →
    (s.part pt).cur = some r →
    (r.ph = .running → r.start = (noticeOf rec).start → Yields (.faultNotice port rec) s fun t => t.mem = s.mem ∧
      ∃ q, (t.part pt).cur = some q ∧ q.noticed = true ∧ q.ph = .running) ∧
    (r.start ≠ (noticeOf rec).start → (s.part pt).committedStarts.contains (noticeOf rec).start = false →
      Yields (.faultNotice port rec) s fun t => t.parts = s.parts ∧ t.flt.late = satSucc s.flt.late ∧
        (t.evt.get .flt).getLsbD 8 = true)) ∧
  ∀ (pt : Nat) (tests : List TestResult) (ecc : List EccObs) (s : State) (r : StepRun), pt < 4 → (s.part pt).cur = some r →
    (r.ph = .discarded → (s.part pt).recoveryDone = false → Yields (.recoveryInterval pt tests ecc) s fun t =>
      (t.part pt).recoveryDone = true ∧ (t.part pt).recovery ≤ 256 ∧
      ∀ i < 32, (mget {} t.flt.suspects i : Suspect).st = .permanent → (mget {} t.flt.suspects i : Suspect).pt = pt →
        (mget {} t.flt.suspects i : Suspect).remedied = true ∨
          remapWaits t pt (mget {} t.flt.suspects i : Suspect).suspect = true) ∧
    (r.ph ≠ .discarded ∨ (s.part pt).recoveryDone = true → exec (.recoveryInterval pt tests ecc) s = .next s)

/-- A committed step ends in beat STEP_BEATS - 1, once its broadcasts have left the device and its words have run to
the beat's end, with a completion held in its queue; a step not committed does not end there. A discarded step's
completion is held HORIZON beats after its end and not before; a step whose session is gone writes none (R28, R274,
R352, R394). Where its condition does not hold a command changes nothing (DESIGN CHOICE, log entry 16). It says of
each of these constructors where it completes with its own effect: discardReport, stepCompletion. -/
def Obligations.StepsEndWithTheirCompletion : Prop :=
  (∀ (pt : Nat) (s : State) (r : StepRun), pt < 4 → (s.part pt).running = some r → r.replay = false →
    (imgStepBeats ((s.part pt).image r) ≤ s.offset r + 1 → broadcastsEnded s pt r = true →
      ∀ u x, u = s.advanceBeat pt → (u.part pt).running = some x → x.replay = false →
      (x.ph = .committed → x.silent = false → Yields (.stepCompletion pt) s fun t => t.mem = u.mem ∧
        (t.part pt).outDisc = false ∧ (∃ q, (t.part pt).cur = some q ∧ q.ph = .done) ∧
        ∃ h, (t.queue x.queue).held = some h ∧ h.signals = true) ∧
      (x.ph = .running → exec (.stepCompletion pt) s = .next u)) ∧
    (s.offset r + 1 < imgStepBeats ((s.part pt).image r) ∨ broadcastsEnded s pt r = false →
      exec (.stepCompletion pt) s = .next s)) ∧
  ∀ (pt : Nat) (s : State) (r : StepRun), pt < 4 → (s.part pt).cur = some r → r.ph = .discarded →
    r.reported = false →
    (r.endBeat.toNat + (s.part pt).horizon ≤ s.cmb.beat.toNat → r.silent = false → Yields (.discardReport pt) s fun t =>
      t.mem = s.mem ∧ (∃ q, (t.part pt).cur = some q ∧ q.reported = true) ∧
      ∃ h, (t.queue r.queue).held = some h) ∧
    (r.endBeat.toNat + (s.part pt).horizon ≤ s.cmb.beat.toNat → r.silent = true → Yields (.discardReport pt) s fun t =>
      t.hif = s.hif ∧ t.gates = s.gates ∧ ∃ q, (t.part pt).cur = some q ∧ q.reported = true) ∧
    (s.cmb.beat.toNat < r.endBeat.toNat + (s.part pt).horizon → exec (.discardReport pt) s = .next s)

/-- The outcome of the command at work in a queue: the status in its held completion. -/
def Sys2Proof.Machine.HoldsStatus (t : State) (q status : Nat) : Prop :=
  ∃ h, (t.queue q).held = some h ∧ getLE h.body 0 1 = 3 ∧ getLE h.body 1 1 = status

/-- With no step running or selected the hub takes the next waiting STEP: one whose slot is not ACCEPTED ends REFUSED
at once, another is selected, and so does a selected one whose slot is ACCEPTED no more; one whose TIMER_FENCE is read
back and fails its tag is not selected, and its queue goes to ERROR (R90, R384, R401, R410). A selected step that
nothing withholds gets its start beat, which it keeps until that beat has passed; ten beats before it, the gap's
earlier actions done, the clock goes over to its tier (R385, R453). The literal start beat, the naming anew and the
late switch of a tier are the model's choices (log entry 29). A grid change that waited refuses every accepted slot of
another grid with code 0009h and leaves the others; EST_CLEAR is kept for the next step boundary, and ignored while
the partition scrubs (R97, R170, R513). The selecting beat counts as the beat before the boundary (DEDUCED, log entry
28). Where its condition does not hold a command changes nothing (DESIGN CHOICE, log entry 16). It says of each of
these constructors where it completes with its own effect: stepSelect, tierSwitch, slotGridRefuse, estClear. -/
def Obligations.SelectionAndTheGridWait : Prop :=
  ((∀ (pt q : Nat) (s : State) (c : Fetched), pt < 4 → s.isHalted = false → (s.part pt).running = none →
     (s.part pt).sel = none → (s.part pt).gridWait = false → nextStep s pt = some (q, c) →
     (((s.part pt).slot (decide (getLE c.body 4 1 = 1))).st ≠ .accepted → Yields (.stepSelect pt) s fun t =>
       (t.part pt).sel = none ∧ t.mem = s.mem ∧
       ∃ h, (t.queue q).held = some h ∧ getLE h.body 0 1 = 1 ∧ getLE h.body 1 1 = 2 ∧ getLE h.body 2 2 =
         (if ((s.part pt).slot (decide (getLE c.body 4 1 = 1))).st = .refused then
           ((s.part pt).slot (decide (getLE c.body 4 1 = 1))).code.toNat else 0x0081)) ∧
     (((s.part pt).slot (decide (getLE c.body 4 1 = 1))).st = .accepted → Yields (.stepSelect pt) s fun t =>
       t.hif.served = q ∧ t.mem = s.mem ∧ ∃ r, (t.part pt).sel = some r ∧ r.queue = q ∧ r.seq = c.seq ∧
         r.body = c.body ∧ r.ctx = (s.queue q).ctx.getD 0 ∧ r.selBeat = s.cmb.beat - 1) ∧
     (((s.part pt).slot (decide (getLE c.body 4 1 = 1))).st = .accepted → ∀ (x : Sealed) (i : Nat), getLE c.body 64 4 ≠ 0 →
       i = getLE c.body 64 4 % 4096 → cmdNamesFence s i q = false → fenceResident s i q = false → x ≠ fenceSealed s i →
       Yields (.stepSelect pt (some x)) s fun t =>
         (t.part pt).sel = none ∧ (t.fence i).live = false ∧ HoldsStatus t q 0x15 ∧ (t.queue q).st = .error)) ∧
   (∀ (pt : Nat) (s : State) (r : StepRun), pt < 4 → s.isHalted = false → (s.part pt).running = none →
     (s.part pt).sel = some r →
     (((s.part pt).slot r.slot).st ≠ .accepted → Yields (.stepSelect pt) s fun t =>
       (t.part pt).sel = none ∧ t.mem = s.mem ∧ ∃ h, (t.queue r.queue).held = some h ∧ getLE h.body 1 1 = 2) ∧
     (((s.part pt).slot r.slot).st = .accepted → r.named = true → s.cmb.beat.toNat ≤ r.start.toNat →
       exec (.stepSelect pt) s = .next s) ∧
     (((s.part pt).slot r.slot).st = .accepted → withheld s pt r = true → exec (.stepSelect pt) s = .next s) ∧
     (((s.part pt).slot r.slot).st = .accepted → r.named = false ∨ r.start.toNat < s.cmb.beat.toNat →
       withheld s pt r = false → exec (.stepSelect pt) s = .next (s.updPart pt fun p => { p with
         sel := some { r with named := true, start := BitVec.ofNat 64 (startBeat s pt r), namedBeat := s.cmb.beat } })) ∧
     ∀ b, (s.part pt).outBeat = some b → startBeat s pt r = max ((s.cmb.beat - 1).toNat + 1) (max r.startMin.toNat
       (b.toNat + 21 + (if (s.part pt).outDisc then max (s.part pt).horizon (s.part pt).recovery else 0) +
         if ctxDiffers s pt r || r.ctxSwitch then 480 else 0))) ∧
   ∀ (pt : Nat) (s : State) (r : StepRun), pt < 4 → (s.part pt).sel = some r → r.named = true →
     (s.cmb.beat.toNat + 10 = r.start.toNat ∨ r.start.toNat < r.namedBeat.toNat + 10 ∧ s.cmb.beat.toNat ≤ r.start.toNat →
       gapReached s pt r = true → r.tier ≠ (s.clock pt).tier → (s.clock pt).domainReset = false →
         exec (.tierSwitch pt) s = .next (s.setClock pt { s.clock pt with
         tier := r.tier, standbyTier := (s.clock pt).tier, standbyLocked := true, onB := !(s.clock pt).onB })) ∧
     (r.tier = (s.clock pt).tier ∨ gapReached s pt r = false ∨ s.cmb.beat.toNat + 10 < r.start.toNat →
       exec (.tierSwitch pt) s = .next s)) ∧
  ((∀ (pt : Nat) (s : State), pt < 4 → (s.part pt).gridWait = true → (s.part pt).sel = none →
     (s.part pt).running = none → Yields (.slotGridRefuse pt) s fun t => (t.part pt).gridWait = false ∧
       ∀ b, (((s.part pt).slot b).st = .accepted → imgGrid ((s.part pt).slot b).image ≠ (s.part pt).grid →
           ((t.part pt).slot b).st = .refused ∧ ((t.part pt).slot b).code = 0x0009) ∧
         (((s.part pt).slot b).st = .accepted → imgGrid ((s.part pt).slot b).image = (s.part pt).grid →
           (t.part pt).slot b = (s.part pt).slot b)) ∧
   ∀ (pt : Nat) (s : State), pt < 4 → s.rooted = true → s.sap.clkEn.getLsbD 6 = true →
     ((s.tenancy pt).st ≠ .scrubbing → exec (.estClear pt) s =
       .next (s.updPart pt fun p => { p with estClear := true })) ∧
     ((s.tenancy pt).st = .scrubbing → exec (.estClear pt) s = .next s))

/-- A selected step whose gap has been done starts in its start beat: its clusters begin with empty registers and the
seed, its scratchpads stay for the gap to have set them; a due replay of broadcasts takes its place with the committed
step's slot (R106, R160, R278). A step whose slot is ACCEPTED no more ends REFUSED (R90), and one that is not ready
does not start. After the recovery interval, in the 480 beats before the step gap, a change of context saves the
outgoing one and restores the incoming one's scratchpads, zero where it has none saved; the clusters hold the incoming
context from then on. In the step gap the scale page gives every scaled tensor 2 to the power of minus its exponent;
neither happens out of its turn or where it is not needed (R26, R148, R149, R151, R163, R165, R385, R453). Where its
condition does not hold a command changes nothing (DESIGN CHOICE, log entry 16). It says of each of these constructors
where it completes with its own effect: broadcastReplay, stepStart, contextSwitch, scalePageWrite. -/
def Obligations.StartAndGapSetUpTheStep : Prop :=
  (∀ (pt : Nat) (s : State) (r : StepRun), pt < 4 → (s.part pt).sel = some r →
     (((s.part pt).slot r.slot).st ≠ .accepted → Yields (.stepStart pt) s fun t => (t.part pt).sel = none ∧
       (t.part pt).cur = (s.part pt).cur ∧ t.mem = s.mem ∧
       ∃ h, (t.queue r.queue).held = some h ∧ getLE h.body 1 1 = 2) ∧
     (((s.part pt).slot r.slot).st = .accepted → startReady s pt r = true → (s.part pt).replayNext = false →
       Yields (.stepStart pt) s fun t => (t.part pt).sel = none ∧ (t.part pt).active = r.slot ∧
         (t.tenancy pt).started = true ∧
       (∃ q, (t.part pt).cur = some q ∧ q.ph = .running ∧ q.start = r.start ∧ q.seq = r.seq ∧
         q.hist = (r.fixScales s pt).hist) ∧
       ∀ c < 100 * ptSize s pt, t.cluster (absCluster s pt c) = { seed := r.seed }) ∧
     (((s.part pt).slot r.slot).st = .accepted → startReady s pt r = false ∨ (s.part pt).replayNext = true →
       exec (.stepStart pt) s = .next s) ∧
     (startReady s pt r = true → (s.part pt).replayNext = true → Yields (.broadcastReplay pt) s fun t => t.mem = s.mem ∧
       (t.part pt).sel = none ∧ (t.part pt).replayNext = false ∧
       ∃ q, (t.part pt).cur = some q ∧ q.ph = .running ∧ q.replay = true ∧ q.slot = (s.part pt).commitSlot) ∧
     (startReady s pt r = false ∨ (s.part pt).replayNext = false → exec (.broadcastReplay pt) s = .next s)) ∧
  (∀ (pt : Nat) (s : State) (r : StepRun), pt < 4 → (s.part pt).sel = some r → (s.part pt).running = none →
     (ctxDiffers s pt r = false ∨ recovered (s.part pt) = false ∨ inGap s r 500 21 = false →
       exec (.contextSwitch pt) s = .next s) ∧
     (ctxDiffers s pt r = true → recovered (s.part pt) = true → inGap s r 500 21 = true →
       (s.ctx r.ctx).saved.contains pt = false → Yields (.contextSwitch pt) s fun t =>
         (∀ k, (s.part pt).lastCtx = some k → (s.ctx (k % 65536)).live = true → ctxId s (k % 65536) = k →
           (t.ctx (k % 65536)).saved.contains pt = true) ∧
         (∀ c < 100 * ptSize s pt, ∀ a < 3145728, readB t (spadBase (absCluster s pt c) + a) = 0) ∧
         (t.part pt).lastCtx = some (ctxId s r.ctx) ∧ ∃ q, (t.part pt).sel = some q ∧ q.ctxSwitch = true) ∧
     (needsScales ((s.part pt).image r) = false ∨ gapReached s pt r = false ∨ inGap s r 20 12 = false →
       exec (.scalePageWrite pt) s = .next s) ∧
     (needsScales ((s.part pt).image r) = true → gapReached s pt r = true → inGap s r 20 12 = true → Yields (.scalePageWrite pt) s fun t =>
       (∃ q, (t.part pt).sel = some q ∧ q.scaleDone = true) ∧
       ∀ c < 100 * ptSize s pt, ∀ k < 4096, ∀ f, f = mget 0xFF (imgCvts ((s.part pt).image r)) k →
         (f = 0 ∨ f = 1 ∨ f = 3) → readN t (spadBase (absCluster s pt c) + 3129344 + 4 * k) 4 =
           toLE 4 (pow2Neg (scaleExp (mget [] (r.fixScales s pt).hist k) f).1).toNat))

/-- COPY to Crown reads each unit and its tag from the source object, writes every authenticated unit and no other
byte, and completes with OK; a first unit whose tag fails writes nothing and completes with DATA_AUTH, which stops the
queue. COPY from Crown sends each unit encrypted under the session's data key with its tag, changes no memory, and
completes with OK (R372, R373, R380, R391, R392). It says of each of these constructors where it completes with its
own effect: copyToDevice, copyToHost. -/
def Obligations.CopiesMoveWholeUnits : Prop :=
  (∀ (q pt g off n a : Nat) (b : List Byte) (src dst : Obj) (units : List Unit4K) (s : State), q < 48 →
    ready s q 3 = some b → copyObjs s q b = some (src, dst) → queuePt s q = some pt →
    bitAt (opflagsOf b) 0 = false → n = getLE b 32 8 / 4096 → a = dst.base + getLE b 24 8 →
    (∀ i < 64 * n, resolve s pt (a + 64 * i) = .crown g (off + 64 * i)) →
    (units.length = n → (∀ u ∈ units, u.data.length = 4096) →
      (∀ i < n, unitOk s (s.queue q).session (getLE b 40 8) i (unitAt units i) = true) →
      Yields (.copyToDevice q units) s fun t =>
        readN t (crownBase g + off) (4096 * n) = units.flatMap Unit4K.data ∧ HoldsStatus t q 0 ∧
        (t.gates.pcie = s.gates.pcie ++ (List.range n).flatMap fun i =>
          [.hostRead (src.base + getLE b 16 8 + 4096 * i) 4096,
           .hostRead (src.tagBase + 16 * (getLE b 16 8 / 4096 + i)) 16]) ∧
        ∀ k, k < crownBase g + off ∨ crownBase g + off + 4096 * n ≤ k → readB t k = readB s k) ∧
    (0 < n → units = [] ∨ unitOk s (s.queue q).session (getLE b 40 8) 0 (unitAt units 0) = false →
      (s.queue q).st = .enabled →
      Yields (.copyToDevice q units) s fun t => t.mem = s.mem ∧ HoldsStatus t q 0x15 ∧ (t.queue q).st = .error)) ∧
  ∀ (q pt g off len a : Nat) (b : List Byte) (src dst : Obj) (x : Session) (ecc : List EccObs) (s : State), q < 48 →
    ready s q 3 = some b → copyObjs s q b = some (src, dst) → queuePt s q = some pt →
    bitAt (opflagsOf b) 0 = true → len = getLE b 32 8 → len % 64 = 0 → a = src.base + getLE b 16 8 →
    (∀ i < len / 64, resolve s pt (a + 64 * i) = .crown g (off + 64 * i)) →
    x = s.session (s.queue q).session.toNat → Yields (.copyToHost q ecc) s fun t => t.mem = s.mem ∧ HoldsStatus t q 0 ∧
      ∀ c, c = (fun i => Config.gcmSeal x.d2hData (toLE 8 x.outCtr.toNat ++ toLE 4 i) []
          (padTo 4096 ((readN s (crownBase g + off) len).drop (4096 * i)))) →
      t.gates.pcie = s.gates.pcie ++ (List.range (ceilDiv len 4096)).flatMap fun i =>
        [.hostWrite (dst.base + getLE b 24 8 + 4096 * i) (c i).1,
         .hostWrite (dst.tagBase + 16 * (getLE b 24 8 / 4096 + i)) (toBE 16 (c i).2.toNat)]

/-- Queue q reads as x in t, and the other queues, memory and the outbox as in s. -/
def Sys2Proof.Machine.QueueBecomes (s t : State) (q : Nat) (x : Queue) : Prop :=
  t.queue q = x ∧ (∀ j, j ≠ q → t.queue j = s.queue j) ∧ t.mem = s.mem ∧ t.outbox = s.outbox

/-- A host write reaches BAR0's HIF block for queue q: Rooted, not gated, and no scrub of the bound partition. -/
def Sys2Proof.Machine.QsOpen (s : State) (q : Nat) : Prop :=
  q < 48 ∧ s.rooted = true ∧ s.sap.clkEn.getLsbD 1 = true ∧ queueScrubs s q = false

/-- HIF_QS_CTRL and the fields that are writable while DISABLED act by the queue's state: ENABLE from DISABLED with
the pointers at zero and PHASE 1, DISABLE waits for a command at work, RESET acts only in ERROR, a session is bound
only in DISABLED, from SEQ zero and as no notice queue where it is another (R377, R404, R406, R407, R514). A doorbell
write stores the pointer; a 64-bit one at SQ_TAIL stores both; a CQ_HEAD stored while ENABLED is the one that the
device acts on; a 64-bit write at CQ_HEAD is not aligned and is rejected with a Completer Abort; a queue whose
partition scrubs stores nothing (R9, R375, R514, R515). Where its condition does not hold a command changes nothing
(DESIGN CHOICE, log entry 16). It says of each of these constructors where it completes with its own effect:
queueEnable, queueDisable, queueReset, queueConfigWrite, sqTailWrite, cqHeadWrite. -/
def Obligations.QueueControlAndDoorbells : Prop :=
  (∀ (q : Nat) (s : State) (x : Queue), QsOpen s q → x = s.queue q →
     (Yields (.queueEnable q) s fun t => QueueBecomes s t q (if x.st = .disabled then
       { x with st := .enabled, sqTail := 0, cqHead := 0, cqSeen := 0, head := 0, ctail := 0, phase := true } else x)) ∧
     (Yields (.queueDisable q) s fun t => QueueBecomes s t q { x with st := match x.st with
       | .enabled => if x.cmd.isSome then .stopping else .disabled
       | .stopping => .stopping
       | _ => .disabled }) ∧
     (Yields (.queueReset q) s fun t => QueueBecomes s t q (if x.st = .error then
       { x with st := .enabled, head := x.sqTail % ringSize x.sqK, cqSeen := x.cqHead, err := 0, anySeq := true }
       else x)) ∧
     (∀ v, Yields (.queueConfigWrite q 0x14 v) s fun t => QueueBecomes s t q (if x.st ≠ .disabled then x
       else if x.session = v then { x with anySeq := true }
       else { x with session := v, anySeq := true, lastSeq := 0, notice := false, notices := [], lost := 0 })) ∧
     (∀ v : Word, v.toNat / 2 ^ 8 % 2 ^ 6 ≤ 55 → x.st ≠ .disabled → Yields (.queueConfigWrite q 0x10 v) s fun t =>
       QueueBecomes s t q { x with vector := some (v.toNat / 2 ^ 8 % 2 ^ 6) })) ∧
  (∀ (q : Nat) (v : DWord) (s : State) (x : Queue), q < 48 → s.rooted = true → x = s.queue q →
     (queueScrubs s q = false →
       (Yields (.sqTailWrite q 32 v) s fun t => QueueBecomes s t q { x with sqTail := v.toNat % 2 ^ 16 }) ∧
       (Yields (.sqTailWrite q 64 v) s fun t => QueueBecomes s t q
         { x with sqTail := v.toNat % 2 ^ 16, cqHead := v.toNat / 2 ^ 32 % 2 ^ 16,
                  cqSeen := if x.st = .enabled then v.toNat / 2 ^ 32 % 2 ^ 16 else x.cqSeen }) ∧
       (Yields (.cqHeadWrite q 32 v) s fun t => QueueBecomes s t q { x with
         cqHead := v.toNat % 2 ^ 16, cqSeen := if x.st = .enabled then v.toNat % 2 ^ 16 else x.cqSeen })) ∧
     (queueScrubs s q = true → exec (.sqTailWrite q 32 v) s = .next s ∧ exec (.cqHeadWrite q 32 v) s = .next s) ∧
     (Yields (.cqHeadWrite q 64 v) s fun t => Out.abort 2 (0x1000 * q + 4) true ∈ t.outbox ∧ t.queue q = x ∧
       (t.evt.get .flt).getLsbD 6 = true))

/-- A fetched entry is checked in order: its tag, its SEQ, its body, its handles, its rights; the first check that
fails gives the status and stops the queue; an entry that passes them waits to run, and its fence (a STEP's SIG_FENCE)
becomes resident: one whose table entry fails its tag is destroyed (R372, R377, R379, R380, R388, R389, R401, R410).
NOP and QUERY complete at once, QUERY with the fence's generation, state and dropped signals; STEP, WAIT and LOAD
wait; a FENCE_OP becomes visible in the beat; a WAIT whose TIMEOUT_BEAT has begun completes with TIMEOUT at the beat's
end, or with OK where its fence satisfies it before. A command that is not at the front of its queue, or whose context
is not resident, does not run (R382, R384, R399, R400). An entry's body is padded to 96 bytes (log entry 16). Where
its condition does not hold a command changes nothing (DESIGN CHOICE, log entry 16). It says of each of these
constructors where it completes with its own effect: entryFetch, nopCommand, step, load, wait, waitTimeout,
fenceOpSignal, fenceOpArm, query. -/
def Obligations.EntriesAreCheckedAndCommandsCompleteOrWait : Prop :=
  (∀ (q : Nat) (seq : DWord) (s : State) (x : Queue), q < 48 → mayFetch s q = true → x = s.queue q →
     (∀ body m f, entryOk s q seq body m = false →
       Yields (.entryFetch q seq ⟨body, m, f⟩) s fun t => HoldsStatus t q 0x10 ∧ (t.queue q).st = .error ∧ t.mem = s.mem) ∧
     (∀ body m f b, entryOk s q seq body m = true → b = padTo 96 body →
       (seqOk x seq = false → Yields (.entryFetch q seq ⟨body, m, f⟩) s fun t =>
         HoldsStatus t q 0x11 ∧ (t.queue q).st = .error ∧ (t.queue q).lastSeq = x.lastSeq) ∧
       (seqOk x seq = true → bodyOk s q b = false → Yields (.entryFetch q seq ⟨body, m, f⟩) s fun t =>
         HoldsStatus t q 0x12 ∧ (t.queue q).st = .error ∧ (t.queue q).lastSeq = seq) ∧
       (seqOk x seq = true → bodyOk s q b = true → handlesOk s q b = false →
         Yields (.entryFetch q seq ⟨body, m, f⟩) s fun t => HoldsStatus t q 0x13 ∧ (t.queue q).st = .error ∧
           t.hif.denied = satSucc s.hif.denied) ∧
       (seqOk x seq = true → bodyOk s q b = true → handlesOk s q b = true → accessOkBody s q b = false →
         Yields (.entryFetch q seq ⟨body, m, f⟩) s fun t => HoldsStatus t q 0x14 ∧ (t.queue q).st = .error ∧
           t.hif.denied = satSucc s.hif.denied) ∧
       (seqOk x seq = true → bodyOk s q b = true → handlesOk s q b = true → accessOkBody s q b = true →
         ((∀ i ∈ fetchFences b, fenceResident s i q = true ∨ f = fenceSealed s i) →
           Yields (.entryFetch q seq ⟨body, m, f⟩) s fun t => QueueBecomes s t q { x with
             head := (x.head + 1) % ringSize x.sqK, lastSeq := seq, anySeq := false,
             cmd := some { seq, body := b, order := s.hif.tick, busy := false } }) ∧
         ∀ i ∈ fetchFences b, fenceResident s i q = false → f ≠ fenceSealed s i →
           Yields (.entryFetch q seq ⟨body, m, f⟩) s fun t => (t.fence i).live = false ∧
             (t.evt.get .hif).getLsbD 2 = true ∧
             ∀ j < 48, cmdHoldsFence t i j = true → (t.queue j).st = .error ∧ (t.queue j).err = 0x15))) ∧
  (∀ (q : Nat) (s : State), q < 48 →
     (∀ b, ready s q 0 = some b → Yields (.nopCommand q) s fun t => HoldsStatus t q 0 ∧ t.mem = s.mem) ∧
     (∀ b, ready s q 6 = some b → ∀ f, f = s.fence (getLE b 4 4 % 4096) → Yields (.query q) s fun t =>
       HoldsStatus t q 0 ∧ ∃ h, (t.queue q).held = some h ∧
         getLE h.body 16 8 = f.gen.toNat + (if f.signalled then 2 ^ 32 else 0) ∧ getLE h.body 24 8 = f.dropped.toNat) ∧
     (∀ k c, (k = 1 ∧ c = .step q) ∨ (k = 2 ∧ c = .load q) ∨ (k = 4 ∧ c = .wait q) →
       (∀ b, ready s q k = some b → Yields c s fun t => QueueBecomes s t q { s.queue q with
         cmd := (s.queue q).cmd.map fun x => { x with busy := true } }) ∧
       (ready s q k = none → exec c s = .next s)) ∧
     (∀ arm c, (arm = false ∧ c = .fenceOpSignal q) ∨ (arm = true ∧ c = .fenceOpArm q) → ∀ b, ready s q 5 = some b →
       bitAt (opflagsOf b) 0 = arm → Yields c s fun t =>
         (t.queue q).cmd = ((s.queue q).cmd.map fun x => { x with busy := true }) ∧
         t.hif.arrivals = s.hif.arrivals ++ [{ fence := getLE b 4 4 % 4096, arm, gen := BitVec.ofNat 32 (getLE b 8 4),
                                               op := some q }]) ∧
     (∀ c, (s.queue q).cmd = some c → (waitOf (s.queue q)).isSome = true →
       (getLE c.body 16 8 ≠ 0 → getLE c.body 16 8 ≤ s.cmb.beat.toNat → q ∉ s.hif.ending →
         exec (.waitTimeout q) s = .next { s with hif := { s.hif with ending := s.hif.ending ++ [q] } }) ∧
       (getLE c.body 16 8 = 0 ∨ s.cmb.beat.toNat < getLE c.body 16 8 → exec (.waitTimeout q) s = .next s)) ∧
     ∀ w, waitOf (s.queue q) = some w →
       ((s.fence w.1).satisfies w.2 = true → HoldsStatus s.satisfyWaits q 0) ∧
       ((s.fence w.1).satisfies w.2 = false → q ∈ s.hif.ending → HoldsStatus s.satisfyWaits.expireWaits q 1))

/-- A held completion is written at the completion tail, sealed under the session's ring key with its header as the
associated data, when the ring has room, and its vector follows it; a full ring or a session that is not there holds
it. A waiting notice is written the same way (R373, R378, R405). Where its condition does not hold a command changes
nothing (DESIGN CHOICE, log entry 16). It says of each of these constructors where it completes with its own effect:
completionWrite, noticeWrite. -/
def Obligations.CompletionsAreWrittenUnderTheSessionKey : Prop :=
  ∀ (q : Nat) (s : State) (x : Queue) (header : List Byte), q < 48 → s.isHalted = false → x = s.queue q →
    header = toLE 8 ((x.compNo + 1).toNat % 2 ^ 63 + b2n x.phase * 2 ^ 63) →
    (∀ (h : HeldComp) (k : List Byte × BitVec 128), x.held = some h →
      ((s.session h.session.toNat).finished = false ∨ ringRoom x = false → exec (.completionWrite q) s = .next s) ∧
      ((s.session h.session.toNat).finished = true → ringRoom x = true →
        k = Config.gcmSeal (s.session h.session.toNat).d2hRing (ringNonce (x.compNo + 1) q) header h.body →
        Yields (.completionWrite q) s fun t => t.mem = s.mem ∧
          t.gates.pcie = s.gates.pcie ++
            [.hostWrite (x.cqBase.toNat + 64 * x.ctail) (header ++ k.1 ++ toBE 16 k.2.toNat)] ++
            (if h.irq ∧ (mget {} s.hif.msix (vectorOf s q) : MsixEntry).masked = false then [.msix (vectorOf s q)]
             else []) ∧
          (t.queue q).held = none ∧ (t.queue q).cmd = none ∧ (t.queue q).compNo = x.compNo + 1 ∧
          (t.queue q).ctail = (x.ctail + 1) % ringSize x.cqK ∧
          (h.signals = false → t.hif.arrivals = s.hif.arrivals))) ∧
    (∀ (n : Notice) (ns : List Notice) (k : List Byte × BitVec 128), x.notice = true → x.st ≠ .disabled →
      x.notices = n :: ns → (s.session x.session.toNat).finished = true → ringRoom x = true →
      k = Config.gcmSeal (s.session x.session.toNat).d2hRing (ringNonce (x.compNo + 1) q) header n.body →
      Yields (.noticeWrite q) s fun t => t.mem = s.mem ∧ (t.queue q).notices = ns ∧
        t.gates.pcie = s.gates.pcie ++
          [.hostWrite (x.cqBase.toNat + 64 * x.ctail) (header ++ k.1 ++ toBE 16 k.2.toNat)] ++
          (if (mget {} s.hif.msix (vectorOf s q) : MsixEntry).masked = false then [.msix (vectorOf s q)] else []))

/-- CTX_CREATE, BIND and CTX_DESTROY: a context takes a free index with its areas checked and its object table
cleared, a queue is bound to it and its partition, and one that a queue or a step names is not destroyed; CONTEXT_LOAD
makes it resident, in place of the one unpinned longest ago where 32 are, and an entry that fails its tag destroys it
(R381 to R383, R386, R406, R408, R410). A CTX_CREATE whose table writes would wait waits itself (log entry 40). Where
its condition does not hold a command changes nothing (DESIGN CHOICE, log entry 16). It says of each of these
constructors where it completes with its own effect: ctxCreate, bind, ctxDestroy, contextLoad. -/
def Obligations.ContextsAreMadeBoundAndDestroyed : Prop :=
  ∀ (q : Nat) (s : State) (b : List Byte), q < 48 →
    (∀ p i, ready s q 0x10 = some b → (s.session (s.queue q).session.toNat).pt = some p →
      (areasOk s p (getLE b 8 8) (getLE b 16 8) = false → Yields (.ctxCreate q) s fun t =>
        HoldsStatus t q 0x14 ∧ t.hif.ctxs = s.hif.ctxs) ∧
      ∀ x u, x = (State.setCtx s i { live := true, tag := (s.ctx i).tag, session := (s.queue q).session, pt := p,
                                      objTable := getLE b 8 8, saveBase := getLE b 16 8 }).storeCtx i →
        areasOk s p (getLE b 8 8) (getLE b 16 8) = true →
        oldestFree s.hif.ctxs {} Ctx.live Ctx.freedAt 4096 = some i →
        (x.clearTable p (getLE b 8 8) = some u → Yields (.ctxCreate q) s fun t =>
          HoldsStatus t q 0 ∧ (t.ctx i).live = true ∧ (t.ctx i).pt = p ∧ (t.ctx i).saveBase = getLE b 16 8 ∧
          (t.ctx i).session = (s.queue q).session ∧ (t.ctx i).objs = [] ∧ t.mem = u.mem ∧ t.mb = u.mb) ∧
        (x.clearTable p (getLE b 8 8) = none → exec (.ctxCreate q) s = .next s)) ∧
    (ready s q 0x11 = some b → (ctxHandle s (s.queue q).session (getLE b 4 4)).isSome = true →
      Yields (.bind q) s fun t => HoldsStatus t q 0 ∧
      (t.queue q).ctx = some (getLE b 4 4 % 4096) ∧ (t.queue q).ctxPt = (s.ctx (getLE b 4 4 % 4096)).pt ∧
      (t.queue q).prio = getLE b 8 1 ∧
      (bitAt (opflagsOf b) 0 = true → (t.queue q).notice = true ∧ ∀ j < 48, j ≠ q →
        (s.queue j).session = (s.queue q).session → (t.queue j).notice = false)) ∧
    (∀ c, ready s q 0x12 = some b → c = getLE b 4 4 % 4096 →
      (ctxHandle s (s.queue q).session (getLE b 4 4)).isSome = true →
      ((∃ j < 48, liveCtx s j = some c) ∨ ctxInStep s c = true → Yields (.ctxDestroy q) s fun t =>
        HoldsStatus t q 3 ∧ t.hif.ctxs = s.hif.ctxs) ∧
      ((∀ j < 48, liveCtx s j ≠ some c) → ctxInStep s c = false → Yields (.ctxDestroy q) s fun t =>
        HoldsStatus t q 0 ∧ (t.ctx c).live = false ∧ (t.ctx c).tag = nextTag (s.ctx c).tag)) ∧
    ∀ c < 4096, (s.ctx c).live = true → (s.ctx c).resident = false → liveCtx s q = some c →
      (s.queue q).cmd.isSome = true →
      ((residentCtxs s).length < 32 → Yields (.contextLoad c (ctxSealed s c)) s fun t => (t.ctx c).resident = true ∧
        ∀ j, j ≠ c → t.ctx j = s.ctx j) ∧
      (32 ≤ (residentCtxs s).length → ∀ e, evictable s = some e → Yields (.contextLoad c (ctxSealed s c)) s fun t =>
        (t.ctx c).resident = true ∧ (t.ctx e).resident = false) ∧
      (32 ≤ (residentCtxs s).length → evictable s = none → ∀ x, exec (.contextLoad c x) s = .next s) ∧
      ∀ x, x ≠ ctxSealed s c → (residentCtxs s).length < 32 → (Yields (.contextLoad c x) s fun t => (t.ctx c).live = false ∧
        (t.evt.get .hif).getLsbD 2 = true)

/-- OBJ_MAP and FENCE_CREATE give a free index its contents, OBJ_FREE advances the tag at once and frees the index
when no command names it, both once their entry can be written to the object table; FENCE_FREE and KEY_ROTATE refuse
what is in use or not ACTIVE (R249, R383, R387, R390, R396, R402, R431). That a table entry is written with the
command, and when a Crown way counts as a scratchpad way, is log entry 40. A write that has to wait makes its command
wait (log entries 16 and 40). Where its condition does not hold a command changes nothing (DESIGN CHOICE, log entry
16). It says of each of these constructors where it completes with its own effect: objMap, objFree, objFreeRelease,
fenceCreate, fenceFree, keyRotate. -/
def Obligations.ObjectsAndFencesAreMadeAndFreed : Prop :=
  ∀ (q c : Nat) (s : State) (b : List Byte), q < 48 → (s.queue q).ctx = some c →
    (∀ i o, ready s q 0x13 = some b → getLE b 4 1 = 1 ∨ getLE b 4 1 = 2 ∧
        inPartition s (s.ctx c).pt (getLE b 8 8) (getLE b 16 8) = true ∧
        waysOpen s (s.ctx c).pt (getLE b 8 8) (getLE b 16 8) = true ∧
        granted s (s.ctx c).pt (s.session (s.ctx c).session.toNat).party (getLE b 8 8) (getLE b 16 8) = true →
      oldestFree (s.ctx c).objs {} Obj.live Obj.freedAt 65536 = some i →
      o = { live := true, tag := (objAt s c i).tag, kind := getLE b 4 1, access := getLE b 5 1, base := getLE b 8 8,
            length := getLE b 16 8, tagBase := getLE b 24 8 } →
      (((s.setObj c i o).storeObj c i).isSome = true → Yields (.objMap q) s fun t =>
        HoldsStatus t q 0 ∧ objAt t c i = o) ∧
      (((s.setObj c i o).storeObj c i).isSome = false → exec (.objMap q) s = .next s)) ∧
    (ready s q 0x13 = some b → getLE b 4 1 = 2 →
      inPartition s (s.ctx c).pt (getLE b 8 8) (getLE b 16 8) = false ∨
        waysOpen s (s.ctx c).pt (getLE b 8 8) (getLE b 16 8) = false ∨
        granted s (s.ctx c).pt (s.session (s.ctx c).session.toNat).party (getLE b 8 8) (getLE b 16 8) = false → Yields (.objMap q) s fun t =>
        HoldsStatus t q 0x14 ∧ t.hif.ctxs = s.hif.ctxs ∧ t.hif.denied = satSucc s.hif.denied) ∧
    (∀ i o, ready s q 0x14 = some b → i = getLE b 4 4 % 65536 → (objHandle s q (getLE b 4 4)).isSome = true →
      o = { objAt s c i with tag := nextTag (objAt s c i).tag } →
      (objNamed s c i q = false → (((s.setObj c i o).freeObj c i).storeObj c i).isSome = true →
        Yields (.objFree q) s fun t => HoldsStatus t q 0 ∧ (objAt t c i).live = false ∧
        (objAt t c i).tag = nextTag (objAt s c i).tag) ∧
      (objNamed s c i q = true → (∀ u, u = s.setObj c i o →
          ((u.setObj c i { objAt u c i with freeing := some q }).storeObj c i).isSome = true) →
        Yields (.objFree q) s fun t => (objAt t c i).freeing = some q ∧
        (objAt t c i).tag = nextTag (objAt s c i).tag ∧ (t.queue q).held = (s.queue q).held)) ∧
    (∀ e, (s.ctx c).objs.find? (fun e => e.2.freeing == some q) = some e →
      (objNamed s c e.1 q = false → ((s.freeObj c e.1).storeObj c e.1).isSome = true →
        Yields (.objFreeRelease q) s fun t => HoldsStatus t q 0 ∧ (objAt t c e.1).live = false) ∧
      (objNamed s c e.1 q = true ∨ ((s.freeObj c e.1).storeObj c e.1).isSome = false →
        exec (.objFreeRelease q) s = .next s)) ∧
    (∀ i, ready s q 0x15 = some b → oldestFree s.hif.fences {} Fence.live Fence.freedAt 4096 = some i →
      Yields (.fenceCreate q) s fun t => HoldsStatus t q 0 ∧ (t.fence i).live = true ∧
        (t.fence i).gen = BitVec.ofNat 32 (getLE b 8 4) ∧ (t.fence i).signalled = bitAt (opflagsOf b) 0) ∧
    (∀ i, ready s q 0x16 = some b → i = getLE b 4 4 % 4096 →
      (fenceResident s i q = true → Yields (.fenceFree q) s fun t => HoldsStatus t q 3 ∧ t.fence i = s.fence i) ∧
      (fenceResident s i q = false → Yields (.fenceFree q) s fun t => HoldsStatus t q 0 ∧ (t.fence i).live = false ∧
        (t.fence i).tag = nextTag (s.fence i).tag)) ∧
    ∀ r, ready s q 0x17 = some b → r = 16 * (s.queue q).ctxPt + getLE b 4 1 →
      ((s.region r).st = .active ∨ (s.region r).st = .exhausted → (s.region r).sweeping = false →
        (s.region r).prev = (s.region r).kid → Yields (.keyRotate q) s fun t => HoldsStatus t q 0 ∧
        t.region r = { s.region r with rotate := true }) ∧
      ((s.region r).st ≠ .active ∧ (s.region r).st ≠ .exhausted ∨ (s.region r).sweeping = true ∨
        (s.region r).prev ≠ (s.region r).kid → Yields (.keyRotate q) s fun t => HoldsStatus t q 5 ∧ t.region r = s.region r)

/-- The loader takes the load that was fetched first: a slot that a step names ends it at once with SLOT_BUSY;
otherwise the slot is LOADING, and the end of the checks makes it ACCEPTED with the image, or REFUSED with the first
failing check and its place (R86, R87, R89). The order of the checks within a section is DEDUCED (log entry 27). It
says of each of these constructors where it completes with its own effect: loadProcess, loadComplete. -/
def Obligations.TheLoaderDecidesTheSlot : Prop :=
  (∀ (q pt : Nat) (c : Fetched) (units : List Unit4K) (b : List Byte) (ok : Bool) (s : State), pt < 4 →
    loaderBusy s = false →
    s.isHalted = false → nextLoad s = some (q, c) → queuePt s q = some pt →
    b = unitBytes (getLE c.body 32 8) units → ok = imageUnitsOk s q (getLE c.body 8 8) (getLE c.body 32 8) units →
    (slotBusy s pt (decide (getLE c.body 4 1 = 1)) = true → Yields (.loadProcess q units) s fun t =>
      (t.part pt).rsnCode = 0x0080 ∧ (t.part pt).load = none ∧
      ∃ h, (t.queue q).held = some h ∧ getLE h.body 0 1 = 2 ∧ getLE h.body 2 2 = 0x80) ∧
    (slotBusy s pt (decide (getLE c.body 4 1 = 1)) = false → Yields (.loadProcess q units) s fun t =>
      ((t.part pt).slot (decide (getLE c.body 4 1 = 1))).st = .loading ∧
      ∃ j, (t.part pt).load = some j ∧ j.queue = q ∧ j.image = b ∧
        j.code = match loadChecks s pt b ok with
          | some f => f.code
          | none => 0)) ∧
  ∀ (pt : Nat) (j : LoadJob) (s : State), pt < 4 → s.isHalted = false → (s.part pt).load = some j →
    (∀ p < pt, (s.part p).load = none) →
    (j.code = 0 → Yields .loadComplete s fun t => (t.part pt).load = none ∧
      (t.part pt).slot j.slot = { st := .accepted, image := j.image } ∧
      ∃ h, (t.queue j.queue).held = some h ∧ getLE h.body 1 1 = 0) ∧
    (j.code ≠ 0 → Yields .loadComplete s fun t => (t.part pt).load = none ∧
      ((t.part pt).slot j.slot).st = .refused ∧ (t.part pt).rsnCode = j.code ∧ (t.part pt).detSec = j.sec ∧
      (t.part pt).detPos = j.pos ∧ ∃ h, (t.queue j.queue).held = some h ∧ getLE h.body 1 1 = 2)

/-- Heartwood answers each SPDM request with its one response: the one version and algorithm set, digests,
certificate, challenge and measurements signed with AK, and ERROR codes for what it does not serve; answering changes
nothing but what waits to leave by PCIe (R29, R369, R436, R437). The SPDM 1.2 wire codes are PRESUMED (log entry 22),
and the standards' functions are uninterpreted (DESIGN CHOICE, log entry 17). It says of each of these constructors
where it completes with its own effect: getVersion, getCapabilities, negotiateAlgorithms, getDigests, getCertificate,
challenge, getMeasurements, unsupportedRequest. -/
def Obligations.HeartwoodAnswersItsRequests : Prop :=
  ∀ s : State, s.rooted = true → s.hw.booted = true →
    (exec .getVersion s = .next (s.emitPcie (.spdm 0x04 [0x00, 0x12]))) ∧
    (exec .getCapabilities s = .next (s.emitPcie (.spdm 0x61 []))) ∧
    (exec .negotiateAlgorithms s = .next (s.emitPcie (.spdm 0x63 algorithmSet))) ∧
    (∀ c, exec (.unsupportedRequest c) s = .next (s.emitPcie (.spdm 0x7F [0x07]))) ∧
    (noCert s = false → exec .getDigests s =
      .next (s.emitPcie (.spdm 0x01 (toBE 64 (Config.sha512 (certChain s)).toNat)))) ∧
    (noCert s = true → exec .getDigests s = .next (s.emitPcie (.spdm 0x7F [0x05])) ∧
      ∀ o n, exec (.getCertificate 0 o n) s = .next (s.emitPcie (.spdm 0x7F [0x05]))) ∧
    (noCert s = false → ∀ o n, exec (.getCertificate 0 o n) s =
      .next (s.emitPcie (.spdm 0x02 (((certChain s).drop o).take n)))) ∧
    (∀ nonce, exec (.challenge nonce) s =
      .next (s.emitPcie (.spdm 0x03 (akSigned s nonce (toBE 64 (Config.sha512 (certChain s)).toNat))))) ∧
    (∀ nonce i, 1 ≤ i → i ≤ 11 → exec (.getMeasurements i nonce) s =
      .next (s.emitPcie (.spdm 0x60 (akSigned s nonce (measurement s i))))) ∧
    (∀ nonce i, 11 < i → i ≠ 0xFF → exec (.getMeasurements i nonce) s = .next (s.emitPcie (.spdm 0x7F [0x01])))

/-- A session from KEY_EXCHANGE over FINISH, with the four keys of its master secret and its counter at zero, to its
end, which stops its queues and destroys its contexts; at most 32 are open; a function level reset leaves every queue
DISABLED and no tenancy OPEN (R368, R370, R371, R374, R435). The SPDM 1.2 wire codes are PRESUMED (log entry 22). It
says of each of these constructors where it completes with its own effect: functionLevelReset, keyExchange, finish,
heartbeat, keyUpdate, endSession. -/
def Obligations.SessionsHoldTheirKeysUntilTheyEnd : Prop :=
  (∀ (id : Nat) (s : State), id < 2 ^ 32 → s.rooted = true → s.hw.booted = true →
    (noCert s = false → openSessions s < 32 → (s.session id).live = false → Yields (.keyExchange id) s fun t =>
      t.session id = { live := true } ∧ t.gates.pcie = s.gates.pcie ++ [.spdm 0x64 (toLE 4 id)] ∧ t.mem = s.mem) ∧
    (noCert s = false → 32 ≤ openSessions s → exec (.keyExchange id) s = .next (s.emitPcie (.spdm 0x7F [0x0A]))) ∧
    ((s.session id).live = true → (s.session id).finished = false → ∀ m k, Yields (.finish id true m k) s fun t =>
      (t.session id).finished = true ∧ (t.session id).transcript = k ∧ (t.session id).outCtr = 0 ∧
      (t.session id).h2dRing = kdf256 (toBE 64 m.toNat) "QZ H2D RING" [] ∧
      (t.session id).h2dData = kdf256 (toBE 64 m.toNat) "QZ H2D DATA" [] ∧
      (t.session id).d2hRing = kdf256 (toBE 64 m.toNat) "QZ D2H RING" [] ∧
      (t.session id).d2hData = kdf256 (toBE 64 m.toNat) "QZ D2H DATA" []) ∧
    ((s.session id).live = true → (s.session id).finished = false → ∀ m k, Yields (.finish id false m k) s fun t =>
      (t.session id).live = false) ∧
    ((s.session id).finished = true → exec (.heartbeat id) s = .next (s.emitPcie (.spdm 0x68 [])) ∧
      exec (.keyUpdate id) s = .next (s.emitPcie (.spdm 0x69 []))) ∧
    ((s.session id).live = true → (s.session id).pt = none → Yields (.endSession id) s fun t =>
      t.session id = {} ∧ t.mem = s.mem ∧
      (∀ q < 48, (s.queue q).session.toNat = id → (t.queue q).st = .disabled) ∧
      ∀ c, (s.ctx c).live = true → (s.ctx c).session.toNat = id → (t.ctx c).live = false)) ∧
  ∀ s : State, s.powered = true → Yields .functionLevelReset s fun t => t.mem = s.mem ∧
    (∀ q < 48, (t.queue q).st = .disabled ∧ (t.queue q).cmd = none ∧ (t.queue q).held = none) ∧
    ∀ p < 4, (t.tenancy p).st ≠ .opened

/-- An access is decided in order: before the Rooted stage BAR0 and BAR2 abort and count; then a wrong width or
alignment, then a gated block, are rejected with a Completer Abort and the access log; an accepted read answers the
register's value, a 64-bit one both halves (R9, R507, R516). It says of each of these constructors where it completes
with its own effect: registerWrite, registerRead. -/
def Obligations.AccessesAreDecidedInOrder : Prop :=
  ∀ (bar width off : Nat) (s : State), barOk bar off = true → s.powered = true →
    (bar ≠ 4 → s.rooted = false →
      exec (.registerRead bar width off) s = .next (s.seedAbort bar off false) ∧
      ∀ v, exec (.registerWrite bar width off v) s = .next (s.seedAbort bar off true)) ∧
    (bar = 4 ∨ s.rooted = true → accessOk width off = false ∨ s.gatedAccess bar width off = true →
      ∀ c, (c = .registerRead bar width off ∨ ∃ v, c = .registerWrite bar width off v) → Yields c s fun t =>
        (Out.abort bar off false ∈ t.outbox ∨ Out.abort bar off true ∈ t.outbox) ∧ t.flt.accValid = true ∧
        t.flt.accAddr = BitVec.ofNat 32 off ∧ (t.evt.get .flt).getLsbD 6 = true ∧ t.cmb = s.cmb ∧ t.sap = s.sap) ∧
    (bar = 4 ∨ s.rooted = true → accessOk width off = true → s.gatedAccess bar width off = false →
      (width = 32 → exec (.registerRead bar width off) s = .next ((s.latch bar off).emit
        (.regData bar 32 off (BitVec.ofNat 64 (readBar s bar off))))) ∧
      (width = 64 → Yields (.registerRead bar width off) s fun t => t.outbox = s.outbox ++ [.regData bar 64 off
        (BitVec.ofNat 64 (readBar s bar off + readBar (s.latch bar off) bar (off + 4) * 2 ^ 32))] ∧ t.mem = s.mem))

/-- A register write by the kind of its fields: RW fields take the value; an out-of-range value leaves the field; RWS
fields are staged and leave the active value, or are ignored with WRITE_PENDING during a pending commit; RWL fields
under the lock are ignored and counted; event bits clear where 1 is written (R10, R463, R510, R512, Table 0-5). Where
its condition does not hold a command changes nothing (DESIGN CHOICE, log entry 16). It says of each of these
constructors where it completes with its own effect: registerWrite. -/
def Obligations.RegisterWritesFollowTheFieldKind : Prop :=
  ∀ (s : State) (v : Word), s.rooted = true →
    (∀ off, off = 0x100014 ∨ off = 0x100018 ∨ off = 0x10001C → Yields (.registerWrite 0 32 off (v.setWidth 64)) s fun t =>
      readBar0 t off = v.toNat ∧ t.mem = s.mem ∧ t.evt = s.evt) ∧
    (0 < v.toNat → v.toNat ≤ 16777216 → Yields (.registerWrite 0 32 0x100020 (v.setWidth 64)) s fun t =>
      readBar0 t 0x100020 = v.toNat) ∧
    (v.toNat = 0 ∨ 16777216 < v.toNat → exec (.registerWrite 0 32 0x100020 (v.setWidth 64)) s = .next s) ∧
    (s.cfg.pending = false → Yields (.registerWrite 0 32 0x300010 (v.setWidth 64)) s fun t =>
      readBar0 t 0x300010 = v.toNat % 16 ∧ t.cfg.layout = s.cfg.layout) ∧
    (s.cfg.pending = true → Yields (.registerWrite 0 32 0x300010 (v.setWidth 64)) s fun t =>
      t.cfg = s.cfg ∧ (t.evt.get .cfg).getLsbD 2 = true) ∧
    (s.hw.locked = true → Yields (.registerWrite 0 32 0x20000C (v.setWidth 64)) s fun t =>
      t.sap = s.sap ∧ t.hw.lockViol = satAdd s.hw.lockViol 3 ∧ (t.evt.get .sec).getLsbD 5 = true) ∧
    (s.hw.locked = false → exec (.registerWrite 0 32 0x20000C (v.setWidth 64)) s =
      .next { s with sap := s.sap.writeCtrl v.toNat }) ∧
    (exec (.registerWrite 0 32 0x100024 (v.setWidth 64)) s = .next { s with evt := s.evt.set .cmb (s.evt.cmb &&& ~~~v) })

/-- A declared lane fault on a lane that serves a position requests a swap to the spare, or fails the port where none
is left, also on a lane that an earlier training left marked; a valid block, which names its lane, clears the lane's
count and one missing block alone only counts; the swap takes effect at its link beat, or the port fails 1,000 beats
after the fault (R288, R289, R290, R502; the lane's numbering and learnt positions: log entry 34). A received frame: a
codeword beyond correction is counted; a failed tag is counted, and beyond the limit of 1,000,000 beats the port
authenticates anew without its keys; the fourth authenticated control frame of a beat renews the port; 64 beats
without one end in AUTH (R285, R297, R305). Where its condition does not hold a command changes nothing (DESIGN
CHOICE, log entry 16). It says of each of these constructors where it completes with its own effect: alignmentBlock,
laneSwap, laneSwapTimeout, symbolLockLost, authTimeout, frameReceive. -/
def Obligations.LanesAndFramesKeepOrFailThePort : Prop :=
  (∀ (n lane pos : Nat) (s : State) (p : Port), n < s.variant.ports → lane < 18 → p = s.port n → p.aligned = true →
     (∀ b, blockOk p lane b = true → (∀ l ∈ activeLanes (p.learn lane b), missingOf p l < 2) →
       Yields (.alignmentBlock n lane b) s fun t =>
         (t.port n).rxBeat = some (blockBeat b) ∧ missingOf (t.port n) lane = 0 ∧ (t.port n).st = p.st ∧
         getLE b 8 1 = lane ∧ activeLanes (t.port n) = activeLanes (p.learn lane b)) ∧
     (∀ b, blockOk p lane b = false → missingOf p lane = 0 → (∀ l ∈ activeLanes p, missingOf p l < 2) →
       exec (.alignmentBlock n lane b) s =
       .next (s.setPort n { p with missing := mput 0 p.missing lane 1 })) ∧
     (∀ fl, fl = (if p.failedLanes.contains lane then p.failedLanes else p.failedLanes ++ [lane]) →
       lanePos p lane = some pos → p.faulty lane = false → p.rxSwap = none →
       ∀ c, (c = .symbolLockLost n lane ∨ ∃ b, c = .alignmentBlock n lane b ∧ blockOk p lane b = false ∧
           missingOf p lane = 1 ∧ (∀ l ∈ activeLanes p, missingOf p l < 2) ∧ ∃ l ∈ activeLanes p, missingOf p l = 0) →
       (∀ sp, spareFor { p with failedLanes := fl } = some sp → Yields c s fun t =>
         (t.port n).failedLanes = fl ∧ (t.evt.get (.bgh n)).getLsbD 0 = true ∧
         (p.st = .up → (t.port n).st = .swap) ∧
         ∃ w, (t.port n).rxSwap = some w ∧ w.pos = pos ∧ w.spare = sp ∧ w.eff = p.rxBeat.getD 0 + 16 ∧
           w.since = s.nowBeat) ∧
       (spareFor { p with failedLanes := fl } = none → Yields c s fun t =>
         (t.port n).st = .failed ∧ (t.evt.get (.bgh n)).getLsbD 2 = true)) ∧
     (∀ b, blockOk p lane b = false → 1 ≤ missingOf p lane → lane ∈ activeLanes p →
        (∀ l ∈ activeLanes p, l ≠ lane → 2 ≤ missingOf p l) → Yields (.alignmentBlock n lane b) s fun t =>
          (t.port n).st = .training ∧ (t.evt.get (.bgh n)).getLsbD 3 = true) ∧
     (∀ w b, p.rxSwap = some w → p.rxBeat = some b →
       (w.eff.toNat ≤ b.toNat → w.spare = 16 → p.st = .swap → failedPositions (p.useSpare false w) = [] →
         Yields (.laneSwap n false) s fun t =>
         (t.port n).pos16 = some w.pos ∧ (t.port n).rxSwap = none ∧ (t.port n).st = .up ∧
         (t.evt.get (.bgh n)).getLsbD 1 = true) ∧
       (b.toNat < w.eff.toNat → exec (.laneSwap n false) s = .next s) ∧
       (1000 ≤ (s.nowBeat - w.since).toNat → exec (.laneSwapTimeout n) s =
         .next (s.setPort n { p with st := .failed, rxSwap := none })) ∧
       ((s.nowBeat - w.since).toNat < 1000 → exec (.laneSwapTimeout n) s = .next s))) ∧
  (∀ (n time : Nat) (s : State) (p : Port), n < s.variant.ports → p = s.port n → p.st = .up → p.mode = 0 →
     (∀ l ok, 15 < l.length → exec (.frameReceive n time ok l) s =
       .next (s.setPort n { p with fecUe := satSucc p.fecUe })) ∧
     (overThresh p s.bgh.laneThresh = none →
       (1545 ≤ time → 3 ≤ p.ctlOk → Yields (.frameReceive n time true []) s fun t =>
         (t.port n).noCtl = 0 ∧ (t.port n).st = .up) ∧
       (p.tagBeats.length < s.bgh.tagLimit.toNat → Yields (.frameReceive n time false []) s fun t =>
         (t.port n).tagFail = satSucc p.tagFail ∧ (t.port n).st = .up ∧ (t.port n).keyRx = p.keyRx) ∧
       (s.bgh.tagLimit.toNat ≤ p.tagBeats.length → (∀ b ∈ p.tagBeats, (s.nowBeat - b).toNat < 1000000) →
         Yields (.frameReceive n time false []) s fun t =>
           (t.port n).st = .auth ∧ (t.port n).keyTx = none ∧ (t.port n).keyRx = none ∧
           (t.evt.get (.bgh n)).getLsbD 5 = true)) ∧
     (64 ≤ p.noCtl → Yields (.authTimeout n) s fun t =>
       (t.port n).st = .auth ∧ (t.port n).keyTx = none ∧ (t.port n).keyRx = none ∧ (t.port n).txBeat = 0) ∧
     (p.noCtl < 64 → exec (.authTimeout n) s = .next s))

/-- A port trains, authenticates its partner, first its chain, which it answers with its own signature and an
activation beat, then its signature, and comes UP at the later of the two beats with the level 0 keys of the shared
secret and the transcript of its own exchange; a failed verification waits 100,000 beats and tries again; RETRAIN
takes a FAILED port of a partition to TRAINING, and a Graft port trains only where its lanes run straight (R33, R291,
R292, R293, R294, R502, Table 11-3; the order of the transcript: log entry 34). Job confirms: with none of our own the
partner's is kept, and one that is zero already settles the switch to level 0; with both, the port switches at the
later beat, to the job keys where both named the same nonzero key, to level 0 otherwise; confirms that differ, or one
zero alone, are a mismatch and set its event (R294, R307, R443; log entry 34). The authentication records and the lead
of the switch are the model's (PRESUMED, log entry 11). Where its condition does not hold a command changes nothing
(DESIGN CHOICE, log entry 16). It says of each of these constructors where it completes with its own effect:
trainingDone, retrain, authentication, keyActivation, authRetry, jobConfirm, linkLevelSwitch. -/
def Obligations.PortsComeUpAndSwitchKeys : Prop :=
  (∀ (n : Nat) (s : State) (p : Port), n < s.variant.ports → p = s.port n →
     (∀ d, p.st = .training → p.mode = 0 ∨ d = true → Yields (.trainingDone n true d) s fun t =>
       (t.port n).st = .auth ∧ (t.port n).txBeat = 0 ∧ (t.port n).keyTx = none ∧ (t.port n).authed = false) ∧
     (∀ d, exec (.trainingDone n false d) s = .next s) ∧
     (p.mode ≠ 0 → exec (.trainingDone n true false) s = .next s) ∧
     (p.st = .failed → s.rooted = true → s.sap.clkEn.getLsbD 4 = true → portScrubs s n = false →
       ((ptOfPort s n).isSome = true → exec (.retrain n) s = .next (s.setPort n p.train)) ∧
       (ptOfPort s n = none → exec (.retrain n) s = .next s)) ∧
     (∀ rec, p.st = .auth → p.retryAt = none → getLE rec 0 1 = 6 → getLE rec 2 2 = p.authSeq → 0 < getLE rec 4 1 →
       getLE rec 4 1 ≤ 24 →
       exec (.authentication n rec none) s = .next (s.setPort n { p with
         authSeq := p.authSeq + 1, authBytes := p.authBytes ++ (rec.drop 8).take (getLE rec 4 1) }) ∧
       (p.actTx = none → Yields (.authentication n rec (some true)) s fun t => (t.port n).st = .auth ∧
         (t.port n).authed = p.authed ∧
         (t.port n).actTx = some (p.txBeat + 64 + BitVec.ofNat 64 Config.switchLead) ∧
         (t.port n).secret = some (Config.ecdh p.eph (t.port n).peerKey)) ∧
       (∀ a, p.actTx = some a → Yields (.authentication n rec (some true)) s fun t => (t.port n).authed = true ∧
         (t.port n).st = .auth ∧ (t.port n).actTx = some a ∧
         (t.port n).actRx = BitVec.ofNat 64 (getLE (t.port n).authBytes ((t.port n).authBytes.length - 8) 8)) ∧
       (Yields (.authentication n rec (some false)) s fun t => (t.port n).authed = false ∧
         (t.port n).retryAt = some (s.nowBeat + 100000) ∧ (t.evt.get (.bgh n)).getLsbD 4 = true)) ∧
     (∀ r, p.st = .auth → p.retryAt = some r →
       (r.toNat ≤ s.nowBeat.toNat → Yields (.authRetry n) s fun t =>
         (t.port n).st = .auth ∧ (t.port n).retryAt = none ∧ (t.port n).authBytes = []) ∧
       (s.nowBeat.toNat < r.toNat → exec (.authRetry n) s = .next s)) ∧
     (∀ k h m j a b, p.st = .auth → p.mode = 0 → p.authed = true → p.actTx = some a → p.rxBeat = some b →
       (a.toNat ≤ p.txBeat.toNat → p.actRx.toNat ≤ b.toNat → Yields (.keyActivation n k h m j) s fun t =>
       (t.port n).st = .up ∧ (t.port n).partner = m ∧ (t.port n).partnerPort = j ∧ (t.port n).level1 = false ∧
       (t.port n).secret = p.secret ∧ (t.port n).transcript = transcriptHash t n ∧
       (t.port n).keyTx = some (linkKeys t n 0).1 ∧ (t.port n).keyRx = some (linkKeys t n 0).2 ∧
         (t.port n).noCtl = 0) ∧
       (p.txBeat.toNat < a.toNat ∨ b.toNat < p.actRx.toNat → exec (.keyActivation n k h m j) s = .next s)) ∧
     (∀ k h m j, p.mode = 0 → p.authed = false → exec (.keyActivation n k h m j) s = .next s)) ∧
  (∀ (n : Nat) (s : State) (p : Port), n < s.variant.ports → p = s.port n → p.active = true →
     (∀ head c w, getLE head 0 1 = 5 → p.mine = none → w = BitVec.ofNat 64 (getLE head 8 8) →
       (bitAt (getLE head 1 1) 0 = false → exec (.jobConfirm n head c) s =
         .next (s.setPort n { p with theirs := some (false, w, c.take 8) })) ∧
       (bitAt (getLE head 1 1) 0 = true → Yields (.jobConfirm n head c) s fun t =>
         (t.port n).theirs = some (true, w, c.take 8) ∧
         (t.port n).switchAt = some (s.nowBeat + (w - p.rxBeat.getD 0), false) ∧
         (holdsJobKey s n = true → (t.evt.get (.bgh n)).getLsbD 6 = true))) ∧
     (∀ head c w z b x k, getLE head 0 1 = 5 → p.mine = some x → w = BitVec.ofNat 64 (getLE head 8 8) →
       z = bitAt (getLE head 1 1) 0 → b = (!x.1 && !z && p.confirms w (c.take 8)) →
       (k = let i := s.nowBeat + (x.2 - p.txBeat)
            let j := s.nowBeat + (w - p.rxBeat.getD 0)
            if i.toNat < j.toNat then j else i) →
       Yields (.jobConfirm n head c) s fun t => (t.port n).switchAt = some (k, b) ∧
         (b = false → (x.1 && z) = false → (t.evt.get (.bgh n)).getLsbD 6 = true)) ∧
     (∀ k up, p.switchAt = some (k, up) →
       (k.toNat ≤ s.nowBeat.toNat → up = true → Yields (.linkLevelSwitch n) s fun t =>
         (t.port n).level1 = true ∧ (t.port n).keyTx = some (p.nextTx.getD 0) ∧ (t.port n).switchAt = none) ∧
       (k.toNat ≤ s.nowBeat.toNat → up = false → Yields (.linkLevelSwitch n) s fun t =>
         (t.port n).level1 = false ∧ (t.port n).keyTx = some (linkKeys s n 0).1 ∧ (t.port n).switchAt = none) ∧
       (s.nowBeat.toNat < k.toNat → exec (.linkLevelSwitch n) s = .next s)))

/-- Lines of outer memory: two beats after its first write the line of a write-combining entry is read and checked,
the entry is merged into it and no other byte changes, while a failed check or a destroyed key halts the device and a
region in INIT makes it wait; a tracker's end gives its page the next major counter, and so does the early
re-encryption of a watched page; a failed MAC check halts the device with its gates closed and its keys gone, and a
good one is only struck off; a release buffer gives up its oldest entry while the gates are open (R239, R240, R242,
R243, R244, R245, R248, R416). TRACKER_DONE of a watched page with no tracker is the end of its early re-encryption
(DEDUCED, log entry 33), and so is the order of waiting writes; what a halt does to the entries is log entry 10. Where
its condition does not hold a command changes nothing (DESIGN CHOICE, log entry 16). It says of each of these
constructors where it completes with its own effect: wcEntryTimeout, trackerDone, macCheckComplete,
releaseWindowExpiry. -/
def Obligations.OuterLinesAreCombinedCheckedAndReleased : Prop :=
  (∀ (bus line : Nat) (s : State) (e : WcEntry), bus < 8 →
    s.mb.wc.find? (fun e => e.line == line && !e.waits) = some e → pageBus (line / 64) = bus →
    (2 ≤ (s.cmb.beat - e.first).toNat → inInit s line = false →
      (lineExhausted s line = false → keyLive s line = true →
        mget (omPage s (line / 64)).defMinor (omPage s (line / 64)).minors (line % 64) < 127 →
        Yields (.wcEntryTimeout bus line true) s fun t =>
          omPlain t line = (List.range 64).map (fun i => mget ((omPlain s line).getD i 0) e.data i) ∧
          ∀ a, a < outerBase + 64 * line ∨ outerBase + 64 * line + 64 ≤ a → readB t a = readB s a) ∧
      (∀ ok, (ok && keyLive s line) = false → s.isHalted = false → Yields (.wcEntryTimeout bus line ok) s fun t =>
        t.isHalted = true ∧ t.gates.closed = true ∧ t.mb.haltCause = 2 ∧ t.mb.haltBus = bus ∧
        t.mb.haltAddr = rawLine line ∧ t.mem = s.mem)) ∧
    ((s.cmb.beat - e.first).toNat < 2 ∨ inInit s line = true → ∀ ok, exec (.wcEntryTimeout bus line ok) s = .next s)) ∧
  (∀ (page : Nat) (s : State),
    ((omPage s page).tracker = none → s.mb.watch.contains page = false → exec (.trackerDone page) s = .next s) ∧
    ((omPage s page).tracker = none → s.mb.watch.contains page = true → (omPage s page).major + 1 < 2 ^ 64 - 1 →
      Yields (.trackerDone page) s fun t => (omPage t page).major = (omPage s page).major + 1 ∧
        (omPage t page).minors = [] ∧ t.mem = s.mem) ∧
    ((omPage s page).tracker.isSome = true → (∀ e ∈ s.mb.wc, e.waits = false) → Yields (.trackerDone page) s fun t =>
      (omPage t page).major = (omPage s page).major + 1 ∧ (omPage t page).tracker = none ∧ t.mem = s.mem)) ∧
  (∀ (bus line : Nat) (s : State) (e : Nat × Nat × Nat) (found ok : Bool), bus < 8 → s.isHalted = false →
    s.mb.checks.find? (fun e => e.1 == bus && e.2.1 == line) = some e →
    ok = (found && keyLive s (64 * rawPage bus line + line % 64)) →
    (ok = true → exec (.macCheckComplete bus line found) s =
      .next { s with mb := { s.mb with checks := s.mb.checks.erase e } }) ∧
    (ok = false → Yields (.macCheckComplete bus line found) s fun t => t.isHalted = true ∧ t.gates.closed = true ∧
      t.mb.kids = [] ∧ t.hw.ctxKey = none ∧ t.hw.fenceKey = none ∧
      t.mb.haltCause = e.2.2 ∧ t.mb.haltBus = bus ∧ t.mb.haltAddr = line ∧ t.mem = s.mem ∧
      ∀ p < 4, (t.tenancy p).hbmKey = none)) ∧
  ∀ (o : Out) (os : List Out) (s : State),
    (s.gates.closed = true → ∀ g, exec (.releaseWindowExpiry g) s = .next s) ∧
    (s.gates.closed = false → s.gates.bough = o :: os → exec (.releaseWindowExpiry .bough) s =
      .next { s with gates := { s.gates with bough := os }, outbox := s.outbox ++ [o] }) ∧
    (s.gates.closed = false → s.gates.pcie = o :: os → exec (.releaseWindowExpiry .pcie) s =
      .next { s with gates := { s.gates with pcie := os }, outbox := s.outbox ++ [o] }) ∧
    (s.gates.closed = false → s.gates.ckpt = o :: os → exec (.releaseWindowExpiry .checkpoint) s =
      .next { s with gates := { s.gates with ckpt := os }, outbox := s.outbox ++ [o] })

/-- A key region goes from INIT, with every byte zero, to ACTIVE; a requested rotation, once none before it is
incomplete, to ROTATING under a new key ID with the old one as previous; its sweep to FLUSHING, waiting while a page
of it waits for a tracker, or to EXHAUSTED where it would spend a major counter; and with no entry of the region left
to ACTIVE, also out of EXHAUSTED, the old key destroyed. A refresh count of 5 forces the refresh, sets REFRESH_WD and
discards the step (R222, R240, R241, R249, R250, Table 9-7). An EXHAUSTED region goes through its sweep and leaves
with the end of its rotation (DEDUCED, log entries 10 and 33). Where its condition does not hold a command changes
nothing (DESIGN CHOICE, log entry 16). It says of each of these constructors where it completes with its own effect:
refreshWatchdog, regionInitDone, rotationStart, sweepDone, flushDone. -/
def Obligations.KeyRegionsGoRoundTheirStates : Prop :=
  (∀ (r : Nat) (s : State) (x : Region), r < 64 → x = s.region r →
    (x.st = .init → (∀ e ∈ s.mb.wc, e.waits = true → inRegion s r (e.line / 64) = false) →
      Yields (.regionInitDone r) s fun t => (t.region r).st = .active ∧
      (∀ a, (regionBytes s r).1 ≤ a → a < (regionBytes s r).1 + (regionBytes s r).2 → readB t a = 0) ∧
      ∀ a, a < (regionBytes s r).1 ∨ (regionBytes s r).1 + (regionBytes s r).2 ≤ a → readB t a = readB s a) ∧
    (x.st ≠ .init → exec (.regionInitDone r) s = .next s) ∧
    (x.rotate = true → x.st = .active ∨ x.st = .exhausted → x.sweeping = false → x.prev = x.kid →
      (s.part (r / 16)).running = none → Yields (.rotationStart r) s fun t => (t.region r).st = .rotating ∧
      (t.region r).prev = x.kid ∧ (t.region r).rotate = false ∧ (t.region r).sweeping = true ∧
      (t.region r).wasExhausted = decide (x.st = .exhausted) ∧ (t.mb.kids.any fun e => e.1 == (t.region r).kid) = true ∧
      t.mem = s.mem) ∧
    (x.rotate = false → exec (.rotationStart r) s = .next s) ∧
    ((s.part (r / 16)).running.isSome = true → exec (.rotationStart r) s = .next s) ∧
    (x.sweeping = false → exec (.sweepDone r) s = .next s) ∧
    (∀ pages spent, x.sweeping = true → pages = (s.mb.om.map (·.1)).filter (inRegion s r) →
      spent = (!x.wasExhausted && (x.rest.spent x.kid || pages.any fun p => (omPage s p).spent x.kid)) →
      (spent = true → Yields (.sweepDone r) s fun t =>
        t.region r = { x with st := .exhausted, wasExhausted := true } ∧ (t.evt.get .mem).getLsbD 8 = true ∧
        t.mem = s.mem) ∧
      (spent = false → sweepPages x.kid x.wasExhausted pages s = none → exec (.sweepDone r) s = .next s) ∧
      (∀ u, spent = false → sweepPages x.kid x.wasExhausted pages s = some u → Yields (.sweepDone r) s fun t =>
        (t.region r).st = .flushing ∧ (t.region r).progress = x.pages ∧ (t.region r).sweeping = false ∧
        t.mem = u.mem ∧ t.mb.om = u.mb.om)) ∧
    (x.prev ≠ x.kid → x.sweeping = false → (∀ e ∈ s.mb.wc, inRegion s r (e.line / 64) = false) →
      Yields (.flushDone r) s fun t => (t.region r).st = .active ∧ (t.region r).wasExhausted = false ∧
        (t.region r).prev = x.kid ∧ t.mem = s.mem ∧ ∀ e ∈ t.mb.kids, e.1 ≠ x.prev) ∧
    (x.prev = x.kid ∨ x.sweeping = true ∨ (∃ e ∈ s.mb.wc, inRegion s r (e.line / 64) = true) →
      exec (.flushDone r) s = .next s)) ∧
  ∀ (h pc pt : Nat) (s : State) (r : StepRun), h < s.variant.stacks → pc < 32 → ptOfStack s h = some pt →
    (s.part pt).running = some r → r.ph = .running →
    (5 ≤ (refreshOf s h).getD pc 0 → Yields (.refreshWatchdog h pc) s fun t => (refreshOf t h).getD pc 0 = 0 ∧
      (t.evt.get .mem).getLsbD 6 = true ∧ ∃ q, (t.part pt).cur = some q ∧ q.faulted = true) ∧
    ((refreshOf s h).getD pc 0 < 5 → exec (.refreshWatchdog h pc) s = .next s)

/-- What a power-down or a reset takes with it and leaves: no tenancy, queue, session or Heartwood key stays, while
the fuses, the life-cycle marks and module flash do (R413, R468, Tables 16-6 and 17-5). -/
def Sys2Proof.Machine.Cleared (s t : State) : Prop :=
  t.ten = [] ∧ t.parts = [] ∧ t.hif = {} ∧ t.sessions = [] ∧ t.hw.bk = none ∧ t.hw.ik = none ∧ t.hw.booted = false ∧
    t.hw.lcBegin = s.hw.lcBegin ∧ t.hw.lcDone = s.hw.lcDone ∧ t.hw.bankA = s.hw.bankA ∧
    t.hw.bankB = s.hw.bankB ∧ t.hw.tamperFuses = s.hw.tamperFuses ∧ t.hw.svnFuses = s.hw.svnFuses ∧
    t.cnp.blocks = s.cnp.blocks.map LogBlock.leftOpen ∧ t.cnp.anchor = s.cnp.anchor ∧ t.cnp.slot = s.cnp.slot

/-- Power and resets: loss of PWR_EN or of the supply, a thermal shutdown and a module reset clear the module as Table
16-6 says and keep the tamper latch unless the 48 V themselves are gone; an edge of PWR_EN with a good supply starts
the climb; the supply's return finds no latch (R411, R413, R457, R467, R491, R494, R495, R498). The stages in their
order: the bounds count from the release of PERST#; Seedling follows Dormant within its bound; a Rooted stage needs a
bundle in the slot that passes every check, burns a latched tamper, empties the SRAM and boots Heartwood, and a
refused one leaves the recovery loader; Leafed needs TREF and the PLLs, rebuilds the repair records that fail and
makes the soft repairs hard; the full stage burns the committed security version; a bound that passes ends the climb
(R413, R418, R465, R466, R483, R484, R485). The power state in which State.reset stands, and what the memories hold
after a loss of power, are the model's (DESIGN CHOICE, log entry 5). Where its condition does not hold a command
changes nothing (DESIGN CHOICE, log entry 16). It says of each of these constructors where it completes with its own
effect: thermalShutdown, powerEnable, powerDisable, supplyFault, moduleReset, supplyApplied, perstDeassert,
seedlingStage, rootedStage, leafedStage, fullStage, stageTimeout. -/
def Obligations.PowerResetsAndStages : Prop :=
  (∀ s : State,
     (s.powered = true → Yields .moduleReset s fun t => Cleared s t ∧ t.hw.tamperLatch = s.hw.tamperLatch ∧
       t.pwr.stage = .seedling ∧ t.pwr.perst = true) ∧
     (s.powered = false → exec .moduleReset s = .next { s with pwr := { s.pwr with perst := true } }) ∧
     (s.powered = true → Yields .powerDisable s fun t => Cleared s t ∧ t.hw.tamperLatch = s.hw.tamperLatch ∧
       t.pwr.stage = .dormant ∧ t.pwr.pwrOk = false ∧ t.pwr.pwrEn = false ∧ t.ikPub = []) ∧
     (s.powered = false → s.pwr.pwrOk = false → exec .powerDisable s =
       .next { s with pwr := { s.pwr with pwrEn := false } }) ∧
     (∀ gone, s.powered = true → Yields (.supplyFault gone) s fun t => Cleared s t ∧ t.pwr.stage = .dormant ∧
       t.pwr.pwrOk = false ∧ t.pwr.supply = (s.pwr.supply && !gone) ∧
       t.hw.tamperLatch = (s.hw.tamperLatch && !gone)) ∧
     (s.powered = true → ∀ g < 8, 920 ≤ (s.thermal g).compute ∨ 840 ≤ (s.thermal g).hbm →
       Yields .thermalShutdown s fun t => Cleared s t ∧ t.hw.tamperLatch = s.hw.tamperLatch ∧ t.pwr.stage = .dormant ∧
         t.pwr.pwrOk = false) ∧
     ((∀ g < 8, (s.thermal g).compute < 920 ∧ (s.thermal g).hbm < 840) → exec .thermalShutdown s = .next s) ∧
     (s.pwr.pwrEn = false → s.pwr.supply = true → s.pwr.stage = .dormant → Yields .powerEnable s fun t =>
       t.pwr = { s.pwr with pwrEn := true, pwrOk := true, uptime := 0, refAt := 0,
                            trefAt := if s.cmb.tref then some 0 else none } ∧ t.hw = s.hw ∧ t.mem = s.mem) ∧
     (s.pwr.pwrEn = false → s.pwr.supply = false → exec .powerEnable s =
       .next { s with pwr := { s.pwr with pwrEn := true } }) ∧
     (s.pwr.pwrEn = true → exec .powerEnable s = .next s) ∧
     (s.pwr.supply = true → exec .supplyApplied s = .next s) ∧
     (s.pwr.supply = false → exec .supplyApplied s = .next { s with
       pwr := { s.pwr with supply := true, tamperWatch := armedState (lcState s.hw) },
       hw := { s.hw with tamperLatch := false } })) ∧
  (∀ s : State,
     (s.pwr.perst = true → exec .perstDeassert s = .next { s with pwr := { s.pwr with
       perst := false, refAt := if s.pwr.pwrOk then s.pwr.uptime else s.pwr.refAt } }) ∧
     (s.pwr.perst = false → exec .perstDeassert s = .next s) ∧
     (s.pwr.stage = .dormant → s.pwr.pwrOk = true → s.pwr.failed = false →
       (boundPassed s = false → exec .seedlingStage s = .next { s with pwr := { s.pwr with stage := .seedling } }) ∧
       (boundPassed s = true → exec .seedlingStage s = .next s)) ∧
     (∀ c cert b, b = s.cnp.slot → s.pwr.stage = .seedling → s.climbing = true → s.cnp.slotOk = true →
       bundleOk s b c = true →
       Yields (.rootedStage c cert) s fun t => t.pwr.stage = .rooted ∧ t.hw.booted = true ∧
         t.hw.bundle = bundleDigest b ∧ t.hw.bundleSvn = bundleSvn b ∧ t.cnp.idCert = cert.or s.cnp.idCert ∧
         t.hw.tamperLatch = false ∧ t.hw.tamperFuses = (if s.hw.tamperLatch then min 32 (s.hw.tamperFuses + 1)
           else s.hw.tamperFuses) ∧ t.cnp.recovery = false ∧ ∀ a < 2 ^ 45, readB t a = 0) ∧
     (∀ c cert, s.pwr.stage = .seedling → s.climbing = true → (s.cnp.slotOk && bundleOk s s.cnp.slot c) = false →
       Yields (.rootedStage c cert) s fun t =>
       t.pwr.stage = .seedling ∧ t.pwr.failed = true ∧ t.pwr.reason = 2 ∧ t.cnp.recovery = true ∧
       t.hw.booted = s.hw.booted) ∧
     (s.pwr.stage = .rooted → s.climbing = true → s.cmb.tref = true → s.cmb.pllLocked = true →
       (exec (.leafedStage []) s = .next { s with
         pwr := { s.pwr with stage := .leafed }, mb := { s.mb with hard := s.mb.repaired } }) ∧
       (∀ bad, Yields (.leafedStage bad) s fun t => t.pwr.stage = .leafed ∧ t.mb.hard = t.mb.repaired ∧ t.mem = s.mem) ∧
       (∀ g l, Yields (.leafedStage [⟨.remap g, l⟩]) s fun t => t.grove g = (s.grove g).rebuild l) ∧
       (∀ n l, Yields (.leafedStage [⟨.lanes n, l⟩]) s fun t => (t.port n).failedLanes = l)) ∧
     (s.cmb.tref = false → ∀ bad, exec (.leafedStage bad) s = .next s) ∧
     (s.pwr.stage = .leafed → s.climbing = true → Yields .fullStage s fun t => t.pwr.stage = .full ∧
       t.hw.svnFuses = (if s.hw.bundleCommit then max s.hw.svnFuses s.hw.bundleSvn else s.hw.svnFuses) ∧
       ∀ p < 4, (t.clock p).tier = 0 ∧ (t.clock p).standbyTier = 1 ∧ (t.clock p).standbyLocked = true) ∧
     (∀ k, 1 ≤ k → k ≤ 6 → boundPassed s = false → exec (.stageTimeout k) s = .next s) ∧
     (∀ k, 1 ≤ k → k ≤ 6 → s.pwr.pwrOk = true → boundPassed s = true → s.pwr.failed = false →
       Yields (.stageTimeout k) s fun t => t.pwr.failed = true ∧ t.pwr.reason = BitVec.ofNat 8 k ∧
         t.pwr.stage = s.pwr.stage ∧ t.mem = s.mem))

/-- Clocks and protection: the standby PLL's lock frees the start withheld for it; a hung multiplexer or a stopped
clock resets the partition's clock domains until they relock; a draw beyond the limit and a thermal stop trip the
limiter, which is a fault of the running step and ends its operations; readings are taken in, a grove's hottest ones
too; the counter starts for a known source and delivers a count that its window allows (R447, R449, R454, R455, R456,
R460, R473). A configuration commit: ARM requests one at the CFG_COMMIT value in force, and the boundary that ends its
beat checks it: one that passes is pending, one that fails gives its reason and its event; ABORT cancels a pending one
and keeps the staged values; at its beat every staged field of a free partition takes effect (R461 to R464, Table
16-3). Where its condition does not hold a command changes nothing (DESIGN CHOICE, log entry 16). It says of each of
these constructors where it completes with its own effect: standbyPllLock, muxHang, clockStop, clockDomainRelock,
currentLimitTrip, thermalStop, thermalStopEnd, sensorRead, fmcStart, fmcDone, configArm, configAbort,
configCommitApply. -/
def Obligations.ClocksProtectionAndConfiguration : Prop :=
  ((∀ (pt : Nat) (s : State), pt < 4 → s.powered = true →
     ((s.clock pt).standbyLocked = false → (s.clock pt).domainReset = false → ∀ r, (s.part pt).sel = some r →
       r.waitLock = true → r.tau = (s.clock pt).standbyTier → Yields (.standbyPllLock pt) s fun t =>
         (t.clock pt).standbyLocked = true ∧
         (t.part pt).sel = some { r with waitLock := false, tier := r.tau }) ∧
     (∀ c bit, (c = .muxHang pt ∧ bit = 3) ∨ (c = .clockStop pt ∧ bit = 2) → pt < (ptList s).length → Yields c s fun t =>
       (t.evt.get .sap).getLsbD bit = true ∧ (t.clock pt).domainReset = true ∧
       ∀ r, (s.part pt).running = some r → r.ph = .running → ∃ q, (t.part pt).cur = some q ∧ q.faulted = true) ∧
     ((s.clock pt).domainReset = true → Yields (.clockDomainRelock pt) s fun t =>
       (t.clock pt).domainReset = false ∧ t.mem = s.mem) ∧
     (∀ g d r, g < 8 → ptOfGrove s g = some pt → (s.part pt).running = some r → r.ph = .running →
       (drawTrips s pt g d = true → Yields (.currentLimitTrip pt g d) s fun t => (t.evt.get .sap).getLsbD 1 = true ∧
         t.mem = s.mem ∧ ∃ q, (t.part pt).cur = some q ∧ q.faulted = true ∧ q.tripped = true) ∧
       (drawTrips s pt g d = false → exec (.currentLimitTrip pt g d) s = .next s) ∧
       (840 ≤ (s.thermal g).compute ∨ 760 ≤ (s.thermal g).hbm → (s.thermal g).stop = false →
         Yields (.thermalStop g) s fun t => (t.thermal g).stop = true ∧ (t.evt.get .sap).getLsbD 5 = true ∧
           ∃ q, (t.part pt).cur = some q ∧ q.faulted = true ∧ q.tripped = true))) ∧
   ∀ (s : State),
     (∀ g pt, g < 8 → ptOfGrove s g = some pt →
       (coolLong s pt = true → exec (.thermalStopEnd g) s = .next (s.setThermal g { s.thermal g with stop := false })) ∧
       (coolLong s pt = false → exec (.thermalStopEnd g) s = .next s)) ∧
     (∀ x v, s.powered = true → Yields (.sensorRead [x] v) s fun t => t.sap.rails = v ∧ t.sensor x.sensor = x.value ∧
       (∀ i, i ≠ x.sensor → t.sensor i = s.sensor i) ∧ ∀ g < 8, (t.thermal g).compute = t.hottest (groveSensors g) ∧
         (t.thermal g).hbm = t.hottest (hbmSensors s.variant g) ∧ (t.thermal g).stop = (s.thermal g).stop) ∧
     (s.rooted = true → s.sap.clkEn.getLsbD 7 = true → anyOwns s 20 = false →
       (s.sap.fmcTgtSrc < 14 → s.sap.fmcRefSrc < 14 → exec .fmcStart s =
         .next { s with sap := { s.sap with fmcBusy := true } }) ∧
       (14 ≤ s.sap.fmcTgtSrc ∨ 14 ≤ s.sap.fmcRefSrc → exec .fmcStart s = .next s)) ∧
     (∀ n, fmcFinds s n = false → exec (.fmcDone n) s = .next s) ∧
     (∀ n, s.sap.fmcBusy = true → fmcFinds s n = true → Yields (.fmcDone n) s fun t => t.sap.fmcBusy = false ∧
       t.sap.fmcCount = BitVec.ofNat 32 (min n (2 ^ 32 - 1)) ∧ (t.evt.get .sap).getLsbD 6 = true)) ∧
  (∀ s : State,
     (s.rooted = true →
       (exec (.configArm false) s = .next { s with cfg := { s.cfg with arms := s.cfg.arms ++ [commitBeat s] } }) ∧
       (exec (.configArm true) s = .next { s with cfg := { s.cfg with
         pending := false, remain := none, arms := s.cfg.arms ++ [commitBeat s] } }) ∧
       (exec .configAbort s = .next { s with cfg := { s.cfg with pending := false, remain := none } })) ∧
     (∀ c, s.cfg.arms = [c] →
       (∀ k, commitCheck s c = some k → s.runArms.cfg = { s.cfg with arms := [], reason := k } ∧
         (s.runArms.evt.get .cfg).getLsbD 1 = true ∧ s.runArms.mem = s.mem) ∧
       (commitCheck s c = none → s.runArms = { s with cfg := { s.cfg with
         arms := [], pending := true, beat := c, remain := if c = 0 then some 16 else none } })) ∧
     (commitDue s = false → exec .configCommitApply s = .next s) ∧
     (commitDue s = true → Yields .configCommitApply s fun t => t.cfg.pending = false ∧
       (t.evt.get .cfg).getLsbD 0 = true ∧ t.mem = s.mem ∧
       (1 ≤ s.cfg.stLayout → s.cfg.stLayout ≤ 8 → (∀ p < 4, (s.tenancy p).st = .none) →
         t.cfg.layout = s.cfg.stLayout ∧ t.cfg.waitLayout = none) ∧
       (∀ p < 4, (t.part p).grid = (s.part p).stGrid) ∧
       (∀ p < 4, (s.redPt p).stInit ≠ 0 → (s.redPt p).stInit ≠ 0xFF → (t.redPt p).init = (s.redPt p).stInit) ∧
       ∀ n < s.variant.ports, (s.port n).stMode ≠ 3 → (t.port n).mode = (s.port n).stMode))

/-- Canopy's log: the oldest waiting entry is programmed with the next SEQ behind the newest one, beyond 4,096 in an
interval it is dropped and counted; a block that is full or 10,000,000 beats old is closed (R474, R475, R477).
Canopy's core: a watchdog expiry or a memory error resets the core alone; it comes back where the component in the
slot can be read and matches the digest of the last Rooted stage, and else stays in ROM mode (R470, R472). Where its
condition does not hold a command changes nothing (DESIGN CHOICE, log entry 16). It says of each of these constructors
where it completes with its own effect: logEntry, logBlockClose, canopyWatchdogExpiry, canopySramError,
canopyCoreRestart. -/
def Obligations.TheLogAndTheCoreOfCanopy : Prop :=
  (∀ s : State, s.coreRuns = true → intervalOver s = false →
     (∀ e es, s.cnp.fifo = e :: es → s.cnp.intervalCount < 4096 → Yields .logEntry s fun t =>
       t.cnp.fifo = es ∧ t.cnp.logSeq = s.cnp.logSeq + 1 ∧ t.cnp.intervalCount = s.cnp.intervalCount + 1 ∧
       ∃ b, t.cnp.blocks.getLast? = some b ∧ b.entries.getLast? = some (logBytes s.cnp.logSeq e)) ∧
     (∀ e es, s.cnp.fifo = e :: es → 4096 ≤ s.cnp.intervalCount → Yields .logEntry s fun t =>
       t.cnp.fifo = es ∧ t.cnp.logSeq = s.cnp.logSeq ∧ t.cnp.blocks = s.cnp.blocks ∧
       t.cnp.intervalDropped = s.cnp.intervalDropped + 1) ∧
     (∀ b, openBlock s.cnp = some b →
       (1019 ≤ b.entries.length ∨ b.firstUp + 10000000 ≤ s.pwr.uptime → Yields .logBlockClose s fun t =>
         openBlock t.cnp = none ∧ t.cnp.blocks.length = s.cnp.blocks.length ∧ t.mem = s.mem) ∧
       (b.entries.length < 1019 → s.pwr.uptime < b.firstUp + 10000000 →
         exec .logBlockClose s = .next s))) ∧
  (∀ s : State,
     (∀ c, c = .canopyWatchdogExpiry ∨ c = .canopySramError → s.coreRuns = true → Yields c s fun t =>
       t.cnp.coreDown = true ∧ t.cnp.up = false ∧ t.cnp.tlsOpen = 0 ∧ (t.evt.get .cnp).getLsbD 0 = true ∧
       (s.cnp.resets < 0xFFFF → t.cnp.resets = s.cnp.resets + 1) ∧ t.mem = s.mem ∧ t.parts = s.parts ∧ t.hw = s.hw) ∧
     (s.cnp.coreDown = true → s.hw.booted = true → s.cnp.romMode = false → ∀ d, d = canopyComponent s.cnp.slot →
       (d = some s.hw.canopyDigest → exec (.canopyCoreRestart true) s =
         .next { s with cnp := { s.cnp with coreDown := false, up := true } }) ∧
       (∀ r, r = false ∨ d ≠ some s.hw.canopyDigest → Yields (.canopyCoreRestart r) s fun t => t.cnp.coreDown = false ∧
         t.cnp.romMode = true ∧ t.cnp.up = s.cnp.up ∧ (t.evt.get .cnp).getLsbD 1 = true)))

/-- Management commands over a running core: status, log blocks, certificates, sensors and rails are answered and
change nothing; of a rail its voltage and its current; a cap of 400 to 3,000 W is taken and another refused; an anchor
is set once, or changed by an authenticated client; a reset answers and clears the module; at most four clients
connect (R472, R473, R478 to R480, Table 17-4). Completion codes and the numbers of the rails are the model's (DESIGN
CHOICE, log entry 15). It says of each of these constructors where it completes with its own effect: tlsConnect,
pldmSensorRead, getStatus, readLog, setCap, resetModule, setAnchor, getCerts. -/
def Obligations.CanopyServesManagement : Prop :=
  ∀ s : State, s.coreRuns = true → s.cnp.up = true →
    (exec .getStatus s = .next (s.answer 1 0 (toLE 4 (sapStageWord s) ++ toLE 4 (secStatusWord s) ++
      toLE 4 s.sap.capMgmt ++ toLE 4 s.sap.capHost ++ (List.range 4).flatMap fun p => toLE 4 (secPtWord s p)))) ∧
    (∀ k, exec (.readLog k) s = .next (s.answer 2 0
      (((s.cnp.blocks.filter fun b => decide (k ≤ b.seq)).take 16).flatMap LogBlock.bytes))) ∧
    (exec .getCerts s = .next (s.answer 9 0 (s.cnp.mgmtCert ++ certChain s))) ∧
    (∀ i, i < sensorCount s.variant → exec (.pldmSensorRead i) s =
      .next (s.answer 0x11 0 (toLE 2 (sensorValue s i)))) ∧
    (∀ (i : Nat) (v : RailReading), s.sap.rails[i]? = some v →
      exec (.pldmSensorRead (sensorCount s.variant + 2 * i)) s = .next (s.answer 0x11 0 (toLE 4 v.volts)) ∧
      exec (.pldmSensorRead (sensorCount s.variant + (2 * i + 1))) s = .next (s.answer 0x11 0 (toLE 4 v.amps))) ∧
    (∀ w, (400 ≤ w → w ≤ 3000 → exec (.setCap w) s =
        .next (({ s with sap := { s.sap with capMgmt := w } }).answer 3 0)) ∧
      (w < 400 ∨ 3000 < w → exec (.setCap w) s = .next (s.answer 3 1))) ∧
    (∀ c, c.length ≤ 2048 →
      (s.cnp.anchor = none → ∀ a, exec (.setAnchor false a c) s =
        .next (({ s with cnp := { s.cnp with anchor := some c } }).answer 8 0)) ∧
      (s.cnp.anchor.isSome = true → (0 < s.cnp.tlsOpen → exec (.setAnchor true true c) s =
        .next (({ s with cnp := { s.cnp with anchor := some c } }).answer 8 0)) ∧
        ∀ a, exec (.setAnchor false a c) s = .next (s.answer 8 1))) ∧
    (s.cnp.recovery = false → Yields .resetModule s fun t => t.pwr.stage = .seedling ∧ t.ten = [] ∧ t.parts = [] ∧
      t.outbox = s.outbox ++ [.pldm 4 0 []] ∧ openBlock t.cnp = none) ∧
    (s.cnp.mgmtKey.isSome = true →
      (s.cnp.anchor.isSome = true → s.cnp.tlsOpen < 4 → exec (.tlsConnect true true) s =
        .next (({ s with cnp := { s.cnp with tlsOpen := s.cnp.tlsOpen + 1 } }).emit (.tls true))) ∧
      (4 ≤ s.cnp.tlsOpen → ∀ a b, exec (.tlsConnect a b) s = .next (s.emit (.tls false))))

/-- Firmware, over an open TLS connection: a refused header leaves the slot; an accepted bundle is written and
verified; under the recovery loader BEGIN, CHUNK and FINISH check their order and ranges, each is BUSY to the boundary
that ends its beat, which ignores another, and a verified bundle is READY and resets the module there (R484, R486,
R487, R518, Table 17-7). Answer codes, ERROR 01h before BEGIN and the time of BUSY and READY are the model's (DESIGN
CHOICE, log entry 15). Where its condition does not hold a command changes nothing (DESIGN CHOICE, log entry 16). It
says of each of these constructors where it completes with its own effect: firmwareUpdate, recoveryBegin,
recoveryChunk, recoveryFinish. -/
def Obligations.FirmwareIsCheckedBeforeItRuns : Prop :=
  (∀ (s : State) (b : Bundle), s.cnp.tlsOpen = 0 → exec (.firmwareUpdate b) s = .next s) ∧
  (∀ (s : State) (b : Bundle), s.coreRuns = true → s.cnp.up = true → s.cnp.recovery = false → 0 < s.cnp.tlsOpen →
    (bundleHeader s b.bytes = false → exec (.firmwareUpdate b) s = .next (s.answer 0x15 1)) ∧
    (bundleHeader s b.bytes = true → Yields (.firmwareUpdate b) s fun t =>
      t.cnp.slot = b.bytes.take slotBytes ∧ t.cnp.slotOk = bundleOk s t.cnp.slot b.check ∧
      (t.evt.get .cnp).getLsbD 3 = true ∧ t.hw = s.hw)) ∧
  (∀ s : State, s.powered = true → s.cnp.recovery = true → s.pwr.rcvBusy = true →
    (∀ f, exec (.recoveryBegin f) s = .next s ∧ exec (.recoveryChunk f) s = .next s) ∧
    (∀ c, exec (.recoveryFinish c) s = .next s) ∧
    (s.pwr.rcvReady = false → s.endMailbox = { s with pwr := { s.pwr with rcvBusy := false } }) ∧
    (s.pwr.rcvReady = true → s.endMailbox.pwr.stage = .seedling ∧ s.endMailbox.cnp.recovery = false ∧
      s.endMailbox.cnp.slot = s.cnp.slot ∧ s.endMailbox.cnp.slotOk = s.cnp.slotOk)) ∧
  ∀ s : State, s.powered = true → s.cnp.recovery = true → s.pwr.rcvBusy = false →
    (∀ f b, b = rcvChunk s →
      (headerMatches s b = false → Yields (.recoveryBegin f) s fun t => t.pwr.rcvError = 1 ∧ t.pwr.rcvBusy = true ∧
        t.cnp = s.cnp) ∧
      (headerMatches s b = true → svnOk s b = false → Yields (.recoveryBegin f) s fun t => t.pwr.rcvError = 2 ∧
        t.pwr.rcvBusy = true ∧ t.cnp = s.cnp) ∧
      (bundleHeader s b = true → bundleLength b ≤ slotBytes → s.pwr.rcvOffset = 0 → chunkFits s = true →
        Yields (.recoveryBegin f) s fun t => t.pwr.rcvBegun = f ∧ t.pwr.rcvError = (if f then 0 else 5) ∧
          t.pwr.rcvBusy = true ∧ t.cnp.slot = b ∧ t.cnp.slotOk = false)) ∧
    (s.pwr.rcvBegun = false → (∀ f, Yields (.recoveryChunk f) s fun t => t.pwr.rcvError = 1 ∧ t.cnp = s.cnp) ∧
      ∀ c, Yields (.recoveryFinish c) s fun t => t.pwr.rcvError = 1 ∧ t.cnp = s.cnp) ∧
    (s.pwr.rcvBegun = true →
      (chunkFits s = false → ∀ f, Yields (.recoveryChunk f) s fun t => t.pwr.rcvError = 3 ∧ t.cnp = s.cnp) ∧
      (chunkFits s = true → ∀ f, exec (.recoveryChunk f) s = .next { s with
        pwr := { s.pwr with rcvBusy := true, rcvError := if f then 0 else 5 },
        cnp := { s.cnp with slot := slotAt s.cnp.slot s.pwr.rcvOffset.toNat (rcvChunk s) } })) ∧
    (s.pwr.rcvBegun = true → ∀ c,
      (bundleOk s s.cnp.slot c = true → Yields (.recoveryFinish c) s fun t => t.pwr.rcvReady = true ∧
        t.pwr.rcvBegun = false ∧ t.pwr.rcvError = 0 ∧ t.cnp.slotOk = true ∧ t.cnp.recovery = true) ∧
      (bundleOk s s.cnp.slot c = false → Yields (.recoveryFinish c) s fun t =>
        t.pwr.rcvError = (if c.flashOk then 4 else 5) ∧ t.pwr.rcvReady = s.pwr.rcvReady ∧ t.cnp.slotOk = false))

/-- An armed Bark destroys every key, empties the SRAM, closes the gates, halts the device and sets the latch; in a
state that does not arm it the condition is only recorded, and its end is shown; in Dormant the always-on latch is set
(R411, R412, R445, Table 15-13). Field debug: a challenge of 64 bytes, none after eight failures, void after 600 s; an
accepted token opens debug under the test root once no tenancy stands; the attestation lock takes effect at the
boundary that ends the beat of its request, and keeps its first digest (R417, R425, R426, R427, R438, R478). Where its
condition does not hold a command changes nothing (DESIGN CHOICE, log entry 16). It says of each of these constructors
where it completes with its own effect: tamper, tamperLatch, debugChallenge, challengeExpiry, debugToken,
attestationLock. -/
def Obligations.TamperAndFieldDebug : Prop :=
  (∀ s : State,
     (∀ c, s.powered = true → armedState (lcState s.hw) = true → Yields (.tamper c) s fun t =>
       t.hw.ik = none ∧ t.hw.ak = none ∧ t.hw.bk = none ∧ t.hw.ctxKey = none ∧ t.hw.fenceKey = none ∧ t.mb.kids = [] ∧
       (∀ p < 4, (t.tenancy p).hbmKey = none ∧ (t.tenancy p).jobKey = none ∧ (t.tenancy p).ckptKey = none ∧
         (t.tenancy p).rho = none) ∧
       (∀ a < 2 ^ 45, readB t a = 0) ∧ t.gates.closed = true ∧ t.hw.halted = true ∧ t.hw.tamperLatch = true ∧
       t.hw.bark.getLsbD (barkBit c) = true ∧ (t.evt.get .sec).getLsbD 0 = true) ∧
     (∀ c, s.powered = true → armedState (lcState s.hw) = false → Yields (.tamper c) s fun t =>
       t.mem = s.mem ∧ t.hw = { s.hw with bark := s.hw.bark ||| (1#6 <<< barkBit c) } ∧ t.ten = s.ten ∧
       t.gates.closed = s.gates.closed ∧ (t.evt.get .sec).getLsbD 0 = true) ∧
     (∀ c, s.powered = true → exec (.tamper c true) s =
       .next { s with hw := { s.hw with bark := s.hw.bark &&& ~~~(1#6 <<< barkBit c) } }) ∧
     (s.pwr.stage = .dormant → s.pwr.supply = true → s.pwr.tamperWatch = true → exec .tamperLatch s =
       .next { s with hw := { s.hw with tamperLatch := true } }) ∧
     (s.pwr.stage ≠ .dormant → exec .tamperLatch s = .next s)) ∧
  (∀ s : State,
     (s.hw.booted = true → s.isHalted = false →
       lcState s.hw = .assembled ∨ s.coreRuns = true ∧ s.cnp.up = true ∧ 0 < s.cnp.tlsOpen →
       (s.hw.tokenFails < 8 → Yields .debugChallenge s fun t => ∃ c, c.length = 64 ∧ t.hw.challenge = some c ∧
         t.outbox = s.outbox ++ [.challenge c]) ∧
       (8 ≤ s.hw.tokenFails → exec .debugChallenge s = .next (s.emit (.challenge [])))) ∧
     (s.hw.challengeAt + 600000000 ≤ s.pwr.uptime →
       exec .challengeExpiry s = .next { s with hw := { s.hw with challenge := none } }) ∧
     (s.pwr.uptime < s.hw.challengeAt + 600000000 → exec .challengeExpiry s = .next s) ∧
     (s.isHalted = false → s.coreRuns = true → s.cnp.up = true → 0 < s.cnp.tlsOpen →
       (lcState s.hw = .provisioned ∨ lcState s.hw = .deployed) →
       (s.hw.challenge.isSome = true → s.sessions = [] → s.hw.after = [] → (∀ p < 4, (s.tenancy p).st = .none) →
         ∀ k : Byte, k.toNat < 8 → Yields (.debugToken k true) s fun t => t.hw.debugOpen = true ∧ t.hw.scope = k ∧
           t.hw.testRoot = true ∧ t.hw.challenge = none ∧ t.mb.kids = [] ∧ (t.evt.get .sec).getLsbD 3 = true) ∧
       (∀ k, Yields (.debugToken k false) s fun t => t.hw.debugOpen = s.hw.debugOpen ∧
         t.hw.tokenFails = s.hw.tokenFails + 1 ∧ (t.evt.get .sec).getLsbD 4 = true)) ∧
     (s.rooted = true →
       (s.hw.locked = false → exec .attestationLock s =
         .next { s with hw := { s.hw with lockReq := true } }) ∧
       (s.hw.locked = true → exec .attestationLock s = .next s)) ∧
     (s.hw.lockReq = true → s.hw.locked = false → s.takeLock =
       { s with hw := { s.hw with locked := true, lockReq := false, lockDigest := lockDigestOf s } }) ∧
     (s.hw.lockReq = false ∨ s.hw.locked = true → s.takeLock = s))

/-- A life-cycle transition with what it demands burns BEGIN, acts and burns DONE, so that the state is its target:
with no tenancy to wait for it happens at once. What goes through Canopy needs an open TLS connection. A token that
fails is counted and changes no state; the device secret is drawn from the generator; a certificate in flash that does
not match leaves PROVISIONED with BEGIN alone (R419 to R424, R427, R478, Table 15-4). The completion code of the
answer is log entry 15 (DESIGN CHOICE); how a certificate comes into flash is log entry 35. Where its condition does
not hold a command changes nothing (DESIGN CHOICE, log entry 16). It says of each of these constructors where it
completes with its own effect: waferToAssembled, assembledToProvisioned, provisionedToDeployed, deployedToReturned,
scrap. -/
def Obligations.LifeCycleTransitionsReachTheirTarget : Prop :=
  ∀ s : State, s.isHalted = false → s.hw.after = [] → (∀ p < 4, (s.tenancy p).st = .none) →
    (s.powered = true → lcState s.hw = .wafer → Yields .waferToAssembled s fun t =>
      lcState t.hw = .assembled ∧ t.hw.lcBegin.getLsbD 0 = true ∧ (t.evt.get .sec).getLsbD 1 = true ∧ t.mem = s.mem) ∧
    (lcState s.hw ≠ .wafer → exec .waferToAssembled s = .next s) ∧
    (s.hw.booted = true → lcState s.hw = .assembled → s.hw.challenge.isSome = true →
      (s.hw.bankA.burnt = false → ∀ y, Yields (.assembledToProvisioned 0x80 true true y) s fun t =>
        lcState t.hw = .provisioned ∧ t.hw.scanFuse = true ∧ t.hw.challenge = none ∧
        (t.hw.bankA.valid || t.hw.bankB.valid) = true ∧
        (s.hw.bankA.valid = false → s.hw.bankB.valid = false → t.hw.bankA.secret = s.draw.1)) ∧
      (∀ x y z, x ≠ 0x80 → Yields (.assembledToProvisioned x true y z) s fun t => lcState t.hw = .assembled ∧
        t.hw.tokenFails = s.hw.tokenFails + 1 ∧ (t.evt.get .sec).getLsbD 4 = true)) ∧
    (s.cnp.tlsOpen = 0 → (∀ k a key der, exec (.provisionedToDeployed k a key der) s =
        .next (s.writeCert (if der.isEmpty then none else some ⟨key, der⟩))) ∧
      exec .deployedToReturned s = .next s ∧ exec (.scrap false) s = .next s) ∧
    (s.coreRuns = true → s.cnp.up = true → 0 < s.cnp.tlsOpen → lcState s.hw = .provisioned →
      s.hw.challenge.isSome = true → ∀ key der f, f = (if der.isEmpty then s.cnp.idCert else some ⟨key, der⟩) →
      (∀ x, f = some x → x.key = Config.p521Public (ikOf s.hw) → Yields (.provisionedToDeployed 0x40 true key der) s
        fun t => lcState t.hw = .deployed ∧ t.hw.certFuse = some (Config.sha512 x.der) ∧ Out.pldm 5 0 [] ∈ t.outbox) ∧
      ((∀ x, f = some x → x.key ≠ Config.p521Public (ikOf s.hw)) → Yields (.provisionedToDeployed 0x40 true key der) s
        fun t => lcState t.hw = .provisioned ∧ t.hw.lcBegin.getLsbD 2 = true ∧ t.hw.certFuse = s.hw.certFuse)) ∧
    (s.coreRuns = true → s.cnp.up = true → 0 < s.cnp.tlsOpen → lcState s.hw = .deployed →
      Yields .deployedToReturned s fun t =>
      lcState t.hw = .returned ∧ t.hw.blockFuse = true) ∧
    (s.coreRuns = true → s.cnp.up = true → 0 < s.cnp.tlsOpen → lcState s.hw ≠ .scrapped → Yields (.scrap false) s fun t =>
      lcState t.hw = .scrapped ∧ t.hw.bankA.allOnes = true ∧ t.hw.bankB.allOnes = true) ∧
    (s.powered = true → lcState s.hw = .wafer ∨ lcState s.hw = .assembled → Yields (.scrap true) s fun t =>
      lcState t.hw = .scrapped ∧ t.hw.blockFuse = true) ∧
    (lcState s.hw ≠ .wafer → lcState s.hw ≠ .assembled → exec (.scrap true) s = .next s)

/-- The answer to tenancy message `code` in session id is the only new output. -/
def Sys2Proof.Machine.Answered (s t : State) (id : Nat) (code status : Byte) : Prop :=
  t.outbox = s.outbox ∧ t.gates.pcie = s.gates.pcie ++ [.tenancy id code status]

/-- The command that carries a tenancy message in a session. -/
def Sys2Proof.Machine.Carries (c : Instr) (id : Nat) : TenMsg → Prop
  | .tenantOpen pt => pt < 256 ∧ c = .tenantOpen id pt
  | .declareParty n h => n < 256 ∧ c = .declareParty id n h
  | .partyJoin pt n k g => pt < 256 ∧ n < 256 ∧ k.length = 133 ∧ c = .partyJoin id pt n k g
  | .jobKey k => c = .setJobKey id k
  | .ckptKey k => c = .setCkptKey id k
  | .regions l => c = .defineRegions id l
  | .approve d => c = .approveImage id d
  | .leave => c = .partyLeave id
  | .close => c = .tenantClose id

/-- Tenancy messages of a finished session wait for the boundary that ends the beat, in order of arrival. There the
owner opens a free partition with a fresh memory key and asks for the attestation lock, declares parties before the
first step, sets keys for the next step boundary and defines the regions; a declared party joins over its signed
transcript and approves images; what is out of order is answered with its status and changes nothing (R428, R429, R431
to R433, R438, Table 15-5). A tenancy ends: a party that leaves has its regions initialised anew, the owner's close
ends its sessions and puts the partition in CLOSING; once no step is selected or running at a boundary its scrub may
start, which destroys the keys and reads zero in scratchpads and Crown, and in the beat behind its 520 beats the
partition is free, its registers reset, or marked as failed (R434, R435, R439 to R443, Table 15-7). That messages wait
for the boundary, and which beat SCRUB_END names, are log entries 32 and 35. Where its condition does not hold a
command changes nothing (DESIGN CHOICE, log entry 16). It says of each of these constructors where it completes with
its own effect: tenantOpen, declareParty, partyJoin, setJobKey, setCkptKey, defineRegions, approveImage, partyLeave,
tenantClose, scrubStart, scrubEnd. -/
def Obligations.TenancyMessagesChangeTheTenancy : Prop :=
  (∀ (id : Nat) (s : State) (x : Session), id < 2 ^ 32 → x = s.session id →
     (∀ c m, Carries c id m →
       (x.finished = true → s.isHalted = false → exec c s = .next { s with hw := { s.hw with
         msgs := s.hw.msgs ++ [(id, m)] } }) ∧
       (x.finished = false ∨ s.isHalted = true → exec c s = .next s ∧ s.runMsg (id, m) = s)) ∧
     (x.finished = true → s.isHalted = false →
     (∀ pt t, t = s.runMsg (id, .tenantOpen pt) →
       (x.pt = none → pt < (ptList s).length → (s.tenancy pt).st = .none → (s.tenancy pt).scrubFailed = false →
         tenantsAllowed s = true → s.hw.after = [] → Answered s t id 0x81 0 ∧
         (t.tenancy pt).st = .opened ∧ (t.tenancy pt).hbmKey.isSome = true ∧ (t.session id).pt = some pt ∧
         (t.session id).party = 0 ∧ t.takeLock.hw.locked = true) ∧
       (x.pt.isSome = true → t = s.emitPcie (.tenancy id 0x81 3)) ∧
       (x.pt = none → (ptList s).length ≤ pt → t = s.emitPcie (.tenancy id 0x81 4))) ∧
     (∀ p, x.pt = some p → x.party = 0 →
       (∀ n h t, 1 ≤ n → n ≤ 7 → t = s.runMsg (id, .declareParty n h) →
         ((s.tenancy p).started = false → Answered s t id 0x82 0 ∧
           (mget {} (t.tenancy p).parties n : PartyRec).declared = true ∧
           (mget {} (t.tenancy p).parties n : PartyRec).keyHash = h) ∧
         ((s.tenancy p).started = true → t = s.emitPcie (.tenancy id 0x82 1))) ∧
       (∀ k t, t = s.runMsg (id, .jobKey k) →
         (k ≠ 0 → Answered s t id 0x84 0 ∧ (t.tenancy p).jobKeyNext = some k ∧
           (t.tenancy p).jobKey = (s.tenancy p).jobKey) ∧
         (k = 0 → t = s.emitPcie (.tenancy id 0x84 4))) ∧
       (∀ k t, t = s.runMsg (id, .ckptKey k) → Answered s t id 0x85 0 ∧ (t.tenancy p).ckptKeyNext = some k) ∧
       (∀ t, t = s.runMsg (id, .regions [⟨0, ptPages s p, 0⟩]) →
         ((s.tenancy p).started = false → (s.tenancy p).regionsDefined = false → Answered s t id 0x86 0 ∧
           (t.region (16 * p)).st = .init ∧ (t.region (16 * p)).pages = ptPages s p ∧
           (t.tenancy p).regionsDefined = true) ∧
         ((s.tenancy p).started = true ∨ (s.tenancy p).regionsDefined = true →
           t = s.emitPcie (.tenancy id 0x86 1)))) ∧
     (∀ p, x.pt = some p → x.party ≠ 0 →
       (∀ d t, t = s.runMsg (id, .approve d) → Answered s t id 0x87 0 ∧
         (mget {} (t.tenancy p).parties x.party : PartyRec).approved.getLast? = some d) ∧
       ∀ k, s.runMsg (id, .jobKey k) = s.emitPcie (.tenancy id 0x84 3)) ∧
     (∀ pt n k t g, x.pt = none → pt < (ptList s).length → 1 ≤ n → n ≤ 7 → (s.tenancy pt).st = .opened →
       (mget {} (s.tenancy pt).parties n : PartyRec).declared = true →
       (mget {} (s.tenancy pt).parties n : PartyRec).session = none → t = s.runMsg (id, .partyJoin pt n k g) →
       (Config.sha512 k = (mget {} (s.tenancy pt).parties n : PartyRec).keyHash → g = joinText x pt n → Answered s t id 0x83 0 ∧
         (t.session id).pt = some pt ∧ (t.session id).party = n ∧
         (mget {} (t.tenancy pt).parties n : PartyRec).session = some id) ∧
       (Config.sha512 k ≠ (mget {} (s.tenancy pt).parties n : PartyRec).keyHash ∨ g ≠ joinText x pt n →
         t = s.emitPcie (.tenancy id 0x83 2))))) ∧
  ((∀ (id p : Nat) (s t : State) (x : Session), x = s.session id → x.live = true → x.finished = true →
     s.isHalted = false → x.pt = some p →
     (x.party ≠ 0 → t = s.runMsg (id, .leave) → Out.tenancy id 0x88 0 ∈ t.gates.pcie ∧ (t.session id).live = false ∧
       (t.tenancy p).st = (s.tenancy p).st ∧ ∀ r ∈ regionsOf p, (s.region r).st ≠ .unused →
         (s.region r).party = x.party → (t.region r).st = .init) ∧
     (x.party = 0 → (s.tenancy p).st = .opened → t = s.runMsg (id, .close) → Out.tenancy id 0x89 0 ∈ t.gates.pcie ∧
       (t.tenancy p).st = .closing ∧ (t.session id).live = false ∧ (t.part p).sel = none ∧ t.mem = s.mem)) ∧
   ∀ (pt : Nat) (s : State), pt < 4 →
     ((s.tenancy pt).st = .closing → (s.part pt).sel = none → (s.part pt).running = none →
       ((s.readyScrub pt).tenancy pt).scrubDue = true) ∧
     ((s.part pt).running.isSome = true → s.readyScrub pt = s) ∧
     ((s.tenancy pt).st = .closing → (s.tenancy pt).scrubDue = true → s.isHalted = false →
       Yields (.scrubStart pt) s fun t => (t.tenancy pt).st = .scrubbing ∧ (t.tenancy pt).hbmKey = none ∧
         (t.tenancy pt).jobKey = none ∧ (t.tenancy pt).scrubStart = s.pwr.uptime ∧
         (∀ c < 100 * ptSize s pt, ∀ a < 2 ^ 22, readB t (spadBase (absCluster s pt c) + a) = 0) ∧
         ∀ g ∈ ptGroves s pt, ∀ a < 2 ^ 31, readB t (crownBase g + a) = 0) ∧
     ((s.tenancy pt).scrubDue = false → exec (.scrubStart pt) s = .next s) ∧
     ((s.tenancy pt).st = .scrubbing → ∀ clean,
       (s.pwr.uptime = (s.tenancy pt).scrubStart + 520 → Yields (.scrubEnd pt clean) s fun t => t.part pt = {} ∧
         (t.tenancy pt).st = .none ∧ (t.tenancy pt).scrubFailed = ((s.tenancy pt).scrubFailed || !clean) ∧
         (t.evt.get .sec).getLsbD 6 = true ∧ (clean = false → (t.evt.get .sec).getLsbD 7 = true) ∧
         ∀ q < 48, queuePt s q = some pt → (t.queue q).st = .disabled ∧ (t.queue q).ctx = none) ∧
       (s.pwr.uptime ≠ (s.tenancy pt).scrubStart + 520 → exec (.scrubEnd pt clean) s = .next s)))

/-- A command whose operands lie within the architecture completes with a next state, and any other is the fault
badOperand; no command is refused. What completes leaves the queue of waiting commands and the variant alone, and only
appends to what has left the device (log entries 1, 18). That no command is refused, and that an operand the interface
cannot carry is a fault of its own, are the model's (DESIGN CHOICE, log entries 16 and 18). -/
def Obligations.EveryCommandCompletesOrHasABadOperand : Prop :=
  ∀ (c : Instr) (s : State),
    (c.wf s.variant.ports s.variant.stacks = true → ∃ t, exec c s = .next t) ∧
    (c.wf s.variant.ports s.variant.stacks = false → exec c s = .fault .badOperand) ∧
    ∀ t, exec c s = .next t → t.pending = s.pending ∧ t.variant = s.variant ∧ ∃ l, t.outbox = s.outbox ++ l

/-- Every step keeps the canonical form of memory: addresses strictly rising, and no zero listed in a defined array.
The canonical form is the model's own (DESIGN CHOICE, log entry 10). -/
def Obligations.EveryStepKeepsTheMemoryForm : Prop :=
  ∀ s t : State, Memory.wf s = true → step s = .next t → Memory.wf t = true

/-- A fuse once burnt stays burnt, whatever step is taken: the marks of the life-cycle transitions, the device-secret
banks, the block, scan and certificate fuses, the tamper fuses, at most 32, and the security version (R413, R419,
R423, R485). -/
def Obligations.FusesAreOnlyEverBurnt : Prop :=
  ∀ s t : State, s.hw.tamperFuses ≤ 32 → step s = .next t →
    t.hw.lcBegin &&& s.hw.lcBegin = s.hw.lcBegin ∧ t.hw.lcDone &&& s.hw.lcDone = s.hw.lcDone ∧
    (s.hw.bankA.burnt = true → t.hw.bankA.burnt = true) ∧ (s.hw.bankB.burnt = true → t.hw.bankB.burnt = true) ∧
    (s.hw.bankA.valid = true → t.hw.bankA.valid = true) ∧ (s.hw.bankB.valid = true → t.hw.bankB.valid = true) ∧
    (s.hw.blockFuse = true → t.hw.blockFuse = true) ∧ (s.hw.scanFuse = true → t.hw.scanFuse = true) ∧
    (s.hw.certFuse.isSome = true → t.hw.certFuse.isSome = true) ∧
    s.hw.tamperFuses ≤ t.hw.tamperFuses ∧ t.hw.tamperFuses ≤ 32 ∧ s.hw.svnFuses ≤ t.hw.svnFuses

/-- While the module stays on the beat grid (ALIGNED or FLYWHEEL before and after), its beat number rises by exactly
one at a beat boundary and no other command changes it (R42, R52). -/
def Obligations.TheBeatNumberCountsBoundariesAlone : Prop :=
  ∀ (c : Instr) (s t : State), s.powered = true → s.onGrid = true → exec c s = .next t → t.onGrid = true →
    (c = .beatBoundary → t.cmb.beat = s.cmb.beat + 1) ∧ (c ≠ .beatBoundary → t.cmb.beat = s.cmb.beat)

/-- After reset the module is in Seedling with Cambium UNLOCKED, memory empty in its canonical form, no fuse burnt, no
command waiting, and its registers at the reset values of their tables. The moment after reset, and what is empty
then, are the model's choice (DESIGN CHOICE, log entries 5, 9 and 10). -/
def Obligations.ResetLeavesTheResetValues : Prop :=
  Memory.wf State.reset = true ∧ (∀ a, readB State.reset a = 0) ∧ State.reset.pwr.stage = .seedling ∧
    State.reset.cmb.st = .unlocked ∧ lcState State.reset.hw = .wafer ∧ State.reset.pending = [] ∧
    (∀ e ∈ [(0x000004, 0x0100), (0x100020, 0x000F4240), (0x200004, 0x0BB8), (0x200008, 0x0BB8), (0x20000C, 0x18000A14),
        (0x200100, 0), (0x200104, 1), (0x200114, 0x2710), (0x300010, 1), (0x600010, 0x10), (0x700F00, 0x400),
        (0x700F04, 8), (0x800000, 0x7F), (0x900000, 0x10), (0xA00010, 3)], readBar0 State.reset e.1 = e.2)

/-- Memory returns what was written: a byte, a run of bytes, and an HBM burst through the keyed scramble, which its
inverse undoes; no other byte changes, the canonical form is kept, and beyond a stack's capacity there is no burst
(R17, R208, R212). The canonical form and the place of arrays in it are log entry 10, the empty fuses log entry 9
(DESIGN CHOICE). -/
def Obligations.MemoryReturnsWhatWasWritten : Prop :=
  (∀ (s : State) (a b : Nat) (v : Byte), readB (writeB s a v) b = if b = a then v else readB s b) ∧
  (∀ (s : State) (a : Nat) (bs : List Byte), readN (writeN s a bs) a bs.length = bs ∧
    (Memory.wf s = true → Memory.wf (writeN s a bs) = true) ∧
    ∀ b, b < a ∨ a + bs.length ≤ b → readB (writeN s a bs) b = readB s b) ∧
  (∀ (k : Key) (t : DWord) (w : Burst), unscramble k t (scramble k t w) = w ∧ scramble k t (unscramble k t w) = w) ∧
  ∀ (s : State) (h a : Nat) (bs : List Byte), (hbmKey s h).isSome = true → bs.length = 64 →
    (stackBytes ≤ a → hbmWrite s h a bs = s ∧ hbmRead s h a = zeros 64) ∧
    (a < stackBytes → hbmRead (hbmWrite s h a bs) h a = bs ∧ poisoned (hbmWrite s h a bs) h a = false ∧
      ∀ b, b < hbmBase h + a ∨ hbmBase h + a + 64 ≤ b → readB (hbmWrite s h a bs) b = readB s b)
end

