-- ==== Sys2Proof/Laws/Checked.lean ====
section
/-!
SUPPORT. The outcome of a command: its effect where its operands lie within the architecture, the fault badOperand
otherwise; it never refuses.
-/

namespace Sys2Proof.Machine.Laws

theorem checked_next {i : Instr} {s : State} (t : State) (h : i.wf s.variant.ports s.variant.stacks = true) :
    checked i s t = .next t := by
  simp [checked, h]

theorem checked_eq_next {i : Instr} {s t u : State} (h : checked i s t = .next u) :
    i.wf s.variant.ports s.variant.stacks = true ∧ u = t := by
  unfold checked at h
  split at h
  · injection h with h
    exact ⟨by assumption, h.symm⟩
  · injection h

theorem checked_fault {i : Instr} {s : State} (t : State) (h : i.wf s.variant.ports s.variant.stacks = false) :
    checked i s t = .fault .badOperand := by
  simp [checked, h]

end Sys2Proof.Machine.Laws
end

