-- ==== Sys2Proof/Laws/Map.lean ====
section
/-!
SUPPORT. The sparse maps: a read after a write, and the canonical form kept by every write.
-/

namespace Sys2Proof.Machine.Laws

variable {α : Type}

theorem mget_minsert (d : α) (m : FMap α) (i : Nat) (v : α) (j : Nat) :
    mget d (minsert m i v) j = if j = i then v else mget d m j := by
  induction m with
  | nil => simp [minsert, mget]
  | cons e m ih =>
    obtain ⟨k, u⟩ := e
    by_cases h1 : i < k
    · simp [minsert, mget, h1]
    · by_cases h2 : i = k
      · subst h2
        by_cases h : j = i <;> simp [minsert, mget, h]
      · by_cases h : j = k
        · subst h
          simp [minsert, mget, h1, h2, Ne.symm h2]
        · simp [minsert, mget, h1, h2, h, ih]

theorem mget_merase (d : α) (m : FMap α) (i j : Nat) :
    mget d (merase m i) j = if j = i then d else mget d m j := by
  induction m with
  | nil => simp [merase, mget]
  | cons e m ih =>
    obtain ⟨k, u⟩ := e
    by_cases h : i = k
    · subst h
      by_cases h2 : j = i
      · subst h2
        simpa [merase] using ih
      · simp [merase, mget, h2, ih]
    · by_cases h2 : j = k
      · subst h2
        simp [merase, mget, h, Ne.symm h]
      · simp [merase, mget, h, h2, ih]

/-- The value at a key after a write. -/
theorem mget_mput [DecidableEq α] (d : α) (m : FMap α) (i : Nat) (v : α) (j : Nat) :
    mget d (mput d m i v) j = if j = i then v else mget d m j := by
  unfold mput
  by_cases h : v = d
  · simp [h, mget_merase]
  · simp [h, mget_minsert]

/-- Every key of the map lies above k. -/
def Above (k : Nat) (m : FMap α) : Prop := ∀ e ∈ m, k < e.1

theorem mrising_cons (k : Nat) (v : α) (m : FMap α) :
    mrising ((k, v) :: m) = true ↔ Above k m ∧ mrising m = true := by
  induction m generalizing k v with
  | nil => simp [mrising, Above]
  | cons e m ih =>
    obtain ⟨k', v'⟩ := e
    simp only [mrising, Bool.and_eq_true, decide_eq_true_eq]
    constructor
    · rintro ⟨h, hm⟩
      refine ⟨?_, hm⟩
      have := ((ih k' v').mp hm).1
      intro e he
      rcases List.mem_cons.mp he with rfl | he
      · exact h
      · exact Nat.lt_trans h (this e he)
    · rintro ⟨h, hm⟩
      exact ⟨h (k', v') (by simp), hm⟩

theorem above_minsert {k i : Nat} {v : α} {m : FMap α} (h : Above k m) (hi : k < i) : Above k (minsert m i v) := by
  induction m with
  | nil => simpa [minsert, Above] using hi
  | cons e m ih =>
    obtain ⟨k', u⟩ := e
    have h1 : k < k' := h (k', u) (by simp)
    have h2 : Above k m := fun e he => h e (by simp [he])
    unfold minsert
    split
    · intro e he
      rcases List.mem_cons.mp he with rfl | he
      · exact hi
      · exact h e he
    · split
      · intro e he
        rcases List.mem_cons.mp he with rfl | he
        · exact hi
        · exact h2 e he
      · intro e he
        rcases List.mem_cons.mp he with rfl | he
        · exact h1
        · exact ih h2 e he

theorem mrising_minsert {m : FMap α} (h : mrising m = true) (i : Nat) (v : α) : mrising (minsert m i v) = true := by
  induction m with
  | nil => simp [minsert, mrising]
  | cons e m ih =>
    obtain ⟨k, u⟩ := e
    obtain ⟨ha, hm⟩ := (mrising_cons k u m).mp h
    unfold minsert
    split
    · rename_i hk
      refine (mrising_cons i v _).mpr ⟨?_, h⟩
      intro e he
      rcases List.mem_cons.mp he with rfl | he
      · exact hk
      · exact Nat.lt_trans hk (ha e he)
    · split
      · rename_i hk
        subst hk
        exact (mrising_cons _ _ _).mpr ⟨ha, hm⟩
      · rename_i h1 h2
        exact (mrising_cons _ _ _).mpr ⟨above_minsert ha (by omega), ih hm⟩

theorem mem_merase {m : FMap α} {i : Nat} {e : Nat × α} (h : e ∈ merase m i) : e ∈ m := by
  induction m with
  | nil => simp [merase] at h
  | cons x m ih =>
    obtain ⟨k, u⟩ := x
    unfold merase at h
    split at h
    · exact List.mem_cons_of_mem _ (ih h)
    · rcases List.mem_cons.mp h with rfl | h
      · simp
      · exact List.mem_cons_of_mem _ (ih h)

theorem mrising_merase {m : FMap α} (h : mrising m = true) (i : Nat) : mrising (merase m i) = true := by
  induction m with
  | nil => rfl
  | cons e m ih =>
    obtain ⟨k, u⟩ := e
    obtain ⟨ha, hm⟩ := (mrising_cons k u m).mp h
    unfold merase
    split
    · exact ih hm
    · exact (mrising_cons _ _ _).mpr ⟨fun e he => ha e (mem_merase he), ih hm⟩

theorem mem_minsert {m : FMap α} {i : Nat} {v : α} {e : Nat × α} (h : e ∈ minsert m i v) : e = (i, v) ∨ e ∈ m := by
  induction m with
  | nil => simpa [minsert] using h
  | cons x m ih =>
    obtain ⟨k, u⟩ := x
    unfold minsert at h
    split at h
    · simpa using h
    · split at h
      · rcases List.mem_cons.mp h with rfl | h
        · simp
        · exact .inr (List.mem_cons_of_mem _ h)
      · rcases List.mem_cons.mp h with rfl | h
        · simp
        · rcases ih h with h | h
          · exact .inl h
          · exact .inr (List.mem_cons_of_mem _ h)

/-- A part of a rising map rises. -/
theorem mrising_filter {m : FMap α} (h : mrising m = true) (p : Nat × α → Bool) : mrising (m.filter p) = true := by
  induction m with
  | nil => rfl
  | cons e m ih =>
    obtain ⟨k, u⟩ := e
    obtain ⟨ha, hm⟩ := (mrising_cons k u m).mp h
    rw [List.filter_cons]
    split
    · exact (mrising_cons _ _ _).mpr ⟨fun e he => ha e (List.mem_filter.mp he).1, ih hm⟩
    · exact ih hm

/-- Every write of a map keeps its canonical form. -/
theorem mwf_mput [DecidableEq α] {d : α} {m : FMap α} (h : mwf d m = true) (i : Nat) (v : α) :
    mwf d (mput d m i v) = true := by
  simp only [mwf, Bool.and_eq_true, List.all_eq_true, decide_eq_true_eq] at h ⊢
  unfold mput
  split
  · exact ⟨mrising_merase h.1 i, fun e he => h.2 e (mem_merase he)⟩
  · rename_i hv
    refine ⟨mrising_minsert h.1 i v, fun e he => ?_⟩
    rcases mem_minsert he with rfl | he
    · exact hv
    · exact h.2 e he

end Sys2Proof.Machine.Laws
end

