-- ==== Sys2Proof/Laws/State.lean ====
section
/-!
SUPPORT. What each update of a numbered record leaves and what it writes: one lemma for each field of State and each
update, and the read after the write, so that no later proof unfolds a record update.
-/

namespace Sys2Proof.Machine.Laws

variable (s : State)

/-! ### State.setPart writes parts -/

@[simp] theorem setPart_pending (p : Nat) (x : Part) : (s.setPart p x).pending = s.pending := rfl
@[simp] theorem setPart_outbox (p : Nat) (x : Part) : (s.setPart p x).outbox = s.outbox := rfl
@[simp] theorem setPart_freeCtr (p : Nat) (x : Part) : (s.setPart p x).freeCtr = s.freeCtr := rfl
@[simp] theorem setPart_trngCtr (p : Nat) (x : Part) : (s.setPart p x).trngCtr = s.trngCtr := rfl
@[simp] theorem setPart_variant (p : Nat) (x : Part) : (s.setPart p x).variant = s.variant := rfl
@[simp] theorem setPart_idleGrove (p : Nat) (x : Part) : (s.setPart p x).idleGrove = s.idleGrove := rfl
@[simp] theorem setPart_idleModule (p : Nat) (x : Part) : (s.setPart p x).idleModule = s.idleModule := rfl
@[simp] theorem setPart_shortId (p : Nat) (x : Part) : (s.setPart p x).shortId = s.shortId := rfl
@[simp] theorem setPart_ikPub (p : Nat) (x : Part) : (s.setPart p x).ikPub = s.ikPub := rfl
@[simp] theorem setPart_pwr (p : Nat) (x : Part) : (s.setPart p x).pwr = s.pwr := rfl
@[simp] theorem setPart_cmb (p : Nat) (x : Part) : (s.setPart p x).cmb = s.cmb := rfl
@[simp] theorem setPart_sap (p : Nat) (x : Part) : (s.setPart p x).sap = s.sap := rfl
@[simp] theorem setPart_cfg (p : Nat) (x : Part) : (s.setPart p x).cfg = s.cfg := rfl
@[simp] theorem setPart_evt (p : Nat) (x : Part) : (s.setPart p x).evt = s.evt := rfl
@[simp] theorem setPart_hif (p : Nat) (x : Part) : (s.setPart p x).hif = s.hif := rfl
@[simp] theorem setPart_sessions (p : Nat) (x : Part) : (s.setPart p x).sessions = s.sessions := rfl
@[simp] theorem setPart_hw (p : Nat) (x : Part) : (s.setPart p x).hw = s.hw := rfl
@[simp] theorem setPart_ten (p : Nat) (x : Part) : (s.setPart p x).ten = s.ten := rfl
@[simp] theorem setPart_flt (p : Nat) (x : Part) : (s.setPart p x).flt = s.flt := rfl
@[simp] theorem setPart_cnp (p : Nat) (x : Part) : (s.setPart p x).cnp = s.cnp := rfl
@[simp] theorem setPart_mem (p : Nat) (x : Part) : (s.setPart p x).mem = s.mem := rfl
@[simp] theorem setPart_havoc (p : Nat) (x : Part) : (s.setPart p x).havoc = s.havoc := rfl
@[simp] theorem setPart_clusters (p : Nat) (x : Part) : (s.setPart p x).clusters = s.clusters := rfl
@[simp] theorem setPart_mb (p : Nat) (x : Part) : (s.setPart p x).mb = s.mb := rfl
@[simp] theorem setPart_gates (p : Nat) (x : Part) : (s.setPart p x).gates = s.gates := rfl
@[simp] theorem setPart_bgh (p : Nat) (x : Part) : (s.setPart p x).bgh = s.bgh := rfl
@[simp] theorem setPart_bufs (p : Nat) (x : Part) : (s.setPart p x).bufs = s.bufs := rfl
@[simp] theorem setPart_gve (p : Nat) (x : Part) : (s.setPart p x).gve = s.gve := rfl
@[simp] theorem setPart_red (p : Nat) (x : Part) : (s.setPart p x).red = s.red := rfl
@[simp] theorem setPart_redSel (p : Nat) (x : Part) : (s.setPart p x).redSel = s.redSel := rfl
@[simp] theorem setPart_num (p : Nat) (x : Part) : (s.setPart p x).num = s.num := rfl

/-! ### State.setTen writes ten -/

@[simp] theorem setTen_pending (p : Nat) (x : Tenancy) : (s.setTen p x).pending = s.pending := rfl
@[simp] theorem setTen_outbox (p : Nat) (x : Tenancy) : (s.setTen p x).outbox = s.outbox := rfl
@[simp] theorem setTen_freeCtr (p : Nat) (x : Tenancy) : (s.setTen p x).freeCtr = s.freeCtr := rfl
@[simp] theorem setTen_trngCtr (p : Nat) (x : Tenancy) : (s.setTen p x).trngCtr = s.trngCtr := rfl
@[simp] theorem setTen_variant (p : Nat) (x : Tenancy) : (s.setTen p x).variant = s.variant := rfl
@[simp] theorem setTen_idleGrove (p : Nat) (x : Tenancy) : (s.setTen p x).idleGrove = s.idleGrove := rfl
@[simp] theorem setTen_idleModule (p : Nat) (x : Tenancy) : (s.setTen p x).idleModule = s.idleModule := rfl
@[simp] theorem setTen_shortId (p : Nat) (x : Tenancy) : (s.setTen p x).shortId = s.shortId := rfl
@[simp] theorem setTen_ikPub (p : Nat) (x : Tenancy) : (s.setTen p x).ikPub = s.ikPub := rfl
@[simp] theorem setTen_pwr (p : Nat) (x : Tenancy) : (s.setTen p x).pwr = s.pwr := rfl
@[simp] theorem setTen_cmb (p : Nat) (x : Tenancy) : (s.setTen p x).cmb = s.cmb := rfl
@[simp] theorem setTen_sap (p : Nat) (x : Tenancy) : (s.setTen p x).sap = s.sap := rfl
@[simp] theorem setTen_cfg (p : Nat) (x : Tenancy) : (s.setTen p x).cfg = s.cfg := rfl
@[simp] theorem setTen_evt (p : Nat) (x : Tenancy) : (s.setTen p x).evt = s.evt := rfl
@[simp] theorem setTen_hif (p : Nat) (x : Tenancy) : (s.setTen p x).hif = s.hif := rfl
@[simp] theorem setTen_sessions (p : Nat) (x : Tenancy) : (s.setTen p x).sessions = s.sessions := rfl
@[simp] theorem setTen_hw (p : Nat) (x : Tenancy) : (s.setTen p x).hw = s.hw := rfl
@[simp] theorem setTen_parts (p : Nat) (x : Tenancy) : (s.setTen p x).parts = s.parts := rfl
@[simp] theorem setTen_flt (p : Nat) (x : Tenancy) : (s.setTen p x).flt = s.flt := rfl
@[simp] theorem setTen_cnp (p : Nat) (x : Tenancy) : (s.setTen p x).cnp = s.cnp := rfl
@[simp] theorem setTen_mem (p : Nat) (x : Tenancy) : (s.setTen p x).mem = s.mem := rfl
@[simp] theorem setTen_havoc (p : Nat) (x : Tenancy) : (s.setTen p x).havoc = s.havoc := rfl
@[simp] theorem setTen_clusters (p : Nat) (x : Tenancy) : (s.setTen p x).clusters = s.clusters := rfl
@[simp] theorem setTen_mb (p : Nat) (x : Tenancy) : (s.setTen p x).mb = s.mb := rfl
@[simp] theorem setTen_gates (p : Nat) (x : Tenancy) : (s.setTen p x).gates = s.gates := rfl
@[simp] theorem setTen_bgh (p : Nat) (x : Tenancy) : (s.setTen p x).bgh = s.bgh := rfl
@[simp] theorem setTen_bufs (p : Nat) (x : Tenancy) : (s.setTen p x).bufs = s.bufs := rfl
@[simp] theorem setTen_gve (p : Nat) (x : Tenancy) : (s.setTen p x).gve = s.gve := rfl
@[simp] theorem setTen_red (p : Nat) (x : Tenancy) : (s.setTen p x).red = s.red := rfl
@[simp] theorem setTen_redSel (p : Nat) (x : Tenancy) : (s.setTen p x).redSel = s.redSel := rfl
@[simp] theorem setTen_num (p : Nat) (x : Tenancy) : (s.setTen p x).num = s.num := rfl

/-! ### State.setQueue writes hif -/

@[simp] theorem setQueue_pending (q : Nat) (x : Queue) : (s.setQueue q x).pending = s.pending := rfl
@[simp] theorem setQueue_outbox (q : Nat) (x : Queue) : (s.setQueue q x).outbox = s.outbox := rfl
@[simp] theorem setQueue_freeCtr (q : Nat) (x : Queue) : (s.setQueue q x).freeCtr = s.freeCtr := rfl
@[simp] theorem setQueue_trngCtr (q : Nat) (x : Queue) : (s.setQueue q x).trngCtr = s.trngCtr := rfl
@[simp] theorem setQueue_variant (q : Nat) (x : Queue) : (s.setQueue q x).variant = s.variant := rfl
@[simp] theorem setQueue_idleGrove (q : Nat) (x : Queue) : (s.setQueue q x).idleGrove = s.idleGrove := rfl
@[simp] theorem setQueue_idleModule (q : Nat) (x : Queue) : (s.setQueue q x).idleModule = s.idleModule := rfl
@[simp] theorem setQueue_shortId (q : Nat) (x : Queue) : (s.setQueue q x).shortId = s.shortId := rfl
@[simp] theorem setQueue_ikPub (q : Nat) (x : Queue) : (s.setQueue q x).ikPub = s.ikPub := rfl
@[simp] theorem setQueue_pwr (q : Nat) (x : Queue) : (s.setQueue q x).pwr = s.pwr := rfl
@[simp] theorem setQueue_cmb (q : Nat) (x : Queue) : (s.setQueue q x).cmb = s.cmb := rfl
@[simp] theorem setQueue_sap (q : Nat) (x : Queue) : (s.setQueue q x).sap = s.sap := rfl
@[simp] theorem setQueue_cfg (q : Nat) (x : Queue) : (s.setQueue q x).cfg = s.cfg := rfl
@[simp] theorem setQueue_evt (q : Nat) (x : Queue) : (s.setQueue q x).evt = s.evt := rfl
@[simp] theorem setQueue_sessions (q : Nat) (x : Queue) : (s.setQueue q x).sessions = s.sessions := rfl
@[simp] theorem setQueue_hw (q : Nat) (x : Queue) : (s.setQueue q x).hw = s.hw := rfl
@[simp] theorem setQueue_ten (q : Nat) (x : Queue) : (s.setQueue q x).ten = s.ten := rfl
@[simp] theorem setQueue_parts (q : Nat) (x : Queue) : (s.setQueue q x).parts = s.parts := rfl
@[simp] theorem setQueue_flt (q : Nat) (x : Queue) : (s.setQueue q x).flt = s.flt := rfl
@[simp] theorem setQueue_cnp (q : Nat) (x : Queue) : (s.setQueue q x).cnp = s.cnp := rfl
@[simp] theorem setQueue_mem (q : Nat) (x : Queue) : (s.setQueue q x).mem = s.mem := rfl
@[simp] theorem setQueue_havoc (q : Nat) (x : Queue) : (s.setQueue q x).havoc = s.havoc := rfl
@[simp] theorem setQueue_clusters (q : Nat) (x : Queue) : (s.setQueue q x).clusters = s.clusters := rfl
@[simp] theorem setQueue_mb (q : Nat) (x : Queue) : (s.setQueue q x).mb = s.mb := rfl
@[simp] theorem setQueue_gates (q : Nat) (x : Queue) : (s.setQueue q x).gates = s.gates := rfl
@[simp] theorem setQueue_bgh (q : Nat) (x : Queue) : (s.setQueue q x).bgh = s.bgh := rfl
@[simp] theorem setQueue_bufs (q : Nat) (x : Queue) : (s.setQueue q x).bufs = s.bufs := rfl
@[simp] theorem setQueue_gve (q : Nat) (x : Queue) : (s.setQueue q x).gve = s.gve := rfl
@[simp] theorem setQueue_red (q : Nat) (x : Queue) : (s.setQueue q x).red = s.red := rfl
@[simp] theorem setQueue_redSel (q : Nat) (x : Queue) : (s.setQueue q x).redSel = s.redSel := rfl
@[simp] theorem setQueue_num (q : Nat) (x : Queue) : (s.setQueue q x).num = s.num := rfl

/-! ### State.setCtx writes hif -/

@[simp] theorem setCtx_pending (c : Nat) (x : Ctx) : (s.setCtx c x).pending = s.pending := rfl
@[simp] theorem setCtx_outbox (c : Nat) (x : Ctx) : (s.setCtx c x).outbox = s.outbox := rfl
@[simp] theorem setCtx_freeCtr (c : Nat) (x : Ctx) : (s.setCtx c x).freeCtr = s.freeCtr := rfl
@[simp] theorem setCtx_trngCtr (c : Nat) (x : Ctx) : (s.setCtx c x).trngCtr = s.trngCtr := rfl
@[simp] theorem setCtx_variant (c : Nat) (x : Ctx) : (s.setCtx c x).variant = s.variant := rfl
@[simp] theorem setCtx_idleGrove (c : Nat) (x : Ctx) : (s.setCtx c x).idleGrove = s.idleGrove := rfl
@[simp] theorem setCtx_idleModule (c : Nat) (x : Ctx) : (s.setCtx c x).idleModule = s.idleModule := rfl
@[simp] theorem setCtx_shortId (c : Nat) (x : Ctx) : (s.setCtx c x).shortId = s.shortId := rfl
@[simp] theorem setCtx_ikPub (c : Nat) (x : Ctx) : (s.setCtx c x).ikPub = s.ikPub := rfl
@[simp] theorem setCtx_pwr (c : Nat) (x : Ctx) : (s.setCtx c x).pwr = s.pwr := rfl
@[simp] theorem setCtx_cmb (c : Nat) (x : Ctx) : (s.setCtx c x).cmb = s.cmb := rfl
@[simp] theorem setCtx_sap (c : Nat) (x : Ctx) : (s.setCtx c x).sap = s.sap := rfl
@[simp] theorem setCtx_cfg (c : Nat) (x : Ctx) : (s.setCtx c x).cfg = s.cfg := rfl
@[simp] theorem setCtx_evt (c : Nat) (x : Ctx) : (s.setCtx c x).evt = s.evt := rfl
@[simp] theorem setCtx_sessions (c : Nat) (x : Ctx) : (s.setCtx c x).sessions = s.sessions := rfl
@[simp] theorem setCtx_hw (c : Nat) (x : Ctx) : (s.setCtx c x).hw = s.hw := rfl
@[simp] theorem setCtx_ten (c : Nat) (x : Ctx) : (s.setCtx c x).ten = s.ten := rfl
@[simp] theorem setCtx_parts (c : Nat) (x : Ctx) : (s.setCtx c x).parts = s.parts := rfl
@[simp] theorem setCtx_flt (c : Nat) (x : Ctx) : (s.setCtx c x).flt = s.flt := rfl
@[simp] theorem setCtx_cnp (c : Nat) (x : Ctx) : (s.setCtx c x).cnp = s.cnp := rfl
@[simp] theorem setCtx_mem (c : Nat) (x : Ctx) : (s.setCtx c x).mem = s.mem := rfl
@[simp] theorem setCtx_havoc (c : Nat) (x : Ctx) : (s.setCtx c x).havoc = s.havoc := rfl
@[simp] theorem setCtx_clusters (c : Nat) (x : Ctx) : (s.setCtx c x).clusters = s.clusters := rfl
@[simp] theorem setCtx_mb (c : Nat) (x : Ctx) : (s.setCtx c x).mb = s.mb := rfl
@[simp] theorem setCtx_gates (c : Nat) (x : Ctx) : (s.setCtx c x).gates = s.gates := rfl
@[simp] theorem setCtx_bgh (c : Nat) (x : Ctx) : (s.setCtx c x).bgh = s.bgh := rfl
@[simp] theorem setCtx_bufs (c : Nat) (x : Ctx) : (s.setCtx c x).bufs = s.bufs := rfl
@[simp] theorem setCtx_gve (c : Nat) (x : Ctx) : (s.setCtx c x).gve = s.gve := rfl
@[simp] theorem setCtx_red (c : Nat) (x : Ctx) : (s.setCtx c x).red = s.red := rfl
@[simp] theorem setCtx_redSel (c : Nat) (x : Ctx) : (s.setCtx c x).redSel = s.redSel := rfl
@[simp] theorem setCtx_num (c : Nat) (x : Ctx) : (s.setCtx c x).num = s.num := rfl

/-! ### State.setFence writes hif -/

@[simp] theorem setFence_pending (i : Nat) (x : Fence) : (s.setFence i x).pending = s.pending := rfl
@[simp] theorem setFence_outbox (i : Nat) (x : Fence) : (s.setFence i x).outbox = s.outbox := rfl
@[simp] theorem setFence_freeCtr (i : Nat) (x : Fence) : (s.setFence i x).freeCtr = s.freeCtr := rfl
@[simp] theorem setFence_trngCtr (i : Nat) (x : Fence) : (s.setFence i x).trngCtr = s.trngCtr := rfl
@[simp] theorem setFence_variant (i : Nat) (x : Fence) : (s.setFence i x).variant = s.variant := rfl
@[simp] theorem setFence_idleGrove (i : Nat) (x : Fence) : (s.setFence i x).idleGrove = s.idleGrove := rfl
@[simp] theorem setFence_idleModule (i : Nat) (x : Fence) : (s.setFence i x).idleModule = s.idleModule := rfl
@[simp] theorem setFence_shortId (i : Nat) (x : Fence) : (s.setFence i x).shortId = s.shortId := rfl
@[simp] theorem setFence_ikPub (i : Nat) (x : Fence) : (s.setFence i x).ikPub = s.ikPub := rfl
@[simp] theorem setFence_pwr (i : Nat) (x : Fence) : (s.setFence i x).pwr = s.pwr := rfl
@[simp] theorem setFence_cmb (i : Nat) (x : Fence) : (s.setFence i x).cmb = s.cmb := rfl
@[simp] theorem setFence_sap (i : Nat) (x : Fence) : (s.setFence i x).sap = s.sap := rfl
@[simp] theorem setFence_cfg (i : Nat) (x : Fence) : (s.setFence i x).cfg = s.cfg := rfl
@[simp] theorem setFence_evt (i : Nat) (x : Fence) : (s.setFence i x).evt = s.evt := rfl
@[simp] theorem setFence_sessions (i : Nat) (x : Fence) : (s.setFence i x).sessions = s.sessions := rfl
@[simp] theorem setFence_hw (i : Nat) (x : Fence) : (s.setFence i x).hw = s.hw := rfl
@[simp] theorem setFence_ten (i : Nat) (x : Fence) : (s.setFence i x).ten = s.ten := rfl
@[simp] theorem setFence_parts (i : Nat) (x : Fence) : (s.setFence i x).parts = s.parts := rfl
@[simp] theorem setFence_flt (i : Nat) (x : Fence) : (s.setFence i x).flt = s.flt := rfl
@[simp] theorem setFence_cnp (i : Nat) (x : Fence) : (s.setFence i x).cnp = s.cnp := rfl
@[simp] theorem setFence_mem (i : Nat) (x : Fence) : (s.setFence i x).mem = s.mem := rfl
@[simp] theorem setFence_havoc (i : Nat) (x : Fence) : (s.setFence i x).havoc = s.havoc := rfl
@[simp] theorem setFence_clusters (i : Nat) (x : Fence) : (s.setFence i x).clusters = s.clusters := rfl
@[simp] theorem setFence_mb (i : Nat) (x : Fence) : (s.setFence i x).mb = s.mb := rfl
@[simp] theorem setFence_gates (i : Nat) (x : Fence) : (s.setFence i x).gates = s.gates := rfl
@[simp] theorem setFence_bgh (i : Nat) (x : Fence) : (s.setFence i x).bgh = s.bgh := rfl
@[simp] theorem setFence_bufs (i : Nat) (x : Fence) : (s.setFence i x).bufs = s.bufs := rfl
@[simp] theorem setFence_gve (i : Nat) (x : Fence) : (s.setFence i x).gve = s.gve := rfl
@[simp] theorem setFence_red (i : Nat) (x : Fence) : (s.setFence i x).red = s.red := rfl
@[simp] theorem setFence_redSel (i : Nat) (x : Fence) : (s.setFence i x).redSel = s.redSel := rfl
@[simp] theorem setFence_num (i : Nat) (x : Fence) : (s.setFence i x).num = s.num := rfl

/-! ### State.setSession writes sessions -/

@[simp] theorem setSession_pending (i : Nat) (x : Session) : (s.setSession i x).pending = s.pending := rfl
@[simp] theorem setSession_outbox (i : Nat) (x : Session) : (s.setSession i x).outbox = s.outbox := rfl
@[simp] theorem setSession_freeCtr (i : Nat) (x : Session) : (s.setSession i x).freeCtr = s.freeCtr := rfl
@[simp] theorem setSession_trngCtr (i : Nat) (x : Session) : (s.setSession i x).trngCtr = s.trngCtr := rfl
@[simp] theorem setSession_variant (i : Nat) (x : Session) : (s.setSession i x).variant = s.variant := rfl
@[simp] theorem setSession_idleGrove (i : Nat) (x : Session) : (s.setSession i x).idleGrove = s.idleGrove := rfl
@[simp] theorem setSession_idleModule (i : Nat) (x : Session) : (s.setSession i x).idleModule = s.idleModule := rfl
@[simp] theorem setSession_shortId (i : Nat) (x : Session) : (s.setSession i x).shortId = s.shortId := rfl
@[simp] theorem setSession_ikPub (i : Nat) (x : Session) : (s.setSession i x).ikPub = s.ikPub := rfl
@[simp] theorem setSession_pwr (i : Nat) (x : Session) : (s.setSession i x).pwr = s.pwr := rfl
@[simp] theorem setSession_cmb (i : Nat) (x : Session) : (s.setSession i x).cmb = s.cmb := rfl
@[simp] theorem setSession_sap (i : Nat) (x : Session) : (s.setSession i x).sap = s.sap := rfl
@[simp] theorem setSession_cfg (i : Nat) (x : Session) : (s.setSession i x).cfg = s.cfg := rfl
@[simp] theorem setSession_evt (i : Nat) (x : Session) : (s.setSession i x).evt = s.evt := rfl
@[simp] theorem setSession_hif (i : Nat) (x : Session) : (s.setSession i x).hif = s.hif := rfl
@[simp] theorem setSession_hw (i : Nat) (x : Session) : (s.setSession i x).hw = s.hw := rfl
@[simp] theorem setSession_ten (i : Nat) (x : Session) : (s.setSession i x).ten = s.ten := rfl
@[simp] theorem setSession_parts (i : Nat) (x : Session) : (s.setSession i x).parts = s.parts := rfl
@[simp] theorem setSession_flt (i : Nat) (x : Session) : (s.setSession i x).flt = s.flt := rfl
@[simp] theorem setSession_cnp (i : Nat) (x : Session) : (s.setSession i x).cnp = s.cnp := rfl
@[simp] theorem setSession_mem (i : Nat) (x : Session) : (s.setSession i x).mem = s.mem := rfl
@[simp] theorem setSession_havoc (i : Nat) (x : Session) : (s.setSession i x).havoc = s.havoc := rfl
@[simp] theorem setSession_clusters (i : Nat) (x : Session) : (s.setSession i x).clusters = s.clusters := rfl
@[simp] theorem setSession_mb (i : Nat) (x : Session) : (s.setSession i x).mb = s.mb := rfl
@[simp] theorem setSession_gates (i : Nat) (x : Session) : (s.setSession i x).gates = s.gates := rfl
@[simp] theorem setSession_bgh (i : Nat) (x : Session) : (s.setSession i x).bgh = s.bgh := rfl
@[simp] theorem setSession_bufs (i : Nat) (x : Session) : (s.setSession i x).bufs = s.bufs := rfl
@[simp] theorem setSession_gve (i : Nat) (x : Session) : (s.setSession i x).gve = s.gve := rfl
@[simp] theorem setSession_red (i : Nat) (x : Session) : (s.setSession i x).red = s.red := rfl
@[simp] theorem setSession_redSel (i : Nat) (x : Session) : (s.setSession i x).redSel = s.redSel := rfl
@[simp] theorem setSession_num (i : Nat) (x : Session) : (s.setSession i x).num = s.num := rfl

/-! ### State.setPort writes bgh -/

@[simp] theorem setPort_pending (n : Nat) (x : Port) : (s.setPort n x).pending = s.pending := rfl
@[simp] theorem setPort_outbox (n : Nat) (x : Port) : (s.setPort n x).outbox = s.outbox := rfl
@[simp] theorem setPort_freeCtr (n : Nat) (x : Port) : (s.setPort n x).freeCtr = s.freeCtr := rfl
@[simp] theorem setPort_trngCtr (n : Nat) (x : Port) : (s.setPort n x).trngCtr = s.trngCtr := rfl
@[simp] theorem setPort_variant (n : Nat) (x : Port) : (s.setPort n x).variant = s.variant := rfl
@[simp] theorem setPort_idleGrove (n : Nat) (x : Port) : (s.setPort n x).idleGrove = s.idleGrove := rfl
@[simp] theorem setPort_idleModule (n : Nat) (x : Port) : (s.setPort n x).idleModule = s.idleModule := rfl
@[simp] theorem setPort_shortId (n : Nat) (x : Port) : (s.setPort n x).shortId = s.shortId := rfl
@[simp] theorem setPort_ikPub (n : Nat) (x : Port) : (s.setPort n x).ikPub = s.ikPub := rfl
@[simp] theorem setPort_pwr (n : Nat) (x : Port) : (s.setPort n x).pwr = s.pwr := rfl
@[simp] theorem setPort_cmb (n : Nat) (x : Port) : (s.setPort n x).cmb = s.cmb := rfl
@[simp] theorem setPort_sap (n : Nat) (x : Port) : (s.setPort n x).sap = s.sap := rfl
@[simp] theorem setPort_cfg (n : Nat) (x : Port) : (s.setPort n x).cfg = s.cfg := rfl
@[simp] theorem setPort_evt (n : Nat) (x : Port) : (s.setPort n x).evt = s.evt := rfl
@[simp] theorem setPort_hif (n : Nat) (x : Port) : (s.setPort n x).hif = s.hif := rfl
@[simp] theorem setPort_sessions (n : Nat) (x : Port) : (s.setPort n x).sessions = s.sessions := rfl
@[simp] theorem setPort_hw (n : Nat) (x : Port) : (s.setPort n x).hw = s.hw := rfl
@[simp] theorem setPort_ten (n : Nat) (x : Port) : (s.setPort n x).ten = s.ten := rfl
@[simp] theorem setPort_parts (n : Nat) (x : Port) : (s.setPort n x).parts = s.parts := rfl
@[simp] theorem setPort_flt (n : Nat) (x : Port) : (s.setPort n x).flt = s.flt := rfl
@[simp] theorem setPort_cnp (n : Nat) (x : Port) : (s.setPort n x).cnp = s.cnp := rfl
@[simp] theorem setPort_mem (n : Nat) (x : Port) : (s.setPort n x).mem = s.mem := rfl
@[simp] theorem setPort_havoc (n : Nat) (x : Port) : (s.setPort n x).havoc = s.havoc := rfl
@[simp] theorem setPort_clusters (n : Nat) (x : Port) : (s.setPort n x).clusters = s.clusters := rfl
@[simp] theorem setPort_mb (n : Nat) (x : Port) : (s.setPort n x).mb = s.mb := rfl
@[simp] theorem setPort_gates (n : Nat) (x : Port) : (s.setPort n x).gates = s.gates := rfl
@[simp] theorem setPort_bufs (n : Nat) (x : Port) : (s.setPort n x).bufs = s.bufs := rfl
@[simp] theorem setPort_gve (n : Nat) (x : Port) : (s.setPort n x).gve = s.gve := rfl
@[simp] theorem setPort_red (n : Nat) (x : Port) : (s.setPort n x).red = s.red := rfl
@[simp] theorem setPort_redSel (n : Nat) (x : Port) : (s.setPort n x).redSel = s.redSel := rfl
@[simp] theorem setPort_num (n : Nat) (x : Port) : (s.setPort n x).num = s.num := rfl

/-! ### State.setClock writes sap -/

@[simp] theorem setClock_pending (p : Nat) (x : PtClock) : (s.setClock p x).pending = s.pending := rfl
@[simp] theorem setClock_outbox (p : Nat) (x : PtClock) : (s.setClock p x).outbox = s.outbox := rfl
@[simp] theorem setClock_freeCtr (p : Nat) (x : PtClock) : (s.setClock p x).freeCtr = s.freeCtr := rfl
@[simp] theorem setClock_trngCtr (p : Nat) (x : PtClock) : (s.setClock p x).trngCtr = s.trngCtr := rfl
@[simp] theorem setClock_variant (p : Nat) (x : PtClock) : (s.setClock p x).variant = s.variant := rfl
@[simp] theorem setClock_idleGrove (p : Nat) (x : PtClock) : (s.setClock p x).idleGrove = s.idleGrove := rfl
@[simp] theorem setClock_idleModule (p : Nat) (x : PtClock) : (s.setClock p x).idleModule = s.idleModule := rfl
@[simp] theorem setClock_shortId (p : Nat) (x : PtClock) : (s.setClock p x).shortId = s.shortId := rfl
@[simp] theorem setClock_ikPub (p : Nat) (x : PtClock) : (s.setClock p x).ikPub = s.ikPub := rfl
@[simp] theorem setClock_pwr (p : Nat) (x : PtClock) : (s.setClock p x).pwr = s.pwr := rfl
@[simp] theorem setClock_cmb (p : Nat) (x : PtClock) : (s.setClock p x).cmb = s.cmb := rfl
@[simp] theorem setClock_cfg (p : Nat) (x : PtClock) : (s.setClock p x).cfg = s.cfg := rfl
@[simp] theorem setClock_evt (p : Nat) (x : PtClock) : (s.setClock p x).evt = s.evt := rfl
@[simp] theorem setClock_hif (p : Nat) (x : PtClock) : (s.setClock p x).hif = s.hif := rfl
@[simp] theorem setClock_sessions (p : Nat) (x : PtClock) : (s.setClock p x).sessions = s.sessions := rfl
@[simp] theorem setClock_hw (p : Nat) (x : PtClock) : (s.setClock p x).hw = s.hw := rfl
@[simp] theorem setClock_ten (p : Nat) (x : PtClock) : (s.setClock p x).ten = s.ten := rfl
@[simp] theorem setClock_parts (p : Nat) (x : PtClock) : (s.setClock p x).parts = s.parts := rfl
@[simp] theorem setClock_flt (p : Nat) (x : PtClock) : (s.setClock p x).flt = s.flt := rfl
@[simp] theorem setClock_cnp (p : Nat) (x : PtClock) : (s.setClock p x).cnp = s.cnp := rfl
@[simp] theorem setClock_mem (p : Nat) (x : PtClock) : (s.setClock p x).mem = s.mem := rfl
@[simp] theorem setClock_havoc (p : Nat) (x : PtClock) : (s.setClock p x).havoc = s.havoc := rfl
@[simp] theorem setClock_clusters (p : Nat) (x : PtClock) : (s.setClock p x).clusters = s.clusters := rfl
@[simp] theorem setClock_mb (p : Nat) (x : PtClock) : (s.setClock p x).mb = s.mb := rfl
@[simp] theorem setClock_gates (p : Nat) (x : PtClock) : (s.setClock p x).gates = s.gates := rfl
@[simp] theorem setClock_bgh (p : Nat) (x : PtClock) : (s.setClock p x).bgh = s.bgh := rfl
@[simp] theorem setClock_bufs (p : Nat) (x : PtClock) : (s.setClock p x).bufs = s.bufs := rfl
@[simp] theorem setClock_gve (p : Nat) (x : PtClock) : (s.setClock p x).gve = s.gve := rfl
@[simp] theorem setClock_red (p : Nat) (x : PtClock) : (s.setClock p x).red = s.red := rfl
@[simp] theorem setClock_redSel (p : Nat) (x : PtClock) : (s.setClock p x).redSel = s.redSel := rfl
@[simp] theorem setClock_num (p : Nat) (x : PtClock) : (s.setClock p x).num = s.num := rfl

/-! ### State.setCluster writes clusters -/

@[simp] theorem setCluster_pending (c : Nat) (x : Cluster) : (s.setCluster c x).pending = s.pending := rfl
@[simp] theorem setCluster_outbox (c : Nat) (x : Cluster) : (s.setCluster c x).outbox = s.outbox := rfl
@[simp] theorem setCluster_freeCtr (c : Nat) (x : Cluster) : (s.setCluster c x).freeCtr = s.freeCtr := rfl
@[simp] theorem setCluster_trngCtr (c : Nat) (x : Cluster) : (s.setCluster c x).trngCtr = s.trngCtr := rfl
@[simp] theorem setCluster_variant (c : Nat) (x : Cluster) : (s.setCluster c x).variant = s.variant := rfl
@[simp] theorem setCluster_idleGrove (c : Nat) (x : Cluster) : (s.setCluster c x).idleGrove = s.idleGrove := rfl
@[simp] theorem setCluster_idleModule (c : Nat) (x : Cluster) : (s.setCluster c x).idleModule = s.idleModule := rfl
@[simp] theorem setCluster_shortId (c : Nat) (x : Cluster) : (s.setCluster c x).shortId = s.shortId := rfl
@[simp] theorem setCluster_ikPub (c : Nat) (x : Cluster) : (s.setCluster c x).ikPub = s.ikPub := rfl
@[simp] theorem setCluster_pwr (c : Nat) (x : Cluster) : (s.setCluster c x).pwr = s.pwr := rfl
@[simp] theorem setCluster_cmb (c : Nat) (x : Cluster) : (s.setCluster c x).cmb = s.cmb := rfl
@[simp] theorem setCluster_sap (c : Nat) (x : Cluster) : (s.setCluster c x).sap = s.sap := rfl
@[simp] theorem setCluster_cfg (c : Nat) (x : Cluster) : (s.setCluster c x).cfg = s.cfg := rfl
@[simp] theorem setCluster_evt (c : Nat) (x : Cluster) : (s.setCluster c x).evt = s.evt := rfl
@[simp] theorem setCluster_hif (c : Nat) (x : Cluster) : (s.setCluster c x).hif = s.hif := rfl
@[simp] theorem setCluster_sessions (c : Nat) (x : Cluster) : (s.setCluster c x).sessions = s.sessions := rfl
@[simp] theorem setCluster_hw (c : Nat) (x : Cluster) : (s.setCluster c x).hw = s.hw := rfl
@[simp] theorem setCluster_ten (c : Nat) (x : Cluster) : (s.setCluster c x).ten = s.ten := rfl
@[simp] theorem setCluster_parts (c : Nat) (x : Cluster) : (s.setCluster c x).parts = s.parts := rfl
@[simp] theorem setCluster_flt (c : Nat) (x : Cluster) : (s.setCluster c x).flt = s.flt := rfl
@[simp] theorem setCluster_cnp (c : Nat) (x : Cluster) : (s.setCluster c x).cnp = s.cnp := rfl
@[simp] theorem setCluster_mem (c : Nat) (x : Cluster) : (s.setCluster c x).mem = s.mem := rfl
@[simp] theorem setCluster_havoc (c : Nat) (x : Cluster) : (s.setCluster c x).havoc = s.havoc := rfl
@[simp] theorem setCluster_mb (c : Nat) (x : Cluster) : (s.setCluster c x).mb = s.mb := rfl
@[simp] theorem setCluster_gates (c : Nat) (x : Cluster) : (s.setCluster c x).gates = s.gates := rfl
@[simp] theorem setCluster_bgh (c : Nat) (x : Cluster) : (s.setCluster c x).bgh = s.bgh := rfl
@[simp] theorem setCluster_bufs (c : Nat) (x : Cluster) : (s.setCluster c x).bufs = s.bufs := rfl
@[simp] theorem setCluster_gve (c : Nat) (x : Cluster) : (s.setCluster c x).gve = s.gve := rfl
@[simp] theorem setCluster_red (c : Nat) (x : Cluster) : (s.setCluster c x).red = s.red := rfl
@[simp] theorem setCluster_redSel (c : Nat) (x : Cluster) : (s.setCluster c x).redSel = s.redSel := rfl
@[simp] theorem setCluster_num (c : Nat) (x : Cluster) : (s.setCluster c x).num = s.num := rfl

/-! ### State.setGrove writes flt -/

@[simp] theorem setGrove_pending (g : Nat) (x : GroveMap) : (s.setGrove g x).pending = s.pending := rfl
@[simp] theorem setGrove_outbox (g : Nat) (x : GroveMap) : (s.setGrove g x).outbox = s.outbox := rfl
@[simp] theorem setGrove_freeCtr (g : Nat) (x : GroveMap) : (s.setGrove g x).freeCtr = s.freeCtr := rfl
@[simp] theorem setGrove_trngCtr (g : Nat) (x : GroveMap) : (s.setGrove g x).trngCtr = s.trngCtr := rfl
@[simp] theorem setGrove_variant (g : Nat) (x : GroveMap) : (s.setGrove g x).variant = s.variant := rfl
@[simp] theorem setGrove_idleGrove (g : Nat) (x : GroveMap) : (s.setGrove g x).idleGrove = s.idleGrove := rfl
@[simp] theorem setGrove_idleModule (g : Nat) (x : GroveMap) : (s.setGrove g x).idleModule = s.idleModule := rfl
@[simp] theorem setGrove_shortId (g : Nat) (x : GroveMap) : (s.setGrove g x).shortId = s.shortId := rfl
@[simp] theorem setGrove_ikPub (g : Nat) (x : GroveMap) : (s.setGrove g x).ikPub = s.ikPub := rfl
@[simp] theorem setGrove_pwr (g : Nat) (x : GroveMap) : (s.setGrove g x).pwr = s.pwr := rfl
@[simp] theorem setGrove_cmb (g : Nat) (x : GroveMap) : (s.setGrove g x).cmb = s.cmb := rfl
@[simp] theorem setGrove_sap (g : Nat) (x : GroveMap) : (s.setGrove g x).sap = s.sap := rfl
@[simp] theorem setGrove_cfg (g : Nat) (x : GroveMap) : (s.setGrove g x).cfg = s.cfg := rfl
@[simp] theorem setGrove_evt (g : Nat) (x : GroveMap) : (s.setGrove g x).evt = s.evt := rfl
@[simp] theorem setGrove_hif (g : Nat) (x : GroveMap) : (s.setGrove g x).hif = s.hif := rfl
@[simp] theorem setGrove_sessions (g : Nat) (x : GroveMap) : (s.setGrove g x).sessions = s.sessions := rfl
@[simp] theorem setGrove_hw (g : Nat) (x : GroveMap) : (s.setGrove g x).hw = s.hw := rfl
@[simp] theorem setGrove_ten (g : Nat) (x : GroveMap) : (s.setGrove g x).ten = s.ten := rfl
@[simp] theorem setGrove_parts (g : Nat) (x : GroveMap) : (s.setGrove g x).parts = s.parts := rfl
@[simp] theorem setGrove_cnp (g : Nat) (x : GroveMap) : (s.setGrove g x).cnp = s.cnp := rfl
@[simp] theorem setGrove_mem (g : Nat) (x : GroveMap) : (s.setGrove g x).mem = s.mem := rfl
@[simp] theorem setGrove_havoc (g : Nat) (x : GroveMap) : (s.setGrove g x).havoc = s.havoc := rfl
@[simp] theorem setGrove_clusters (g : Nat) (x : GroveMap) : (s.setGrove g x).clusters = s.clusters := rfl
@[simp] theorem setGrove_mb (g : Nat) (x : GroveMap) : (s.setGrove g x).mb = s.mb := rfl
@[simp] theorem setGrove_gates (g : Nat) (x : GroveMap) : (s.setGrove g x).gates = s.gates := rfl
@[simp] theorem setGrove_bgh (g : Nat) (x : GroveMap) : (s.setGrove g x).bgh = s.bgh := rfl
@[simp] theorem setGrove_bufs (g : Nat) (x : GroveMap) : (s.setGrove g x).bufs = s.bufs := rfl
@[simp] theorem setGrove_gve (g : Nat) (x : GroveMap) : (s.setGrove g x).gve = s.gve := rfl
@[simp] theorem setGrove_red (g : Nat) (x : GroveMap) : (s.setGrove g x).red = s.red := rfl
@[simp] theorem setGrove_redSel (g : Nat) (x : GroveMap) : (s.setGrove g x).redSel = s.redSel := rfl
@[simp] theorem setGrove_num (g : Nat) (x : GroveMap) : (s.setGrove g x).num = s.num := rfl

/-! ### State.setThermal writes sap -/

@[simp] theorem setThermal_pending (g : Nat) (x : Thermal) : (s.setThermal g x).pending = s.pending := rfl
@[simp] theorem setThermal_outbox (g : Nat) (x : Thermal) : (s.setThermal g x).outbox = s.outbox := rfl
@[simp] theorem setThermal_freeCtr (g : Nat) (x : Thermal) : (s.setThermal g x).freeCtr = s.freeCtr := rfl
@[simp] theorem setThermal_trngCtr (g : Nat) (x : Thermal) : (s.setThermal g x).trngCtr = s.trngCtr := rfl
@[simp] theorem setThermal_variant (g : Nat) (x : Thermal) : (s.setThermal g x).variant = s.variant := rfl
@[simp] theorem setThermal_idleGrove (g : Nat) (x : Thermal) : (s.setThermal g x).idleGrove = s.idleGrove := rfl
@[simp] theorem setThermal_idleModule (g : Nat) (x : Thermal) : (s.setThermal g x).idleModule = s.idleModule := rfl
@[simp] theorem setThermal_shortId (g : Nat) (x : Thermal) : (s.setThermal g x).shortId = s.shortId := rfl
@[simp] theorem setThermal_ikPub (g : Nat) (x : Thermal) : (s.setThermal g x).ikPub = s.ikPub := rfl
@[simp] theorem setThermal_pwr (g : Nat) (x : Thermal) : (s.setThermal g x).pwr = s.pwr := rfl
@[simp] theorem setThermal_cmb (g : Nat) (x : Thermal) : (s.setThermal g x).cmb = s.cmb := rfl
@[simp] theorem setThermal_cfg (g : Nat) (x : Thermal) : (s.setThermal g x).cfg = s.cfg := rfl
@[simp] theorem setThermal_evt (g : Nat) (x : Thermal) : (s.setThermal g x).evt = s.evt := rfl
@[simp] theorem setThermal_hif (g : Nat) (x : Thermal) : (s.setThermal g x).hif = s.hif := rfl
@[simp] theorem setThermal_sessions (g : Nat) (x : Thermal) : (s.setThermal g x).sessions = s.sessions := rfl
@[simp] theorem setThermal_hw (g : Nat) (x : Thermal) : (s.setThermal g x).hw = s.hw := rfl
@[simp] theorem setThermal_ten (g : Nat) (x : Thermal) : (s.setThermal g x).ten = s.ten := rfl
@[simp] theorem setThermal_parts (g : Nat) (x : Thermal) : (s.setThermal g x).parts = s.parts := rfl
@[simp] theorem setThermal_flt (g : Nat) (x : Thermal) : (s.setThermal g x).flt = s.flt := rfl
@[simp] theorem setThermal_cnp (g : Nat) (x : Thermal) : (s.setThermal g x).cnp = s.cnp := rfl
@[simp] theorem setThermal_mem (g : Nat) (x : Thermal) : (s.setThermal g x).mem = s.mem := rfl
@[simp] theorem setThermal_havoc (g : Nat) (x : Thermal) : (s.setThermal g x).havoc = s.havoc := rfl
@[simp] theorem setThermal_clusters (g : Nat) (x : Thermal) : (s.setThermal g x).clusters = s.clusters := rfl
@[simp] theorem setThermal_mb (g : Nat) (x : Thermal) : (s.setThermal g x).mb = s.mb := rfl
@[simp] theorem setThermal_gates (g : Nat) (x : Thermal) : (s.setThermal g x).gates = s.gates := rfl
@[simp] theorem setThermal_bgh (g : Nat) (x : Thermal) : (s.setThermal g x).bgh = s.bgh := rfl
@[simp] theorem setThermal_bufs (g : Nat) (x : Thermal) : (s.setThermal g x).bufs = s.bufs := rfl
@[simp] theorem setThermal_gve (g : Nat) (x : Thermal) : (s.setThermal g x).gve = s.gve := rfl
@[simp] theorem setThermal_red (g : Nat) (x : Thermal) : (s.setThermal g x).red = s.red := rfl
@[simp] theorem setThermal_redSel (g : Nat) (x : Thermal) : (s.setThermal g x).redSel = s.redSel := rfl
@[simp] theorem setThermal_num (g : Nat) (x : Thermal) : (s.setThermal g x).num = s.num := rfl

/-! ### State.setBufs writes bufs -/

@[simp] theorem setBufs_pending (p : Nat) (x : PtBufs) : (s.setBufs p x).pending = s.pending := rfl
@[simp] theorem setBufs_outbox (p : Nat) (x : PtBufs) : (s.setBufs p x).outbox = s.outbox := rfl
@[simp] theorem setBufs_freeCtr (p : Nat) (x : PtBufs) : (s.setBufs p x).freeCtr = s.freeCtr := rfl
@[simp] theorem setBufs_trngCtr (p : Nat) (x : PtBufs) : (s.setBufs p x).trngCtr = s.trngCtr := rfl
@[simp] theorem setBufs_variant (p : Nat) (x : PtBufs) : (s.setBufs p x).variant = s.variant := rfl
@[simp] theorem setBufs_idleGrove (p : Nat) (x : PtBufs) : (s.setBufs p x).idleGrove = s.idleGrove := rfl
@[simp] theorem setBufs_idleModule (p : Nat) (x : PtBufs) : (s.setBufs p x).idleModule = s.idleModule := rfl
@[simp] theorem setBufs_shortId (p : Nat) (x : PtBufs) : (s.setBufs p x).shortId = s.shortId := rfl
@[simp] theorem setBufs_ikPub (p : Nat) (x : PtBufs) : (s.setBufs p x).ikPub = s.ikPub := rfl
@[simp] theorem setBufs_pwr (p : Nat) (x : PtBufs) : (s.setBufs p x).pwr = s.pwr := rfl
@[simp] theorem setBufs_cmb (p : Nat) (x : PtBufs) : (s.setBufs p x).cmb = s.cmb := rfl
@[simp] theorem setBufs_sap (p : Nat) (x : PtBufs) : (s.setBufs p x).sap = s.sap := rfl
@[simp] theorem setBufs_cfg (p : Nat) (x : PtBufs) : (s.setBufs p x).cfg = s.cfg := rfl
@[simp] theorem setBufs_evt (p : Nat) (x : PtBufs) : (s.setBufs p x).evt = s.evt := rfl
@[simp] theorem setBufs_hif (p : Nat) (x : PtBufs) : (s.setBufs p x).hif = s.hif := rfl
@[simp] theorem setBufs_sessions (p : Nat) (x : PtBufs) : (s.setBufs p x).sessions = s.sessions := rfl
@[simp] theorem setBufs_hw (p : Nat) (x : PtBufs) : (s.setBufs p x).hw = s.hw := rfl
@[simp] theorem setBufs_ten (p : Nat) (x : PtBufs) : (s.setBufs p x).ten = s.ten := rfl
@[simp] theorem setBufs_parts (p : Nat) (x : PtBufs) : (s.setBufs p x).parts = s.parts := rfl
@[simp] theorem setBufs_flt (p : Nat) (x : PtBufs) : (s.setBufs p x).flt = s.flt := rfl
@[simp] theorem setBufs_cnp (p : Nat) (x : PtBufs) : (s.setBufs p x).cnp = s.cnp := rfl
@[simp] theorem setBufs_mem (p : Nat) (x : PtBufs) : (s.setBufs p x).mem = s.mem := rfl
@[simp] theorem setBufs_havoc (p : Nat) (x : PtBufs) : (s.setBufs p x).havoc = s.havoc := rfl
@[simp] theorem setBufs_clusters (p : Nat) (x : PtBufs) : (s.setBufs p x).clusters = s.clusters := rfl
@[simp] theorem setBufs_mb (p : Nat) (x : PtBufs) : (s.setBufs p x).mb = s.mb := rfl
@[simp] theorem setBufs_gates (p : Nat) (x : PtBufs) : (s.setBufs p x).gates = s.gates := rfl
@[simp] theorem setBufs_bgh (p : Nat) (x : PtBufs) : (s.setBufs p x).bgh = s.bgh := rfl
@[simp] theorem setBufs_gve (p : Nat) (x : PtBufs) : (s.setBufs p x).gve = s.gve := rfl
@[simp] theorem setBufs_red (p : Nat) (x : PtBufs) : (s.setBufs p x).red = s.red := rfl
@[simp] theorem setBufs_redSel (p : Nat) (x : PtBufs) : (s.setBufs p x).redSel = s.redSel := rfl
@[simp] theorem setBufs_num (p : Nat) (x : PtBufs) : (s.setBufs p x).num = s.num := rfl

/-! ### State.emit writes outbox -/

@[simp] theorem emit_pending (o : Out) : (s.emit o).pending = s.pending := rfl
@[simp] theorem emit_freeCtr (o : Out) : (s.emit o).freeCtr = s.freeCtr := rfl
@[simp] theorem emit_trngCtr (o : Out) : (s.emit o).trngCtr = s.trngCtr := rfl
@[simp] theorem emit_variant (o : Out) : (s.emit o).variant = s.variant := rfl
@[simp] theorem emit_idleGrove (o : Out) : (s.emit o).idleGrove = s.idleGrove := rfl
@[simp] theorem emit_idleModule (o : Out) : (s.emit o).idleModule = s.idleModule := rfl
@[simp] theorem emit_shortId (o : Out) : (s.emit o).shortId = s.shortId := rfl
@[simp] theorem emit_ikPub (o : Out) : (s.emit o).ikPub = s.ikPub := rfl
@[simp] theorem emit_pwr (o : Out) : (s.emit o).pwr = s.pwr := rfl
@[simp] theorem emit_cmb (o : Out) : (s.emit o).cmb = s.cmb := rfl
@[simp] theorem emit_sap (o : Out) : (s.emit o).sap = s.sap := rfl
@[simp] theorem emit_cfg (o : Out) : (s.emit o).cfg = s.cfg := rfl
@[simp] theorem emit_evt (o : Out) : (s.emit o).evt = s.evt := rfl
@[simp] theorem emit_hif (o : Out) : (s.emit o).hif = s.hif := rfl
@[simp] theorem emit_sessions (o : Out) : (s.emit o).sessions = s.sessions := rfl
@[simp] theorem emit_hw (o : Out) : (s.emit o).hw = s.hw := rfl
@[simp] theorem emit_ten (o : Out) : (s.emit o).ten = s.ten := rfl
@[simp] theorem emit_parts (o : Out) : (s.emit o).parts = s.parts := rfl
@[simp] theorem emit_flt (o : Out) : (s.emit o).flt = s.flt := rfl
@[simp] theorem emit_cnp (o : Out) : (s.emit o).cnp = s.cnp := rfl
@[simp] theorem emit_mem (o : Out) : (s.emit o).mem = s.mem := rfl
@[simp] theorem emit_havoc (o : Out) : (s.emit o).havoc = s.havoc := rfl
@[simp] theorem emit_clusters (o : Out) : (s.emit o).clusters = s.clusters := rfl
@[simp] theorem emit_mb (o : Out) : (s.emit o).mb = s.mb := rfl
@[simp] theorem emit_gates (o : Out) : (s.emit o).gates = s.gates := rfl
@[simp] theorem emit_bgh (o : Out) : (s.emit o).bgh = s.bgh := rfl
@[simp] theorem emit_bufs (o : Out) : (s.emit o).bufs = s.bufs := rfl
@[simp] theorem emit_gve (o : Out) : (s.emit o).gve = s.gve := rfl
@[simp] theorem emit_red (o : Out) : (s.emit o).red = s.red := rfl
@[simp] theorem emit_redSel (o : Out) : (s.emit o).redSel = s.redSel := rfl
@[simp] theorem emit_num (o : Out) : (s.emit o).num = s.num := rfl

/-! ### State.emitPcie writes gates -/

@[simp] theorem emitPcie_pending (o : Out) : (s.emitPcie o).pending = s.pending := rfl
@[simp] theorem emitPcie_outbox (o : Out) : (s.emitPcie o).outbox = s.outbox := rfl
@[simp] theorem emitPcie_freeCtr (o : Out) : (s.emitPcie o).freeCtr = s.freeCtr := rfl
@[simp] theorem emitPcie_trngCtr (o : Out) : (s.emitPcie o).trngCtr = s.trngCtr := rfl
@[simp] theorem emitPcie_variant (o : Out) : (s.emitPcie o).variant = s.variant := rfl
@[simp] theorem emitPcie_idleGrove (o : Out) : (s.emitPcie o).idleGrove = s.idleGrove := rfl
@[simp] theorem emitPcie_idleModule (o : Out) : (s.emitPcie o).idleModule = s.idleModule := rfl
@[simp] theorem emitPcie_shortId (o : Out) : (s.emitPcie o).shortId = s.shortId := rfl
@[simp] theorem emitPcie_ikPub (o : Out) : (s.emitPcie o).ikPub = s.ikPub := rfl
@[simp] theorem emitPcie_pwr (o : Out) : (s.emitPcie o).pwr = s.pwr := rfl
@[simp] theorem emitPcie_cmb (o : Out) : (s.emitPcie o).cmb = s.cmb := rfl
@[simp] theorem emitPcie_sap (o : Out) : (s.emitPcie o).sap = s.sap := rfl
@[simp] theorem emitPcie_cfg (o : Out) : (s.emitPcie o).cfg = s.cfg := rfl
@[simp] theorem emitPcie_evt (o : Out) : (s.emitPcie o).evt = s.evt := rfl
@[simp] theorem emitPcie_hif (o : Out) : (s.emitPcie o).hif = s.hif := rfl
@[simp] theorem emitPcie_sessions (o : Out) : (s.emitPcie o).sessions = s.sessions := rfl
@[simp] theorem emitPcie_hw (o : Out) : (s.emitPcie o).hw = s.hw := rfl
@[simp] theorem emitPcie_ten (o : Out) : (s.emitPcie o).ten = s.ten := rfl
@[simp] theorem emitPcie_parts (o : Out) : (s.emitPcie o).parts = s.parts := rfl
@[simp] theorem emitPcie_flt (o : Out) : (s.emitPcie o).flt = s.flt := rfl
@[simp] theorem emitPcie_cnp (o : Out) : (s.emitPcie o).cnp = s.cnp := rfl
@[simp] theorem emitPcie_mem (o : Out) : (s.emitPcie o).mem = s.mem := rfl
@[simp] theorem emitPcie_havoc (o : Out) : (s.emitPcie o).havoc = s.havoc := rfl
@[simp] theorem emitPcie_clusters (o : Out) : (s.emitPcie o).clusters = s.clusters := rfl
@[simp] theorem emitPcie_mb (o : Out) : (s.emitPcie o).mb = s.mb := rfl
@[simp] theorem emitPcie_bgh (o : Out) : (s.emitPcie o).bgh = s.bgh := rfl
@[simp] theorem emitPcie_bufs (o : Out) : (s.emitPcie o).bufs = s.bufs := rfl
@[simp] theorem emitPcie_gve (o : Out) : (s.emitPcie o).gve = s.gve := rfl
@[simp] theorem emitPcie_red (o : Out) : (s.emitPcie o).red = s.red := rfl
@[simp] theorem emitPcie_redSel (o : Out) : (s.emitPcie o).redSel = s.redSel := rfl
@[simp] theorem emitPcie_num (o : Out) : (s.emitPcie o).num = s.num := rfl

/-! ### State.emitBough writes gates -/

@[simp] theorem emitBough_pending (o : Out) : (s.emitBough o).pending = s.pending := rfl
@[simp] theorem emitBough_outbox (o : Out) : (s.emitBough o).outbox = s.outbox := rfl
@[simp] theorem emitBough_freeCtr (o : Out) : (s.emitBough o).freeCtr = s.freeCtr := rfl
@[simp] theorem emitBough_trngCtr (o : Out) : (s.emitBough o).trngCtr = s.trngCtr := rfl
@[simp] theorem emitBough_variant (o : Out) : (s.emitBough o).variant = s.variant := rfl
@[simp] theorem emitBough_idleGrove (o : Out) : (s.emitBough o).idleGrove = s.idleGrove := rfl
@[simp] theorem emitBough_idleModule (o : Out) : (s.emitBough o).idleModule = s.idleModule := rfl
@[simp] theorem emitBough_shortId (o : Out) : (s.emitBough o).shortId = s.shortId := rfl
@[simp] theorem emitBough_ikPub (o : Out) : (s.emitBough o).ikPub = s.ikPub := rfl
@[simp] theorem emitBough_pwr (o : Out) : (s.emitBough o).pwr = s.pwr := rfl
@[simp] theorem emitBough_cmb (o : Out) : (s.emitBough o).cmb = s.cmb := rfl
@[simp] theorem emitBough_sap (o : Out) : (s.emitBough o).sap = s.sap := rfl
@[simp] theorem emitBough_cfg (o : Out) : (s.emitBough o).cfg = s.cfg := rfl
@[simp] theorem emitBough_evt (o : Out) : (s.emitBough o).evt = s.evt := rfl
@[simp] theorem emitBough_hif (o : Out) : (s.emitBough o).hif = s.hif := rfl
@[simp] theorem emitBough_sessions (o : Out) : (s.emitBough o).sessions = s.sessions := rfl
@[simp] theorem emitBough_hw (o : Out) : (s.emitBough o).hw = s.hw := rfl
@[simp] theorem emitBough_ten (o : Out) : (s.emitBough o).ten = s.ten := rfl
@[simp] theorem emitBough_parts (o : Out) : (s.emitBough o).parts = s.parts := rfl
@[simp] theorem emitBough_flt (o : Out) : (s.emitBough o).flt = s.flt := rfl
@[simp] theorem emitBough_cnp (o : Out) : (s.emitBough o).cnp = s.cnp := rfl
@[simp] theorem emitBough_mem (o : Out) : (s.emitBough o).mem = s.mem := rfl
@[simp] theorem emitBough_havoc (o : Out) : (s.emitBough o).havoc = s.havoc := rfl
@[simp] theorem emitBough_clusters (o : Out) : (s.emitBough o).clusters = s.clusters := rfl
@[simp] theorem emitBough_mb (o : Out) : (s.emitBough o).mb = s.mb := rfl
@[simp] theorem emitBough_bgh (o : Out) : (s.emitBough o).bgh = s.bgh := rfl
@[simp] theorem emitBough_bufs (o : Out) : (s.emitBough o).bufs = s.bufs := rfl
@[simp] theorem emitBough_gve (o : Out) : (s.emitBough o).gve = s.gve := rfl
@[simp] theorem emitBough_red (o : Out) : (s.emitBough o).red = s.red := rfl
@[simp] theorem emitBough_redSel (o : Out) : (s.emitBough o).redSel = s.redSel := rfl
@[simp] theorem emitBough_num (o : Out) : (s.emitBough o).num = s.num := rfl

/-! ### State.emitCkpt writes gates -/

@[simp] theorem emitCkpt_pending (o : Out) : (s.emitCkpt o).pending = s.pending := rfl
@[simp] theorem emitCkpt_outbox (o : Out) : (s.emitCkpt o).outbox = s.outbox := rfl
@[simp] theorem emitCkpt_freeCtr (o : Out) : (s.emitCkpt o).freeCtr = s.freeCtr := rfl
@[simp] theorem emitCkpt_trngCtr (o : Out) : (s.emitCkpt o).trngCtr = s.trngCtr := rfl
@[simp] theorem emitCkpt_variant (o : Out) : (s.emitCkpt o).variant = s.variant := rfl
@[simp] theorem emitCkpt_idleGrove (o : Out) : (s.emitCkpt o).idleGrove = s.idleGrove := rfl
@[simp] theorem emitCkpt_idleModule (o : Out) : (s.emitCkpt o).idleModule = s.idleModule := rfl
@[simp] theorem emitCkpt_shortId (o : Out) : (s.emitCkpt o).shortId = s.shortId := rfl
@[simp] theorem emitCkpt_ikPub (o : Out) : (s.emitCkpt o).ikPub = s.ikPub := rfl
@[simp] theorem emitCkpt_pwr (o : Out) : (s.emitCkpt o).pwr = s.pwr := rfl
@[simp] theorem emitCkpt_cmb (o : Out) : (s.emitCkpt o).cmb = s.cmb := rfl
@[simp] theorem emitCkpt_sap (o : Out) : (s.emitCkpt o).sap = s.sap := rfl
@[simp] theorem emitCkpt_cfg (o : Out) : (s.emitCkpt o).cfg = s.cfg := rfl
@[simp] theorem emitCkpt_evt (o : Out) : (s.emitCkpt o).evt = s.evt := rfl
@[simp] theorem emitCkpt_hif (o : Out) : (s.emitCkpt o).hif = s.hif := rfl
@[simp] theorem emitCkpt_sessions (o : Out) : (s.emitCkpt o).sessions = s.sessions := rfl
@[simp] theorem emitCkpt_hw (o : Out) : (s.emitCkpt o).hw = s.hw := rfl
@[simp] theorem emitCkpt_ten (o : Out) : (s.emitCkpt o).ten = s.ten := rfl
@[simp] theorem emitCkpt_parts (o : Out) : (s.emitCkpt o).parts = s.parts := rfl
@[simp] theorem emitCkpt_flt (o : Out) : (s.emitCkpt o).flt = s.flt := rfl
@[simp] theorem emitCkpt_cnp (o : Out) : (s.emitCkpt o).cnp = s.cnp := rfl
@[simp] theorem emitCkpt_mem (o : Out) : (s.emitCkpt o).mem = s.mem := rfl
@[simp] theorem emitCkpt_havoc (o : Out) : (s.emitCkpt o).havoc = s.havoc := rfl
@[simp] theorem emitCkpt_clusters (o : Out) : (s.emitCkpt o).clusters = s.clusters := rfl
@[simp] theorem emitCkpt_mb (o : Out) : (s.emitCkpt o).mb = s.mb := rfl
@[simp] theorem emitCkpt_bgh (o : Out) : (s.emitCkpt o).bgh = s.bgh := rfl
@[simp] theorem emitCkpt_bufs (o : Out) : (s.emitCkpt o).bufs = s.bufs := rfl
@[simp] theorem emitCkpt_gve (o : Out) : (s.emitCkpt o).gve = s.gve := rfl
@[simp] theorem emitCkpt_red (o : Out) : (s.emitCkpt o).red = s.red := rfl
@[simp] theorem emitCkpt_redSel (o : Out) : (s.emitCkpt o).redSel = s.redSel := rfl
@[simp] theorem emitCkpt_num (o : Out) : (s.emitCkpt o).num = s.num := rfl

/-! ### State.clearEvents writes evt -/

@[simp] theorem clearEvents_pending (e : EvtSrc) (v : Word) : (s.clearEvents e v).pending = s.pending := rfl
@[simp] theorem clearEvents_outbox (e : EvtSrc) (v : Word) : (s.clearEvents e v).outbox = s.outbox := rfl
@[simp] theorem clearEvents_freeCtr (e : EvtSrc) (v : Word) : (s.clearEvents e v).freeCtr = s.freeCtr := rfl
@[simp] theorem clearEvents_trngCtr (e : EvtSrc) (v : Word) : (s.clearEvents e v).trngCtr = s.trngCtr := rfl
@[simp] theorem clearEvents_variant (e : EvtSrc) (v : Word) : (s.clearEvents e v).variant = s.variant := rfl
@[simp] theorem clearEvents_idleGrove (e : EvtSrc) (v : Word) : (s.clearEvents e v).idleGrove = s.idleGrove := rfl
@[simp] theorem clearEvents_idleModule (e : EvtSrc) (v : Word) : (s.clearEvents e v).idleModule = s.idleModule := rfl
@[simp] theorem clearEvents_shortId (e : EvtSrc) (v : Word) : (s.clearEvents e v).shortId = s.shortId := rfl
@[simp] theorem clearEvents_ikPub (e : EvtSrc) (v : Word) : (s.clearEvents e v).ikPub = s.ikPub := rfl
@[simp] theorem clearEvents_pwr (e : EvtSrc) (v : Word) : (s.clearEvents e v).pwr = s.pwr := rfl
@[simp] theorem clearEvents_cmb (e : EvtSrc) (v : Word) : (s.clearEvents e v).cmb = s.cmb := rfl
@[simp] theorem clearEvents_sap (e : EvtSrc) (v : Word) : (s.clearEvents e v).sap = s.sap := rfl
@[simp] theorem clearEvents_cfg (e : EvtSrc) (v : Word) : (s.clearEvents e v).cfg = s.cfg := rfl
@[simp] theorem clearEvents_hif (e : EvtSrc) (v : Word) : (s.clearEvents e v).hif = s.hif := rfl
@[simp] theorem clearEvents_sessions (e : EvtSrc) (v : Word) : (s.clearEvents e v).sessions = s.sessions := rfl
@[simp] theorem clearEvents_hw (e : EvtSrc) (v : Word) : (s.clearEvents e v).hw = s.hw := rfl
@[simp] theorem clearEvents_ten (e : EvtSrc) (v : Word) : (s.clearEvents e v).ten = s.ten := rfl
@[simp] theorem clearEvents_parts (e : EvtSrc) (v : Word) : (s.clearEvents e v).parts = s.parts := rfl
@[simp] theorem clearEvents_flt (e : EvtSrc) (v : Word) : (s.clearEvents e v).flt = s.flt := rfl
@[simp] theorem clearEvents_cnp (e : EvtSrc) (v : Word) : (s.clearEvents e v).cnp = s.cnp := rfl
@[simp] theorem clearEvents_mem (e : EvtSrc) (v : Word) : (s.clearEvents e v).mem = s.mem := rfl
@[simp] theorem clearEvents_havoc (e : EvtSrc) (v : Word) : (s.clearEvents e v).havoc = s.havoc := rfl
@[simp] theorem clearEvents_clusters (e : EvtSrc) (v : Word) : (s.clearEvents e v).clusters = s.clusters := rfl
@[simp] theorem clearEvents_mb (e : EvtSrc) (v : Word) : (s.clearEvents e v).mb = s.mb := rfl
@[simp] theorem clearEvents_gates (e : EvtSrc) (v : Word) : (s.clearEvents e v).gates = s.gates := rfl
@[simp] theorem clearEvents_bgh (e : EvtSrc) (v : Word) : (s.clearEvents e v).bgh = s.bgh := rfl
@[simp] theorem clearEvents_bufs (e : EvtSrc) (v : Word) : (s.clearEvents e v).bufs = s.bufs := rfl
@[simp] theorem clearEvents_gve (e : EvtSrc) (v : Word) : (s.clearEvents e v).gve = s.gve := rfl
@[simp] theorem clearEvents_red (e : EvtSrc) (v : Word) : (s.clearEvents e v).red = s.red := rfl
@[simp] theorem clearEvents_redSel (e : EvtSrc) (v : Word) : (s.clearEvents e v).redSel = s.redSel := rfl
@[simp] theorem clearEvents_num (e : EvtSrc) (v : Word) : (s.clearEvents e v).num = s.num := rfl

/-! ### Reading a record back -/

@[simp] theorem part_setPart (p : Nat) (x : Part) (j : Nat) : (s.setPart p x).part j = if j = p then x else s.part j := by
  unfold State.part State.setPart
  exact mget_mput _ _ _ _ _
@[simp] theorem tenancy_setTen (p : Nat) (x : Tenancy) (j : Nat) : (s.setTen p x).tenancy j = if j = p then x else s.tenancy j := by
  unfold State.tenancy State.setTen
  exact mget_mput _ _ _ _ _
@[simp] theorem queue_setQueue (q : Nat) (x : Queue) (j : Nat) : (s.setQueue q x).queue j = if j = q then x else s.queue j := by
  unfold State.queue State.setQueue
  exact mget_mput _ _ _ _ _
@[simp] theorem ctx_setCtx (c : Nat) (x : Ctx) (j : Nat) : (s.setCtx c x).ctx j = if j = c then x else s.ctx j := by
  unfold State.ctx State.setCtx
  exact mget_mput _ _ _ _ _
@[simp] theorem fence_setFence (i : Nat) (x : Fence) (j : Nat) : (s.setFence i x).fence j = if j = i then x else s.fence j := by
  unfold State.fence State.setFence
  exact mget_mput _ _ _ _ _
@[simp] theorem session_setSession (i : Nat) (x : Session) (j : Nat) : (s.setSession i x).session j = if j = i then x else s.session j := by
  unfold State.session State.setSession
  exact mget_mput _ _ _ _ _
@[simp] theorem port_setPort (n : Nat) (x : Port) (j : Nat) : (s.setPort n x).port j = if j = n then x else s.port j := by
  unfold State.port State.setPort
  exact mget_mput _ _ _ _ _
@[simp] theorem clock_setClock (p : Nat) (x : PtClock) (j : Nat) : (s.setClock p x).clock j = if j = p then x else s.clock j := by
  unfold State.clock State.setClock
  exact mget_mput _ _ _ _ _
@[simp] theorem cluster_setCluster (c : Nat) (x : Cluster) (j : Nat) : (s.setCluster c x).cluster j = if j = c then x else s.cluster j := by
  unfold State.cluster State.setCluster
  exact mget_mput _ _ _ _ _
@[simp] theorem grove_setGrove (g : Nat) (x : GroveMap) (j : Nat) : (s.setGrove g x).grove j = if j = g then x else s.grove j := by
  unfold State.grove State.setGrove
  exact mget_mput _ _ _ _ _
@[simp] theorem thermal_setThermal (g : Nat) (x : Thermal) (j : Nat) : (s.setThermal g x).thermal j = if j = g then x else s.thermal j := by
  unfold State.thermal State.setThermal
  exact mget_mput _ _ _ _ _
@[simp] theorem ptBufs_setBufs (p : Nat) (x : PtBufs) (j : Nat) : (s.setBufs p x).ptBufs j = if j = p then x else s.ptBufs j := by
  unfold State.ptBufs State.setBufs
  exact mget_mput _ _ _ _ _
@[simp] theorem tenancy_setPart (p : Nat) (x : Part) : (s.setPart p x).tenancy = s.tenancy := rfl
@[simp] theorem queue_setPart (p : Nat) (x : Part) : (s.setPart p x).queue = s.queue := rfl
@[simp] theorem ctx_setPart (p : Nat) (x : Part) : (s.setPart p x).ctx = s.ctx := rfl
@[simp] theorem fence_setPart (p : Nat) (x : Part) : (s.setPart p x).fence = s.fence := rfl
@[simp] theorem session_setPart (p : Nat) (x : Part) : (s.setPart p x).session = s.session := rfl
@[simp] theorem port_setPart (p : Nat) (x : Part) : (s.setPart p x).port = s.port := rfl
@[simp] theorem clock_setPart (p : Nat) (x : Part) : (s.setPart p x).clock = s.clock := rfl
@[simp] theorem cluster_setPart (p : Nat) (x : Part) : (s.setPart p x).cluster = s.cluster := rfl
@[simp] theorem grove_setPart (p : Nat) (x : Part) : (s.setPart p x).grove = s.grove := rfl
@[simp] theorem thermal_setPart (p : Nat) (x : Part) : (s.setPart p x).thermal = s.thermal := rfl
@[simp] theorem ptBufs_setPart (p : Nat) (x : Part) : (s.setPart p x).ptBufs = s.ptBufs := rfl
@[simp] theorem part_setTen (p : Nat) (x : Tenancy) : (s.setTen p x).part = s.part := rfl
@[simp] theorem queue_setTen (p : Nat) (x : Tenancy) : (s.setTen p x).queue = s.queue := rfl
@[simp] theorem ctx_setTen (p : Nat) (x : Tenancy) : (s.setTen p x).ctx = s.ctx := rfl
@[simp] theorem fence_setTen (p : Nat) (x : Tenancy) : (s.setTen p x).fence = s.fence := rfl
@[simp] theorem session_setTen (p : Nat) (x : Tenancy) : (s.setTen p x).session = s.session := rfl
@[simp] theorem port_setTen (p : Nat) (x : Tenancy) : (s.setTen p x).port = s.port := rfl
@[simp] theorem clock_setTen (p : Nat) (x : Tenancy) : (s.setTen p x).clock = s.clock := rfl
@[simp] theorem cluster_setTen (p : Nat) (x : Tenancy) : (s.setTen p x).cluster = s.cluster := rfl
@[simp] theorem grove_setTen (p : Nat) (x : Tenancy) : (s.setTen p x).grove = s.grove := rfl
@[simp] theorem thermal_setTen (p : Nat) (x : Tenancy) : (s.setTen p x).thermal = s.thermal := rfl
@[simp] theorem ptBufs_setTen (p : Nat) (x : Tenancy) : (s.setTen p x).ptBufs = s.ptBufs := rfl
@[simp] theorem part_setQueue (q : Nat) (x : Queue) : (s.setQueue q x).part = s.part := rfl
@[simp] theorem tenancy_setQueue (q : Nat) (x : Queue) : (s.setQueue q x).tenancy = s.tenancy := rfl
@[simp] theorem ctx_setQueue (q : Nat) (x : Queue) : (s.setQueue q x).ctx = s.ctx := rfl
@[simp] theorem fence_setQueue (q : Nat) (x : Queue) : (s.setQueue q x).fence = s.fence := rfl
@[simp] theorem session_setQueue (q : Nat) (x : Queue) : (s.setQueue q x).session = s.session := rfl
@[simp] theorem port_setQueue (q : Nat) (x : Queue) : (s.setQueue q x).port = s.port := rfl
@[simp] theorem clock_setQueue (q : Nat) (x : Queue) : (s.setQueue q x).clock = s.clock := rfl
@[simp] theorem cluster_setQueue (q : Nat) (x : Queue) : (s.setQueue q x).cluster = s.cluster := rfl
@[simp] theorem grove_setQueue (q : Nat) (x : Queue) : (s.setQueue q x).grove = s.grove := rfl
@[simp] theorem thermal_setQueue (q : Nat) (x : Queue) : (s.setQueue q x).thermal = s.thermal := rfl
@[simp] theorem ptBufs_setQueue (q : Nat) (x : Queue) : (s.setQueue q x).ptBufs = s.ptBufs := rfl
@[simp] theorem part_setCtx (c : Nat) (x : Ctx) : (s.setCtx c x).part = s.part := rfl
@[simp] theorem tenancy_setCtx (c : Nat) (x : Ctx) : (s.setCtx c x).tenancy = s.tenancy := rfl
@[simp] theorem queue_setCtx (c : Nat) (x : Ctx) : (s.setCtx c x).queue = s.queue := rfl
@[simp] theorem fence_setCtx (c : Nat) (x : Ctx) : (s.setCtx c x).fence = s.fence := rfl
@[simp] theorem session_setCtx (c : Nat) (x : Ctx) : (s.setCtx c x).session = s.session := rfl
@[simp] theorem port_setCtx (c : Nat) (x : Ctx) : (s.setCtx c x).port = s.port := rfl
@[simp] theorem clock_setCtx (c : Nat) (x : Ctx) : (s.setCtx c x).clock = s.clock := rfl
@[simp] theorem cluster_setCtx (c : Nat) (x : Ctx) : (s.setCtx c x).cluster = s.cluster := rfl
@[simp] theorem grove_setCtx (c : Nat) (x : Ctx) : (s.setCtx c x).grove = s.grove := rfl
@[simp] theorem thermal_setCtx (c : Nat) (x : Ctx) : (s.setCtx c x).thermal = s.thermal := rfl
@[simp] theorem ptBufs_setCtx (c : Nat) (x : Ctx) : (s.setCtx c x).ptBufs = s.ptBufs := rfl
@[simp] theorem part_setFence (i : Nat) (x : Fence) : (s.setFence i x).part = s.part := rfl
@[simp] theorem tenancy_setFence (i : Nat) (x : Fence) : (s.setFence i x).tenancy = s.tenancy := rfl
@[simp] theorem queue_setFence (i : Nat) (x : Fence) : (s.setFence i x).queue = s.queue := rfl
@[simp] theorem ctx_setFence (i : Nat) (x : Fence) : (s.setFence i x).ctx = s.ctx := rfl
@[simp] theorem session_setFence (i : Nat) (x : Fence) : (s.setFence i x).session = s.session := rfl
@[simp] theorem port_setFence (i : Nat) (x : Fence) : (s.setFence i x).port = s.port := rfl
@[simp] theorem clock_setFence (i : Nat) (x : Fence) : (s.setFence i x).clock = s.clock := rfl
@[simp] theorem cluster_setFence (i : Nat) (x : Fence) : (s.setFence i x).cluster = s.cluster := rfl
@[simp] theorem grove_setFence (i : Nat) (x : Fence) : (s.setFence i x).grove = s.grove := rfl
@[simp] theorem thermal_setFence (i : Nat) (x : Fence) : (s.setFence i x).thermal = s.thermal := rfl
@[simp] theorem ptBufs_setFence (i : Nat) (x : Fence) : (s.setFence i x).ptBufs = s.ptBufs := rfl
@[simp] theorem part_setSession (i : Nat) (x : Session) : (s.setSession i x).part = s.part := rfl
@[simp] theorem tenancy_setSession (i : Nat) (x : Session) : (s.setSession i x).tenancy = s.tenancy := rfl
@[simp] theorem queue_setSession (i : Nat) (x : Session) : (s.setSession i x).queue = s.queue := rfl
@[simp] theorem ctx_setSession (i : Nat) (x : Session) : (s.setSession i x).ctx = s.ctx := rfl
@[simp] theorem fence_setSession (i : Nat) (x : Session) : (s.setSession i x).fence = s.fence := rfl
@[simp] theorem port_setSession (i : Nat) (x : Session) : (s.setSession i x).port = s.port := rfl
@[simp] theorem clock_setSession (i : Nat) (x : Session) : (s.setSession i x).clock = s.clock := rfl
@[simp] theorem cluster_setSession (i : Nat) (x : Session) : (s.setSession i x).cluster = s.cluster := rfl
@[simp] theorem grove_setSession (i : Nat) (x : Session) : (s.setSession i x).grove = s.grove := rfl
@[simp] theorem thermal_setSession (i : Nat) (x : Session) : (s.setSession i x).thermal = s.thermal := rfl
@[simp] theorem ptBufs_setSession (i : Nat) (x : Session) : (s.setSession i x).ptBufs = s.ptBufs := rfl
@[simp] theorem part_setPort (n : Nat) (x : Port) : (s.setPort n x).part = s.part := rfl
@[simp] theorem tenancy_setPort (n : Nat) (x : Port) : (s.setPort n x).tenancy = s.tenancy := rfl
@[simp] theorem queue_setPort (n : Nat) (x : Port) : (s.setPort n x).queue = s.queue := rfl
@[simp] theorem ctx_setPort (n : Nat) (x : Port) : (s.setPort n x).ctx = s.ctx := rfl
@[simp] theorem fence_setPort (n : Nat) (x : Port) : (s.setPort n x).fence = s.fence := rfl
@[simp] theorem session_setPort (n : Nat) (x : Port) : (s.setPort n x).session = s.session := rfl
@[simp] theorem clock_setPort (n : Nat) (x : Port) : (s.setPort n x).clock = s.clock := rfl
@[simp] theorem cluster_setPort (n : Nat) (x : Port) : (s.setPort n x).cluster = s.cluster := rfl
@[simp] theorem grove_setPort (n : Nat) (x : Port) : (s.setPort n x).grove = s.grove := rfl
@[simp] theorem thermal_setPort (n : Nat) (x : Port) : (s.setPort n x).thermal = s.thermal := rfl
@[simp] theorem ptBufs_setPort (n : Nat) (x : Port) : (s.setPort n x).ptBufs = s.ptBufs := rfl
@[simp] theorem part_setClock (p : Nat) (x : PtClock) : (s.setClock p x).part = s.part := rfl
@[simp] theorem tenancy_setClock (p : Nat) (x : PtClock) : (s.setClock p x).tenancy = s.tenancy := rfl
@[simp] theorem queue_setClock (p : Nat) (x : PtClock) : (s.setClock p x).queue = s.queue := rfl
@[simp] theorem ctx_setClock (p : Nat) (x : PtClock) : (s.setClock p x).ctx = s.ctx := rfl
@[simp] theorem fence_setClock (p : Nat) (x : PtClock) : (s.setClock p x).fence = s.fence := rfl
@[simp] theorem session_setClock (p : Nat) (x : PtClock) : (s.setClock p x).session = s.session := rfl
@[simp] theorem port_setClock (p : Nat) (x : PtClock) : (s.setClock p x).port = s.port := rfl
@[simp] theorem cluster_setClock (p : Nat) (x : PtClock) : (s.setClock p x).cluster = s.cluster := rfl
@[simp] theorem grove_setClock (p : Nat) (x : PtClock) : (s.setClock p x).grove = s.grove := rfl
@[simp] theorem thermal_setClock (p : Nat) (x : PtClock) : (s.setClock p x).thermal = s.thermal := rfl
@[simp] theorem ptBufs_setClock (p : Nat) (x : PtClock) : (s.setClock p x).ptBufs = s.ptBufs := rfl
@[simp] theorem part_setCluster (c : Nat) (x : Cluster) : (s.setCluster c x).part = s.part := rfl
@[simp] theorem tenancy_setCluster (c : Nat) (x : Cluster) : (s.setCluster c x).tenancy = s.tenancy := rfl
@[simp] theorem queue_setCluster (c : Nat) (x : Cluster) : (s.setCluster c x).queue = s.queue := rfl
@[simp] theorem ctx_setCluster (c : Nat) (x : Cluster) : (s.setCluster c x).ctx = s.ctx := rfl
@[simp] theorem fence_setCluster (c : Nat) (x : Cluster) : (s.setCluster c x).fence = s.fence := rfl
@[simp] theorem session_setCluster (c : Nat) (x : Cluster) : (s.setCluster c x).session = s.session := rfl
@[simp] theorem port_setCluster (c : Nat) (x : Cluster) : (s.setCluster c x).port = s.port := rfl
@[simp] theorem clock_setCluster (c : Nat) (x : Cluster) : (s.setCluster c x).clock = s.clock := rfl
@[simp] theorem grove_setCluster (c : Nat) (x : Cluster) : (s.setCluster c x).grove = s.grove := rfl
@[simp] theorem thermal_setCluster (c : Nat) (x : Cluster) : (s.setCluster c x).thermal = s.thermal := rfl
@[simp] theorem ptBufs_setCluster (c : Nat) (x : Cluster) : (s.setCluster c x).ptBufs = s.ptBufs := rfl
@[simp] theorem part_setGrove (g : Nat) (x : GroveMap) : (s.setGrove g x).part = s.part := rfl
@[simp] theorem tenancy_setGrove (g : Nat) (x : GroveMap) : (s.setGrove g x).tenancy = s.tenancy := rfl
@[simp] theorem queue_setGrove (g : Nat) (x : GroveMap) : (s.setGrove g x).queue = s.queue := rfl
@[simp] theorem ctx_setGrove (g : Nat) (x : GroveMap) : (s.setGrove g x).ctx = s.ctx := rfl
@[simp] theorem fence_setGrove (g : Nat) (x : GroveMap) : (s.setGrove g x).fence = s.fence := rfl
@[simp] theorem session_setGrove (g : Nat) (x : GroveMap) : (s.setGrove g x).session = s.session := rfl
@[simp] theorem port_setGrove (g : Nat) (x : GroveMap) : (s.setGrove g x).port = s.port := rfl
@[simp] theorem clock_setGrove (g : Nat) (x : GroveMap) : (s.setGrove g x).clock = s.clock := rfl
@[simp] theorem cluster_setGrove (g : Nat) (x : GroveMap) : (s.setGrove g x).cluster = s.cluster := rfl
@[simp] theorem thermal_setGrove (g : Nat) (x : GroveMap) : (s.setGrove g x).thermal = s.thermal := rfl
@[simp] theorem ptBufs_setGrove (g : Nat) (x : GroveMap) : (s.setGrove g x).ptBufs = s.ptBufs := rfl
@[simp] theorem part_setThermal (g : Nat) (x : Thermal) : (s.setThermal g x).part = s.part := rfl
@[simp] theorem tenancy_setThermal (g : Nat) (x : Thermal) : (s.setThermal g x).tenancy = s.tenancy := rfl
@[simp] theorem queue_setThermal (g : Nat) (x : Thermal) : (s.setThermal g x).queue = s.queue := rfl
@[simp] theorem ctx_setThermal (g : Nat) (x : Thermal) : (s.setThermal g x).ctx = s.ctx := rfl
@[simp] theorem fence_setThermal (g : Nat) (x : Thermal) : (s.setThermal g x).fence = s.fence := rfl
@[simp] theorem session_setThermal (g : Nat) (x : Thermal) : (s.setThermal g x).session = s.session := rfl
@[simp] theorem port_setThermal (g : Nat) (x : Thermal) : (s.setThermal g x).port = s.port := rfl
@[simp] theorem clock_setThermal (g : Nat) (x : Thermal) : (s.setThermal g x).clock = s.clock := rfl
@[simp] theorem cluster_setThermal (g : Nat) (x : Thermal) : (s.setThermal g x).cluster = s.cluster := rfl
@[simp] theorem grove_setThermal (g : Nat) (x : Thermal) : (s.setThermal g x).grove = s.grove := rfl
@[simp] theorem ptBufs_setThermal (g : Nat) (x : Thermal) : (s.setThermal g x).ptBufs = s.ptBufs := rfl
@[simp] theorem part_setBufs (p : Nat) (x : PtBufs) : (s.setBufs p x).part = s.part := rfl
@[simp] theorem tenancy_setBufs (p : Nat) (x : PtBufs) : (s.setBufs p x).tenancy = s.tenancy := rfl
@[simp] theorem queue_setBufs (p : Nat) (x : PtBufs) : (s.setBufs p x).queue = s.queue := rfl
@[simp] theorem ctx_setBufs (p : Nat) (x : PtBufs) : (s.setBufs p x).ctx = s.ctx := rfl
@[simp] theorem fence_setBufs (p : Nat) (x : PtBufs) : (s.setBufs p x).fence = s.fence := rfl
@[simp] theorem session_setBufs (p : Nat) (x : PtBufs) : (s.setBufs p x).session = s.session := rfl
@[simp] theorem port_setBufs (p : Nat) (x : PtBufs) : (s.setBufs p x).port = s.port := rfl
@[simp] theorem clock_setBufs (p : Nat) (x : PtBufs) : (s.setBufs p x).clock = s.clock := rfl
@[simp] theorem cluster_setBufs (p : Nat) (x : PtBufs) : (s.setBufs p x).cluster = s.cluster := rfl
@[simp] theorem grove_setBufs (p : Nat) (x : PtBufs) : (s.setBufs p x).grove = s.grove := rfl
@[simp] theorem thermal_setBufs (p : Nat) (x : PtBufs) : (s.setBufs p x).thermal = s.thermal := rfl

/-! ### An update is the write of the changed record -/

@[simp] theorem updPart_eq (p : Nat) (f : Part → Part) : s.updPart p f = s.setPart p (f (s.part p)) := rfl
@[simp] theorem updTen_eq (p : Nat) (f : Tenancy → Tenancy) : s.updTen p f = s.setTen p (f (s.tenancy p)) := rfl
@[simp] theorem updQueue_eq (p : Nat) (f : Queue → Queue) : s.updQueue p f = s.setQueue p (f (s.queue p)) := rfl
@[simp] theorem updCtx_eq (p : Nat) (f : Ctx → Ctx) : s.updCtx p f = s.setCtx p (f (s.ctx p)) := rfl
@[simp] theorem updPort_eq (p : Nat) (f : Port → Port) : s.updPort p f = s.setPort p (f (s.port p)) := rfl

end Sys2Proof.Machine.Laws
end

