-- ==== Sys2Proof/Laws/Mem.lean ====
section
/-!
SUPPORT. Memory: a read after a write, and the canonical form kept by every operation that writes memory or changes what
an unlisted address reads as.
-/

namespace Sys2Proof.Machine.Laws

/-! ### The listed bytes -/

theorem listed_minsert (m : List Host.Cell) (a b : Nat) (v : Byte) :
    listed (minsert m a v) b = if b = a then some v else listed m b := by
  induction m with
  | nil => simp [minsert, listed]
  | cons e m ih =>
    obtain ⟨k, u⟩ := e
    unfold minsert
    split
    · simp only [listed]
    · rename_i h1
      split
      · rename_i h2
        subst h2
        by_cases h : b = a <;> simp [listed, h]
      · rename_i h2
        simp only [listed, ih]
        by_cases h : b = k
        · subst h
          simp [Ne.symm h2]
        · simp [h]

theorem listed_merase (m : List Host.Cell) (a b : Nat) :
    listed (merase m a) b = if b = a then none else listed m b := by
  induction m with
  | nil => simp [merase, listed]
  | cons e m ih =>
    obtain ⟨k, u⟩ := e
    unfold merase
    split
    · rename_i h
      subst h
      rw [ih]
      by_cases h : b = a <;> simp [listed, h]
    · rename_i h2
      simp only [listed, ih]
      by_cases h : b = k
      · subst h
        simp [Ne.symm h2]
      · simp [h]

theorem listed_filter (m : List Host.Cell) (p : Nat → Bool) (b : Nat) :
    listed (m.filter fun e => p e.1) b = if p b then listed m b else none := by
  induction m with
  | nil => simp [listed]
  | cons e m ih =>
    obtain ⟨k, u⟩ := e
    rw [List.filter_cons]
    split
    · rename_i h
      simp only [listed, ih]
      by_cases hb : b = k
      · subst hb
        simp [h]
      · simp [hb]
    · rename_i h
      rw [ih]
      by_cases hb : b = k
      · subst hb
        simp [h]
      · simp [listed, hb]

/-! ### One byte, and a run of bytes -/

@[simp] theorem havocOf_writeB (s : State) (a : Nat) (v : Byte) : havocOf (writeB s a v) = havocOf s := rfl

/-- The byte read after a byte is written. -/
theorem readB_writeB (s : State) (a b : Nat) (v : Byte) :
    readB (writeB s a v) b = if b = a then v else readB s b := by
  unfold readB
  rw [show unlisted (writeB s a v) b = unlisted s b from rfl]
  simp only [writeB]
  by_cases hh : havocOf s a = 0
  · simp only [hh, if_true, mput]
    by_cases hv : v = 0
    · simp only [hv, if_true, listed_merase]
      by_cases h : b = a
      · simp [h, unlisted, hh]
      · simp [h]
    · simp only [hv, if_false, listed_minsert]
      by_cases h : b = a <;> simp [h]
  · simp only [hh, if_false, listed_minsert]
    by_cases h : b = a <;> simp [h]

/-- A run of bytes leaves every byte outside it. -/
theorem readB_writeN_of_out (bs : List Byte) (s : State) (a b : Nat) (h : b < a ∨ a + bs.length ≤ b) :
    readB (writeN s a bs) b = readB s b := by
  induction bs generalizing s a with
  | nil => rfl
  | cons v bs ih =>
    simp only [List.length_cons] at h
    rw [writeN, ih _ _ (by omega), readB_writeB, if_neg (by omega)]

/-- A byte within a run that was written. -/
theorem readB_writeN (bs : List Byte) (s : State) (a i : Nat) (h : i < bs.length) :
    readB (writeN s a bs) (a + i) = bs[i] := by
  induction bs generalizing s a i with
  | nil => simp at h
  | cons v bs ih =>
    rw [writeN]
    cases i with
    | zero => rw [readB_writeN_of_out _ _ _ _ (by omega), readB_writeB, if_pos (by omega)]; rfl
    | succ i => rw [show a + (i + 1) = a + 1 + i by omega, ih _ _ _ (by simpa using h)]; rfl

/-- What a write of a run changes is memory alone. -/
theorem writeN_eq (bs : List Byte) (s : State) (a : Nat) : ∃ m, writeN s a bs = { s with mem := m } := by
  induction bs generalizing s a with
  | nil => exact ⟨s.mem, rfl⟩
  | cons v bs ih =>
    obtain ⟨m, h⟩ := ih (writeB s a v) (a + 1)
    exact ⟨m, by rw [writeN, h]; rfl⟩

/-- A cleared range reads as an unlisted one, and the rest as before. -/
theorem readB_clearRange (s : State) (a n b : Nat) :
    readB (clearRange s a n) b = if a ≤ b ∧ b < a + n then unlisted s b else readB s b := by
  unfold readB
  rw [show unlisted (clearRange s a n) b = unlisted s b from rfl]
  simp only [clearRange]
  rw [listed_filter s.mem (fun k => !(decide (a ≤ k) && decide (k < a + n))) b]
  by_cases h : a ≤ b ∧ b < a + n
  · simp [h.1, h.2]
  · by_cases h1 : a ≤ b
    · have h2 : ¬b < a + n := fun h2 => h ⟨h1, h2⟩
      simp [h1, h2]
    · simp [h1]

/-! ### The canonical form -/

theorem wf_iff (s : State) : Memory.wf s = true ↔
    mrising s.mem = true ∧ ∀ e ∈ s.mem, havocOf s e.1 = 0 → e.2 ≠ 0 := by
  simp only [Memory.wf, Bool.and_eq_true, List.all_eq_true, Bool.or_eq_true, decide_eq_true_eq]
  constructor
  · rintro ⟨h, ha⟩
    exact ⟨h, fun e he h0 => (ha e he).resolve_left (fun h => h h0)⟩
  · rintro ⟨h, ha⟩
    refine ⟨h, fun e he => ?_⟩
    by_cases h0 : havocOf s e.1 = 0
    · exact .inr (ha e he h0)
    · exact .inl h0

/-- The form depends on memory and on which arrays are undefined alone. -/
theorem wf_congr {s t : State} (hm : t.mem = s.mem) (hh : t.havoc = s.havoc) : Memory.wf t = Memory.wf s := by
  unfold Memory.wf
  rw [hm, show havocOf t = havocOf s by funext a; simp [havocOf, hh]]

/-- Memory after reset has the form. -/
theorem wf_reset : Memory.wf State.reset = true := rfl

theorem wf_writeB {s : State} (h : Memory.wf s = true) (a : Nat) (v : Byte) : Memory.wf (writeB s a v) = true := by
  obtain ⟨hr, hz⟩ := (wf_iff s).mp h
  refine (wf_iff _).mpr ⟨?_, ?_⟩
  · simp only [writeB]
    split
    · unfold mput
      split
      · exact mrising_merase hr a
      · exact mrising_minsert hr a v
    · exact mrising_minsert hr a v
  · simp only [havocOf_writeB]
    intro e he h0
    simp only [writeB] at he
    split at he
    · unfold mput at he
      split at he
      · exact hz e (mem_merase he) h0
      · rename_i hv
        rcases mem_minsert he with rfl | he
        · exact hv
        · exact hz e he h0
    · rename_i hh
      rcases mem_minsert he with rfl | he
      · exact absurd h0 hh
      · exact hz e he h0

theorem wf_writeN (bs : List Byte) {s : State} (h : Memory.wf s = true) (a : Nat) : Memory.wf (writeN s a bs) = true := by
  induction bs generalizing s a with
  | nil => exact h
  | cons v bs ih => exact ih (wf_writeB h a v) _

theorem wf_clearRange {s : State} (h : Memory.wf s = true) (a n : Nat) : Memory.wf (clearRange s a n) = true := by
  obtain ⟨hr, hz⟩ := (wf_iff s).mp h
  exact (wf_iff _).mpr ⟨mrising_filter hr _, fun e he h0 => hz e (List.mem_filter.mp he).1 h0⟩

theorem wf_setPoison {s : State} (h : Memory.wf s = true) (k a : Nat) (b : Bool) :
    Memory.wf (s.setPoison k a b) = true := (wf_congr rfl rfl).trans h

theorem wf_hbmWrite {s : State} (h : Memory.wf s = true) (k a : Nat) (bs : List Byte) :
    Memory.wf (hbmWrite s k a bs) = true := by
  unfold hbmWrite
  split
  · split
    · exact h
    · exact wf_setPoison (wf_writeN _ h _) _ _ _
  · exact h

/-- Free bytes keep the form. -/
theorem wf_freeBytes {s : State} (h : Memory.wf s = true) (a n : Nat) : Memory.wf (s.freeBytes a n) = true :=
  wf_writeN _ (s := { s with freeCtr := s.freeCtr + 1 }) ((wf_congr rfl rfl).trans h) a

theorem wf_writeNear {s : State} (h : Memory.wf s = true) (p a : Nat) (bs : List Byte) :
    Memory.wf (writeNear s p a bs) = true := by
  unfold writeNear
  split
  · exact wf_hbmWrite h _ _ _
  · exact wf_writeN _ h _
  · exact h
  · exact h

/-- No byte of a cluster is listed once both its ranges are cleared. -/
theorem cleared_clusterOf {s : State} {c : Nat} {e : Host.Cell}
    (he : e ∈ (clearRange (clearRange s (spadBase c) (2 ^ 22)) (accBase c) (2 ^ 20)).mem) : clusterOf e.1 ≠ some c := by
  simp only [clearRange, List.mem_filter, Bool.not_eq_true', Bool.and_eq_false_iff, decide_eq_false_iff_not] at he
  obtain ⟨⟨-, h1⟩, h2⟩ := he
  simp only [spadBase, accBase] at h1 h2
  unfold clusterOf
  split
  · rw [ne_eq, Option.some.injEq]
    omega
  · split
    · rw [ne_eq, Option.some.injEq]
      omega
    · simp

theorem wf_zeroCluster {s : State} (h : Memory.wf s = true) (c : Nat) : Memory.wf (zeroCluster s c) = true := by
  obtain ⟨hr, hz⟩ := (wf_iff _).mp (wf_clearRange (wf_clearRange h (spadBase c) (2 ^ 22)) (accBase c) (2 ^ 20))
  refine (wf_iff _).mpr ⟨hr, fun e he h0 => hz e he ?_⟩
  have hc := cleared_clusterOf he
  simp only [havocOf, zeroCluster] at h0 ⊢
  split at h0
  · rename_i c' hc'
    rw [mget_merase, if_neg (fun hh => hc (by rw [hc', hh]))] at h0
    exact h0
  · rfl

theorem wf_undefineCluster {s : State} (h : Memory.wf s = true) (c : Nat) : Memory.wf (undefineCluster s c) = true := by
  obtain ⟨hr, hz⟩ := (wf_iff _).mp (wf_clearRange (wf_clearRange h (spadBase c) (2 ^ 22)) (accBase c) (2 ^ 20))
  refine (wf_iff _).mpr ⟨hr, fun e he h0 => hz e he ?_⟩
  have hc := cleared_clusterOf he
  simp only [havocOf, undefineCluster] at h0 ⊢
  split at h0
  · rename_i c' hc'
    rw [mget_minsert, if_neg (fun hh => hc (by rw [hc', hh]))] at h0
    exact h0
  · rfl

theorem wf_zeroCrown {s : State} (h : Memory.wf s = true) (g : Nat) : Memory.wf (zeroCrown s g) = true :=
  wf_clearRange h _ _

theorem wf_clearSram {s : State} (h : Memory.wf s = true) : Memory.wf s.clearSram = true := by
  obtain ⟨hr, hz⟩ := (wf_iff s).mp h
  refine (wf_iff _).mpr ⟨mrising_filter hr _, fun e he _ => ?_⟩
  obtain ⟨he, ha⟩ := List.mem_filter.mp he
  refine hz e he ?_
  have hc : clusterOf e.1 = none := by
    have := of_decide_eq_true ha
    unfold clusterOf
    rw [if_neg (by omega), if_neg (by omega)]
  simp [havocOf, hc]

end Sys2Proof.Machine.Laws
end

