-- ==== Sys2Proof/Laws/Ops.lean ====
section
/-!
SUPPORT. The shared operations: what raising a vector, logging and setting an event, queueing a control record and
detecting a fault leave unchanged, and what they write.
-/

namespace Sys2Proof.Machine.Laws

/-- A fold of updates that each keep a part of the state keeps it. -/
theorem each_keep {α β : Type} (P : State → β) (f : State → α → State) (h : ∀ s a, P (f s a) = P s) (l : List α) (s : State) :
    P (s.each l f) = P s := by
  unfold State.each
  induction l generalizing s with
  | nil => rfl
  | cons a l ih => exact (ih (f s a)).trans (h s a)

variable (s : State)

/-! ### raiseVec -/

@[simp] theorem raiseVec_pending (v : Nat) : (s.raiseVec v).pending = s.pending := by
  unfold State.raiseVec
  split <;> rfl
@[simp] theorem raiseVec_outbox (v : Nat) : (s.raiseVec v).outbox = s.outbox := by
  unfold State.raiseVec
  split <;> rfl
@[simp] theorem raiseVec_freeCtr (v : Nat) : (s.raiseVec v).freeCtr = s.freeCtr := by
  unfold State.raiseVec
  split <;> rfl
@[simp] theorem raiseVec_trngCtr (v : Nat) : (s.raiseVec v).trngCtr = s.trngCtr := by
  unfold State.raiseVec
  split <;> rfl
@[simp] theorem raiseVec_variant (v : Nat) : (s.raiseVec v).variant = s.variant := by
  unfold State.raiseVec
  split <;> rfl
@[simp] theorem raiseVec_idleGrove (v : Nat) : (s.raiseVec v).idleGrove = s.idleGrove := by
  unfold State.raiseVec
  split <;> rfl
@[simp] theorem raiseVec_idleModule (v : Nat) : (s.raiseVec v).idleModule = s.idleModule := by
  unfold State.raiseVec
  split <;> rfl
@[simp] theorem raiseVec_shortId (v : Nat) : (s.raiseVec v).shortId = s.shortId := by
  unfold State.raiseVec
  split <;> rfl
@[simp] theorem raiseVec_ikPub (v : Nat) : (s.raiseVec v).ikPub = s.ikPub := by
  unfold State.raiseVec
  split <;> rfl
@[simp] theorem raiseVec_pwr (v : Nat) : (s.raiseVec v).pwr = s.pwr := by
  unfold State.raiseVec
  split <;> rfl
@[simp] theorem raiseVec_cmb (v : Nat) : (s.raiseVec v).cmb = s.cmb := by
  unfold State.raiseVec
  split <;> rfl
@[simp] theorem raiseVec_sap (v : Nat) : (s.raiseVec v).sap = s.sap := by
  unfold State.raiseVec
  split <;> rfl
@[simp] theorem raiseVec_cfg (v : Nat) : (s.raiseVec v).cfg = s.cfg := by
  unfold State.raiseVec
  split <;> rfl
@[simp] theorem raiseVec_evt (v : Nat) : (s.raiseVec v).evt = s.evt := by
  unfold State.raiseVec
  split <;> rfl
@[simp] theorem raiseVec_sessions (v : Nat) : (s.raiseVec v).sessions = s.sessions := by
  unfold State.raiseVec
  split <;> rfl
@[simp] theorem raiseVec_hw (v : Nat) : (s.raiseVec v).hw = s.hw := by
  unfold State.raiseVec
  split <;> rfl
@[simp] theorem raiseVec_ten (v : Nat) : (s.raiseVec v).ten = s.ten := by
  unfold State.raiseVec
  split <;> rfl
@[simp] theorem raiseVec_parts (v : Nat) : (s.raiseVec v).parts = s.parts := by
  unfold State.raiseVec
  split <;> rfl
@[simp] theorem raiseVec_flt (v : Nat) : (s.raiseVec v).flt = s.flt := by
  unfold State.raiseVec
  split <;> rfl
@[simp] theorem raiseVec_cnp (v : Nat) : (s.raiseVec v).cnp = s.cnp := by
  unfold State.raiseVec
  split <;> rfl
@[simp] theorem raiseVec_mem (v : Nat) : (s.raiseVec v).mem = s.mem := by
  unfold State.raiseVec
  split <;> rfl
@[simp] theorem raiseVec_havoc (v : Nat) : (s.raiseVec v).havoc = s.havoc := by
  unfold State.raiseVec
  split <;> rfl
@[simp] theorem raiseVec_clusters (v : Nat) : (s.raiseVec v).clusters = s.clusters := by
  unfold State.raiseVec
  split <;> rfl
@[simp] theorem raiseVec_mb (v : Nat) : (s.raiseVec v).mb = s.mb := by
  unfold State.raiseVec
  split <;> rfl
@[simp] theorem raiseVec_bgh (v : Nat) : (s.raiseVec v).bgh = s.bgh := by
  unfold State.raiseVec
  split <;> rfl
@[simp] theorem raiseVec_bufs (v : Nat) : (s.raiseVec v).bufs = s.bufs := by
  unfold State.raiseVec
  split <;> rfl
@[simp] theorem raiseVec_gve (v : Nat) : (s.raiseVec v).gve = s.gve := by
  unfold State.raiseVec
  split <;> rfl
@[simp] theorem raiseVec_red (v : Nat) : (s.raiseVec v).red = s.red := by
  unfold State.raiseVec
  split <;> rfl
@[simp] theorem raiseVec_redSel (v : Nat) : (s.raiseVec v).redSel = s.redSel := by
  unfold State.raiseVec
  split <;> rfl
@[simp] theorem raiseVec_num (v : Nat) : (s.raiseVec v).num = s.num := by
  unfold State.raiseVec
  split <;> rfl

/-! ### loseEntry -/

@[simp] theorem loseEntry_pending  : (s.loseEntry ).pending = s.pending := by
  simp only [State.loseEntry]
  split
  · rfl
  · simp
@[simp] theorem loseEntry_outbox  : (s.loseEntry ).outbox = s.outbox := by
  simp only [State.loseEntry]
  split
  · rfl
  · simp
@[simp] theorem loseEntry_freeCtr  : (s.loseEntry ).freeCtr = s.freeCtr := by
  simp only [State.loseEntry]
  split
  · rfl
  · simp
@[simp] theorem loseEntry_trngCtr  : (s.loseEntry ).trngCtr = s.trngCtr := by
  simp only [State.loseEntry]
  split
  · rfl
  · simp
@[simp] theorem loseEntry_variant  : (s.loseEntry ).variant = s.variant := by
  simp only [State.loseEntry]
  split
  · rfl
  · simp
@[simp] theorem loseEntry_idleGrove  : (s.loseEntry ).idleGrove = s.idleGrove := by
  simp only [State.loseEntry]
  split
  · rfl
  · simp
@[simp] theorem loseEntry_idleModule  : (s.loseEntry ).idleModule = s.idleModule := by
  simp only [State.loseEntry]
  split
  · rfl
  · simp
@[simp] theorem loseEntry_shortId  : (s.loseEntry ).shortId = s.shortId := by
  simp only [State.loseEntry]
  split
  · rfl
  · simp
@[simp] theorem loseEntry_ikPub  : (s.loseEntry ).ikPub = s.ikPub := by
  simp only [State.loseEntry]
  split
  · rfl
  · simp
@[simp] theorem loseEntry_pwr  : (s.loseEntry ).pwr = s.pwr := by
  simp only [State.loseEntry]
  split
  · rfl
  · simp
@[simp] theorem loseEntry_cmb  : (s.loseEntry ).cmb = s.cmb := by
  simp only [State.loseEntry]
  split
  · rfl
  · simp
@[simp] theorem loseEntry_sap  : (s.loseEntry ).sap = s.sap := by
  simp only [State.loseEntry]
  split
  · rfl
  · simp
@[simp] theorem loseEntry_cfg  : (s.loseEntry ).cfg = s.cfg := by
  simp only [State.loseEntry]
  split
  · rfl
  · simp
@[simp] theorem loseEntry_sessions  : (s.loseEntry ).sessions = s.sessions := by
  simp only [State.loseEntry]
  split
  · rfl
  · simp
@[simp] theorem loseEntry_hw  : (s.loseEntry ).hw = s.hw := by
  simp only [State.loseEntry]
  split
  · rfl
  · simp
@[simp] theorem loseEntry_ten  : (s.loseEntry ).ten = s.ten := by
  simp only [State.loseEntry]
  split
  · rfl
  · simp
@[simp] theorem loseEntry_parts  : (s.loseEntry ).parts = s.parts := by
  simp only [State.loseEntry]
  split
  · rfl
  · simp
@[simp] theorem loseEntry_flt  : (s.loseEntry ).flt = s.flt := by
  simp only [State.loseEntry]
  split
  · rfl
  · simp
@[simp] theorem loseEntry_mem  : (s.loseEntry ).mem = s.mem := by
  simp only [State.loseEntry]
  split
  · rfl
  · simp
@[simp] theorem loseEntry_havoc  : (s.loseEntry ).havoc = s.havoc := by
  simp only [State.loseEntry]
  split
  · rfl
  · simp
@[simp] theorem loseEntry_clusters  : (s.loseEntry ).clusters = s.clusters := by
  simp only [State.loseEntry]
  split
  · rfl
  · simp
@[simp] theorem loseEntry_mb  : (s.loseEntry ).mb = s.mb := by
  simp only [State.loseEntry]
  split
  · rfl
  · simp
@[simp] theorem loseEntry_bgh  : (s.loseEntry ).bgh = s.bgh := by
  simp only [State.loseEntry]
  split
  · rfl
  · simp
@[simp] theorem loseEntry_bufs  : (s.loseEntry ).bufs = s.bufs := by
  simp only [State.loseEntry]
  split
  · rfl
  · simp
@[simp] theorem loseEntry_gve  : (s.loseEntry ).gve = s.gve := by
  simp only [State.loseEntry]
  split
  · rfl
  · simp
@[simp] theorem loseEntry_red  : (s.loseEntry ).red = s.red := by
  simp only [State.loseEntry]
  split
  · rfl
  · simp
@[simp] theorem loseEntry_redSel  : (s.loseEntry ).redSel = s.redSel := by
  simp only [State.loseEntry]
  split
  · rfl
  · simp
@[simp] theorem loseEntry_num  : (s.loseEntry ).num = s.num := by
  simp only [State.loseEntry]
  split
  · rfl
  · simp

/-! ### logEvent -/

@[simp] theorem logEvent_pending (e : EvtSrc) (v : Half) (p : Nat) (d : List Byte) : (s.logEvent e v p d).pending = s.pending := by
  unfold State.logEvent
  split
  · rfl
  · simp
@[simp] theorem logEvent_outbox (e : EvtSrc) (v : Half) (p : Nat) (d : List Byte) : (s.logEvent e v p d).outbox = s.outbox := by
  unfold State.logEvent
  split
  · rfl
  · simp
@[simp] theorem logEvent_freeCtr (e : EvtSrc) (v : Half) (p : Nat) (d : List Byte) : (s.logEvent e v p d).freeCtr = s.freeCtr := by
  unfold State.logEvent
  split
  · rfl
  · simp
@[simp] theorem logEvent_trngCtr (e : EvtSrc) (v : Half) (p : Nat) (d : List Byte) : (s.logEvent e v p d).trngCtr = s.trngCtr := by
  unfold State.logEvent
  split
  · rfl
  · simp
@[simp] theorem logEvent_variant (e : EvtSrc) (v : Half) (p : Nat) (d : List Byte) : (s.logEvent e v p d).variant = s.variant := by
  unfold State.logEvent
  split
  · rfl
  · simp
@[simp] theorem logEvent_idleGrove (e : EvtSrc) (v : Half) (p : Nat) (d : List Byte) : (s.logEvent e v p d).idleGrove = s.idleGrove := by
  unfold State.logEvent
  split
  · rfl
  · simp
@[simp] theorem logEvent_idleModule (e : EvtSrc) (v : Half) (p : Nat) (d : List Byte) : (s.logEvent e v p d).idleModule = s.idleModule := by
  unfold State.logEvent
  split
  · rfl
  · simp
@[simp] theorem logEvent_shortId (e : EvtSrc) (v : Half) (p : Nat) (d : List Byte) : (s.logEvent e v p d).shortId = s.shortId := by
  unfold State.logEvent
  split
  · rfl
  · simp
@[simp] theorem logEvent_ikPub (e : EvtSrc) (v : Half) (p : Nat) (d : List Byte) : (s.logEvent e v p d).ikPub = s.ikPub := by
  unfold State.logEvent
  split
  · rfl
  · simp
@[simp] theorem logEvent_pwr (e : EvtSrc) (v : Half) (p : Nat) (d : List Byte) : (s.logEvent e v p d).pwr = s.pwr := by
  unfold State.logEvent
  split
  · rfl
  · simp
@[simp] theorem logEvent_cmb (e : EvtSrc) (v : Half) (p : Nat) (d : List Byte) : (s.logEvent e v p d).cmb = s.cmb := by
  unfold State.logEvent
  split
  · rfl
  · simp
@[simp] theorem logEvent_sap (e : EvtSrc) (v : Half) (p : Nat) (d : List Byte) : (s.logEvent e v p d).sap = s.sap := by
  unfold State.logEvent
  split
  · rfl
  · simp
@[simp] theorem logEvent_cfg (e : EvtSrc) (v : Half) (p : Nat) (d : List Byte) : (s.logEvent e v p d).cfg = s.cfg := by
  unfold State.logEvent
  split
  · rfl
  · simp
@[simp] theorem logEvent_sessions (e : EvtSrc) (v : Half) (p : Nat) (d : List Byte) : (s.logEvent e v p d).sessions = s.sessions := by
  unfold State.logEvent
  split
  · rfl
  · simp
@[simp] theorem logEvent_hw (e : EvtSrc) (v : Half) (p : Nat) (d : List Byte) : (s.logEvent e v p d).hw = s.hw := by
  unfold State.logEvent
  split
  · rfl
  · simp
@[simp] theorem logEvent_ten (e : EvtSrc) (v : Half) (p : Nat) (d : List Byte) : (s.logEvent e v p d).ten = s.ten := by
  unfold State.logEvent
  split
  · rfl
  · simp
@[simp] theorem logEvent_parts (e : EvtSrc) (v : Half) (p : Nat) (d : List Byte) : (s.logEvent e v p d).parts = s.parts := by
  unfold State.logEvent
  split
  · rfl
  · simp
@[simp] theorem logEvent_flt (e : EvtSrc) (v : Half) (p : Nat) (d : List Byte) : (s.logEvent e v p d).flt = s.flt := by
  unfold State.logEvent
  split
  · rfl
  · simp
@[simp] theorem logEvent_mem (e : EvtSrc) (v : Half) (p : Nat) (d : List Byte) : (s.logEvent e v p d).mem = s.mem := by
  unfold State.logEvent
  split
  · rfl
  · simp
@[simp] theorem logEvent_havoc (e : EvtSrc) (v : Half) (p : Nat) (d : List Byte) : (s.logEvent e v p d).havoc = s.havoc := by
  unfold State.logEvent
  split
  · rfl
  · simp
@[simp] theorem logEvent_clusters (e : EvtSrc) (v : Half) (p : Nat) (d : List Byte) : (s.logEvent e v p d).clusters = s.clusters := by
  unfold State.logEvent
  split
  · rfl
  · simp
@[simp] theorem logEvent_mb (e : EvtSrc) (v : Half) (p : Nat) (d : List Byte) : (s.logEvent e v p d).mb = s.mb := by
  unfold State.logEvent
  split
  · rfl
  · simp
@[simp] theorem logEvent_bgh (e : EvtSrc) (v : Half) (p : Nat) (d : List Byte) : (s.logEvent e v p d).bgh = s.bgh := by
  unfold State.logEvent
  split
  · rfl
  · simp
@[simp] theorem logEvent_bufs (e : EvtSrc) (v : Half) (p : Nat) (d : List Byte) : (s.logEvent e v p d).bufs = s.bufs := by
  unfold State.logEvent
  split
  · rfl
  · simp
@[simp] theorem logEvent_gve (e : EvtSrc) (v : Half) (p : Nat) (d : List Byte) : (s.logEvent e v p d).gve = s.gve := by
  unfold State.logEvent
  split
  · rfl
  · simp
@[simp] theorem logEvent_red (e : EvtSrc) (v : Half) (p : Nat) (d : List Byte) : (s.logEvent e v p d).red = s.red := by
  unfold State.logEvent
  split
  · rfl
  · simp
@[simp] theorem logEvent_redSel (e : EvtSrc) (v : Half) (p : Nat) (d : List Byte) : (s.logEvent e v p d).redSel = s.redSel := by
  unfold State.logEvent
  split
  · rfl
  · simp
@[simp] theorem logEvent_num (e : EvtSrc) (v : Half) (p : Nat) (d : List Byte) : (s.logEvent e v p d).num = s.num := by
  unfold State.logEvent
  split
  · rfl
  · simp

/-! ### event -/

@[simp] theorem event_pending (e : EvtSrc) (b p : Nat) (d : List Byte) : (s.event e b p d).pending = s.pending := by
  unfold State.event
  split
  · rfl
  · simp
@[simp] theorem event_outbox (e : EvtSrc) (b p : Nat) (d : List Byte) : (s.event e b p d).outbox = s.outbox := by
  unfold State.event
  split
  · rfl
  · simp
@[simp] theorem event_freeCtr (e : EvtSrc) (b p : Nat) (d : List Byte) : (s.event e b p d).freeCtr = s.freeCtr := by
  unfold State.event
  split
  · rfl
  · simp
@[simp] theorem event_trngCtr (e : EvtSrc) (b p : Nat) (d : List Byte) : (s.event e b p d).trngCtr = s.trngCtr := by
  unfold State.event
  split
  · rfl
  · simp
@[simp] theorem event_variant (e : EvtSrc) (b p : Nat) (d : List Byte) : (s.event e b p d).variant = s.variant := by
  unfold State.event
  split
  · rfl
  · simp
@[simp] theorem event_idleGrove (e : EvtSrc) (b p : Nat) (d : List Byte) : (s.event e b p d).idleGrove = s.idleGrove := by
  unfold State.event
  split
  · rfl
  · simp
@[simp] theorem event_idleModule (e : EvtSrc) (b p : Nat) (d : List Byte) : (s.event e b p d).idleModule = s.idleModule := by
  unfold State.event
  split
  · rfl
  · simp
@[simp] theorem event_shortId (e : EvtSrc) (b p : Nat) (d : List Byte) : (s.event e b p d).shortId = s.shortId := by
  unfold State.event
  split
  · rfl
  · simp
@[simp] theorem event_ikPub (e : EvtSrc) (b p : Nat) (d : List Byte) : (s.event e b p d).ikPub = s.ikPub := by
  unfold State.event
  split
  · rfl
  · simp
@[simp] theorem event_pwr (e : EvtSrc) (b p : Nat) (d : List Byte) : (s.event e b p d).pwr = s.pwr := by
  unfold State.event
  split
  · rfl
  · simp
@[simp] theorem event_cmb (e : EvtSrc) (b p : Nat) (d : List Byte) : (s.event e b p d).cmb = s.cmb := by
  unfold State.event
  split
  · rfl
  · simp
@[simp] theorem event_sap (e : EvtSrc) (b p : Nat) (d : List Byte) : (s.event e b p d).sap = s.sap := by
  unfold State.event
  split
  · rfl
  · simp
@[simp] theorem event_cfg (e : EvtSrc) (b p : Nat) (d : List Byte) : (s.event e b p d).cfg = s.cfg := by
  unfold State.event
  split
  · rfl
  · simp
@[simp] theorem event_sessions (e : EvtSrc) (b p : Nat) (d : List Byte) : (s.event e b p d).sessions = s.sessions := by
  unfold State.event
  split
  · rfl
  · simp
@[simp] theorem event_hw (e : EvtSrc) (b p : Nat) (d : List Byte) : (s.event e b p d).hw = s.hw := by
  unfold State.event
  split
  · rfl
  · simp
@[simp] theorem event_ten (e : EvtSrc) (b p : Nat) (d : List Byte) : (s.event e b p d).ten = s.ten := by
  unfold State.event
  split
  · rfl
  · simp
@[simp] theorem event_parts (e : EvtSrc) (b p : Nat) (d : List Byte) : (s.event e b p d).parts = s.parts := by
  unfold State.event
  split
  · rfl
  · simp
@[simp] theorem event_flt (e : EvtSrc) (b p : Nat) (d : List Byte) : (s.event e b p d).flt = s.flt := by
  unfold State.event
  split
  · rfl
  · simp
@[simp] theorem event_mem (e : EvtSrc) (b p : Nat) (d : List Byte) : (s.event e b p d).mem = s.mem := by
  unfold State.event
  split
  · rfl
  · simp
@[simp] theorem event_havoc (e : EvtSrc) (b p : Nat) (d : List Byte) : (s.event e b p d).havoc = s.havoc := by
  unfold State.event
  split
  · rfl
  · simp
@[simp] theorem event_clusters (e : EvtSrc) (b p : Nat) (d : List Byte) : (s.event e b p d).clusters = s.clusters := by
  unfold State.event
  split
  · rfl
  · simp
@[simp] theorem event_mb (e : EvtSrc) (b p : Nat) (d : List Byte) : (s.event e b p d).mb = s.mb := by
  unfold State.event
  split
  · rfl
  · simp
@[simp] theorem event_bgh (e : EvtSrc) (b p : Nat) (d : List Byte) : (s.event e b p d).bgh = s.bgh := by
  unfold State.event
  split
  · rfl
  · simp
@[simp] theorem event_bufs (e : EvtSrc) (b p : Nat) (d : List Byte) : (s.event e b p d).bufs = s.bufs := by
  unfold State.event
  split
  · rfl
  · simp
@[simp] theorem event_gve (e : EvtSrc) (b p : Nat) (d : List Byte) : (s.event e b p d).gve = s.gve := by
  unfold State.event
  split
  · rfl
  · simp
@[simp] theorem event_red (e : EvtSrc) (b p : Nat) (d : List Byte) : (s.event e b p d).red = s.red := by
  unfold State.event
  split
  · rfl
  · simp
@[simp] theorem event_redSel (e : EvtSrc) (b p : Nat) (d : List Byte) : (s.event e b p d).redSel = s.redSel := by
  unfold State.event
  split
  · rfl
  · simp
@[simp] theorem event_num (e : EvtSrc) (b p : Nat) (d : List Byte) : (s.event e b p d).num = s.num := by
  unfold State.event
  split
  · rfl
  · simp

/-! ### queueRec -/

@[simp] theorem queueRec_pending (n : Nat) (r : List Byte) : (s.queueRec n r).pending = s.pending := by
  rfl
@[simp] theorem queueRec_outbox (n : Nat) (r : List Byte) : (s.queueRec n r).outbox = s.outbox := by
  rfl
@[simp] theorem queueRec_freeCtr (n : Nat) (r : List Byte) : (s.queueRec n r).freeCtr = s.freeCtr := by
  rfl
@[simp] theorem queueRec_trngCtr (n : Nat) (r : List Byte) : (s.queueRec n r).trngCtr = s.trngCtr := by
  rfl
@[simp] theorem queueRec_variant (n : Nat) (r : List Byte) : (s.queueRec n r).variant = s.variant := by
  rfl
@[simp] theorem queueRec_idleGrove (n : Nat) (r : List Byte) : (s.queueRec n r).idleGrove = s.idleGrove := by
  rfl
@[simp] theorem queueRec_idleModule (n : Nat) (r : List Byte) : (s.queueRec n r).idleModule = s.idleModule := by
  rfl
@[simp] theorem queueRec_shortId (n : Nat) (r : List Byte) : (s.queueRec n r).shortId = s.shortId := by
  rfl
@[simp] theorem queueRec_ikPub (n : Nat) (r : List Byte) : (s.queueRec n r).ikPub = s.ikPub := by
  rfl
@[simp] theorem queueRec_pwr (n : Nat) (r : List Byte) : (s.queueRec n r).pwr = s.pwr := by
  rfl
@[simp] theorem queueRec_cmb (n : Nat) (r : List Byte) : (s.queueRec n r).cmb = s.cmb := by
  rfl
@[simp] theorem queueRec_sap (n : Nat) (r : List Byte) : (s.queueRec n r).sap = s.sap := by
  rfl
@[simp] theorem queueRec_cfg (n : Nat) (r : List Byte) : (s.queueRec n r).cfg = s.cfg := by
  rfl
@[simp] theorem queueRec_evt (n : Nat) (r : List Byte) : (s.queueRec n r).evt = s.evt := by
  rfl
@[simp] theorem queueRec_hif (n : Nat) (r : List Byte) : (s.queueRec n r).hif = s.hif := by
  rfl
@[simp] theorem queueRec_sessions (n : Nat) (r : List Byte) : (s.queueRec n r).sessions = s.sessions := by
  rfl
@[simp] theorem queueRec_hw (n : Nat) (r : List Byte) : (s.queueRec n r).hw = s.hw := by
  rfl
@[simp] theorem queueRec_ten (n : Nat) (r : List Byte) : (s.queueRec n r).ten = s.ten := by
  rfl
@[simp] theorem queueRec_parts (n : Nat) (r : List Byte) : (s.queueRec n r).parts = s.parts := by
  rfl
@[simp] theorem queueRec_flt (n : Nat) (r : List Byte) : (s.queueRec n r).flt = s.flt := by
  rfl
@[simp] theorem queueRec_cnp (n : Nat) (r : List Byte) : (s.queueRec n r).cnp = s.cnp := by
  rfl
@[simp] theorem queueRec_mem (n : Nat) (r : List Byte) : (s.queueRec n r).mem = s.mem := by
  rfl
@[simp] theorem queueRec_havoc (n : Nat) (r : List Byte) : (s.queueRec n r).havoc = s.havoc := by
  rfl
@[simp] theorem queueRec_clusters (n : Nat) (r : List Byte) : (s.queueRec n r).clusters = s.clusters := by
  rfl
@[simp] theorem queueRec_mb (n : Nat) (r : List Byte) : (s.queueRec n r).mb = s.mb := by
  rfl
@[simp] theorem queueRec_gates (n : Nat) (r : List Byte) : (s.queueRec n r).gates = s.gates := by
  rfl
@[simp] theorem queueRec_bufs (n : Nat) (r : List Byte) : (s.queueRec n r).bufs = s.bufs := by
  rfl
@[simp] theorem queueRec_gve (n : Nat) (r : List Byte) : (s.queueRec n r).gve = s.gve := by
  rfl
@[simp] theorem queueRec_red (n : Nat) (r : List Byte) : (s.queueRec n r).red = s.red := by
  rfl
@[simp] theorem queueRec_redSel (n : Nat) (r : List Byte) : (s.queueRec n r).redSel = s.redSel := by
  rfl
@[simp] theorem queueRec_num (n : Nat) (r : List Byte) : (s.queueRec n r).num = s.num := by
  rfl

/-! ### queueAll -/

@[simp] theorem queueAll_pending (r : List Byte) : (s.queueAll r).pending = s.pending := by
  exact each_keep (·.pending) (fun s n => s.queueRec n r) (fun _ _ => rfl) _ _
@[simp] theorem queueAll_outbox (r : List Byte) : (s.queueAll r).outbox = s.outbox := by
  exact each_keep (·.outbox) (fun s n => s.queueRec n r) (fun _ _ => rfl) _ _
@[simp] theorem queueAll_freeCtr (r : List Byte) : (s.queueAll r).freeCtr = s.freeCtr := by
  exact each_keep (·.freeCtr) (fun s n => s.queueRec n r) (fun _ _ => rfl) _ _
@[simp] theorem queueAll_trngCtr (r : List Byte) : (s.queueAll r).trngCtr = s.trngCtr := by
  exact each_keep (·.trngCtr) (fun s n => s.queueRec n r) (fun _ _ => rfl) _ _
@[simp] theorem queueAll_variant (r : List Byte) : (s.queueAll r).variant = s.variant := by
  exact each_keep (·.variant) (fun s n => s.queueRec n r) (fun _ _ => rfl) _ _
@[simp] theorem queueAll_idleGrove (r : List Byte) : (s.queueAll r).idleGrove = s.idleGrove := by
  exact each_keep (·.idleGrove) (fun s n => s.queueRec n r) (fun _ _ => rfl) _ _
@[simp] theorem queueAll_idleModule (r : List Byte) : (s.queueAll r).idleModule = s.idleModule := by
  exact each_keep (·.idleModule) (fun s n => s.queueRec n r) (fun _ _ => rfl) _ _
@[simp] theorem queueAll_shortId (r : List Byte) : (s.queueAll r).shortId = s.shortId := by
  exact each_keep (·.shortId) (fun s n => s.queueRec n r) (fun _ _ => rfl) _ _
@[simp] theorem queueAll_ikPub (r : List Byte) : (s.queueAll r).ikPub = s.ikPub := by
  exact each_keep (·.ikPub) (fun s n => s.queueRec n r) (fun _ _ => rfl) _ _
@[simp] theorem queueAll_pwr (r : List Byte) : (s.queueAll r).pwr = s.pwr := by
  exact each_keep (·.pwr) (fun s n => s.queueRec n r) (fun _ _ => rfl) _ _
@[simp] theorem queueAll_cmb (r : List Byte) : (s.queueAll r).cmb = s.cmb := by
  exact each_keep (·.cmb) (fun s n => s.queueRec n r) (fun _ _ => rfl) _ _
@[simp] theorem queueAll_sap (r : List Byte) : (s.queueAll r).sap = s.sap := by
  exact each_keep (·.sap) (fun s n => s.queueRec n r) (fun _ _ => rfl) _ _
@[simp] theorem queueAll_cfg (r : List Byte) : (s.queueAll r).cfg = s.cfg := by
  exact each_keep (·.cfg) (fun s n => s.queueRec n r) (fun _ _ => rfl) _ _
@[simp] theorem queueAll_evt (r : List Byte) : (s.queueAll r).evt = s.evt := by
  exact each_keep (·.evt) (fun s n => s.queueRec n r) (fun _ _ => rfl) _ _
@[simp] theorem queueAll_hif (r : List Byte) : (s.queueAll r).hif = s.hif := by
  exact each_keep (·.hif) (fun s n => s.queueRec n r) (fun _ _ => rfl) _ _
@[simp] theorem queueAll_sessions (r : List Byte) : (s.queueAll r).sessions = s.sessions := by
  exact each_keep (·.sessions) (fun s n => s.queueRec n r) (fun _ _ => rfl) _ _
@[simp] theorem queueAll_hw (r : List Byte) : (s.queueAll r).hw = s.hw := by
  exact each_keep (·.hw) (fun s n => s.queueRec n r) (fun _ _ => rfl) _ _
@[simp] theorem queueAll_ten (r : List Byte) : (s.queueAll r).ten = s.ten := by
  exact each_keep (·.ten) (fun s n => s.queueRec n r) (fun _ _ => rfl) _ _
@[simp] theorem queueAll_parts (r : List Byte) : (s.queueAll r).parts = s.parts := by
  exact each_keep (·.parts) (fun s n => s.queueRec n r) (fun _ _ => rfl) _ _
@[simp] theorem queueAll_flt (r : List Byte) : (s.queueAll r).flt = s.flt := by
  exact each_keep (·.flt) (fun s n => s.queueRec n r) (fun _ _ => rfl) _ _
@[simp] theorem queueAll_cnp (r : List Byte) : (s.queueAll r).cnp = s.cnp := by
  exact each_keep (·.cnp) (fun s n => s.queueRec n r) (fun _ _ => rfl) _ _
@[simp] theorem queueAll_mem (r : List Byte) : (s.queueAll r).mem = s.mem := by
  exact each_keep (·.mem) (fun s n => s.queueRec n r) (fun _ _ => rfl) _ _
@[simp] theorem queueAll_havoc (r : List Byte) : (s.queueAll r).havoc = s.havoc := by
  exact each_keep (·.havoc) (fun s n => s.queueRec n r) (fun _ _ => rfl) _ _
@[simp] theorem queueAll_clusters (r : List Byte) : (s.queueAll r).clusters = s.clusters := by
  exact each_keep (·.clusters) (fun s n => s.queueRec n r) (fun _ _ => rfl) _ _
@[simp] theorem queueAll_mb (r : List Byte) : (s.queueAll r).mb = s.mb := by
  exact each_keep (·.mb) (fun s n => s.queueRec n r) (fun _ _ => rfl) _ _
@[simp] theorem queueAll_gates (r : List Byte) : (s.queueAll r).gates = s.gates := by
  exact each_keep (·.gates) (fun s n => s.queueRec n r) (fun _ _ => rfl) _ _
@[simp] theorem queueAll_bufs (r : List Byte) : (s.queueAll r).bufs = s.bufs := by
  exact each_keep (·.bufs) (fun s n => s.queueRec n r) (fun _ _ => rfl) _ _
@[simp] theorem queueAll_gve (r : List Byte) : (s.queueAll r).gve = s.gve := by
  exact each_keep (·.gve) (fun s n => s.queueRec n r) (fun _ _ => rfl) _ _
@[simp] theorem queueAll_red (r : List Byte) : (s.queueAll r).red = s.red := by
  exact each_keep (·.red) (fun s n => s.queueRec n r) (fun _ _ => rfl) _ _
@[simp] theorem queueAll_redSel (r : List Byte) : (s.queueAll r).redSel = s.redSel := by
  exact each_keep (·.redSel) (fun s n => s.queueRec n r) (fun _ _ => rfl) _ _
@[simp] theorem queueAll_num (r : List Byte) : (s.queueAll r).num = s.num := by
  exact each_keep (·.num) (fun s n => s.queueRec n r) (fun _ _ => rfl) _ _

/-! ### updRun -/

@[simp] theorem updRun_pending (p : Nat) (f : StepRun → StepRun) : (s.updRun p f).pending = s.pending := by
  unfold State.updRun
  rfl
@[simp] theorem updRun_outbox (p : Nat) (f : StepRun → StepRun) : (s.updRun p f).outbox = s.outbox := by
  unfold State.updRun
  rfl
@[simp] theorem updRun_freeCtr (p : Nat) (f : StepRun → StepRun) : (s.updRun p f).freeCtr = s.freeCtr := by
  unfold State.updRun
  rfl
@[simp] theorem updRun_trngCtr (p : Nat) (f : StepRun → StepRun) : (s.updRun p f).trngCtr = s.trngCtr := by
  unfold State.updRun
  rfl
@[simp] theorem updRun_variant (p : Nat) (f : StepRun → StepRun) : (s.updRun p f).variant = s.variant := by
  unfold State.updRun
  rfl
@[simp] theorem updRun_idleGrove (p : Nat) (f : StepRun → StepRun) : (s.updRun p f).idleGrove = s.idleGrove := by
  unfold State.updRun
  rfl
@[simp] theorem updRun_idleModule (p : Nat) (f : StepRun → StepRun) : (s.updRun p f).idleModule = s.idleModule := by
  unfold State.updRun
  rfl
@[simp] theorem updRun_shortId (p : Nat) (f : StepRun → StepRun) : (s.updRun p f).shortId = s.shortId := by
  unfold State.updRun
  rfl
@[simp] theorem updRun_ikPub (p : Nat) (f : StepRun → StepRun) : (s.updRun p f).ikPub = s.ikPub := by
  unfold State.updRun
  rfl
@[simp] theorem updRun_pwr (p : Nat) (f : StepRun → StepRun) : (s.updRun p f).pwr = s.pwr := by
  unfold State.updRun
  rfl
@[simp] theorem updRun_cmb (p : Nat) (f : StepRun → StepRun) : (s.updRun p f).cmb = s.cmb := by
  unfold State.updRun
  rfl
@[simp] theorem updRun_sap (p : Nat) (f : StepRun → StepRun) : (s.updRun p f).sap = s.sap := by
  unfold State.updRun
  rfl
@[simp] theorem updRun_cfg (p : Nat) (f : StepRun → StepRun) : (s.updRun p f).cfg = s.cfg := by
  unfold State.updRun
  rfl
@[simp] theorem updRun_evt (p : Nat) (f : StepRun → StepRun) : (s.updRun p f).evt = s.evt := by
  unfold State.updRun
  rfl
@[simp] theorem updRun_hif (p : Nat) (f : StepRun → StepRun) : (s.updRun p f).hif = s.hif := by
  unfold State.updRun
  rfl
@[simp] theorem updRun_sessions (p : Nat) (f : StepRun → StepRun) : (s.updRun p f).sessions = s.sessions := by
  unfold State.updRun
  rfl
@[simp] theorem updRun_hw (p : Nat) (f : StepRun → StepRun) : (s.updRun p f).hw = s.hw := by
  unfold State.updRun
  rfl
@[simp] theorem updRun_ten (p : Nat) (f : StepRun → StepRun) : (s.updRun p f).ten = s.ten := by
  unfold State.updRun
  rfl
@[simp] theorem updRun_flt (p : Nat) (f : StepRun → StepRun) : (s.updRun p f).flt = s.flt := by
  unfold State.updRun
  rfl
@[simp] theorem updRun_cnp (p : Nat) (f : StepRun → StepRun) : (s.updRun p f).cnp = s.cnp := by
  unfold State.updRun
  rfl
@[simp] theorem updRun_mem (p : Nat) (f : StepRun → StepRun) : (s.updRun p f).mem = s.mem := by
  unfold State.updRun
  rfl
@[simp] theorem updRun_havoc (p : Nat) (f : StepRun → StepRun) : (s.updRun p f).havoc = s.havoc := by
  unfold State.updRun
  rfl
@[simp] theorem updRun_clusters (p : Nat) (f : StepRun → StepRun) : (s.updRun p f).clusters = s.clusters := by
  unfold State.updRun
  rfl
@[simp] theorem updRun_mb (p : Nat) (f : StepRun → StepRun) : (s.updRun p f).mb = s.mb := by
  unfold State.updRun
  rfl
@[simp] theorem updRun_gates (p : Nat) (f : StepRun → StepRun) : (s.updRun p f).gates = s.gates := by
  unfold State.updRun
  rfl
@[simp] theorem updRun_bgh (p : Nat) (f : StepRun → StepRun) : (s.updRun p f).bgh = s.bgh := by
  unfold State.updRun
  rfl
@[simp] theorem updRun_bufs (p : Nat) (f : StepRun → StepRun) : (s.updRun p f).bufs = s.bufs := by
  unfold State.updRun
  rfl
@[simp] theorem updRun_gve (p : Nat) (f : StepRun → StepRun) : (s.updRun p f).gve = s.gve := by
  unfold State.updRun
  rfl
@[simp] theorem updRun_red (p : Nat) (f : StepRun → StepRun) : (s.updRun p f).red = s.red := by
  unfold State.updRun
  rfl
@[simp] theorem updRun_redSel (p : Nat) (f : StepRun → StepRun) : (s.updRun p f).redSel = s.redSel := by
  unfold State.updRun
  rfl
@[simp] theorem updRun_num (p : Nat) (f : StepRun → StepRun) : (s.updRun p f).num = s.num := by
  unfold State.updRun
  rfl

/-! ### setDue -/

@[simp] theorem setDue_pending (p : Nat) (x : Expiry) : (s.setDue p x).pending = s.pending := by
  rfl
@[simp] theorem setDue_outbox (p : Nat) (x : Expiry) : (s.setDue p x).outbox = s.outbox := by
  rfl
@[simp] theorem setDue_freeCtr (p : Nat) (x : Expiry) : (s.setDue p x).freeCtr = s.freeCtr := by
  rfl
@[simp] theorem setDue_trngCtr (p : Nat) (x : Expiry) : (s.setDue p x).trngCtr = s.trngCtr := by
  rfl
@[simp] theorem setDue_variant (p : Nat) (x : Expiry) : (s.setDue p x).variant = s.variant := by
  rfl
@[simp] theorem setDue_idleGrove (p : Nat) (x : Expiry) : (s.setDue p x).idleGrove = s.idleGrove := by
  rfl
@[simp] theorem setDue_idleModule (p : Nat) (x : Expiry) : (s.setDue p x).idleModule = s.idleModule := by
  rfl
@[simp] theorem setDue_shortId (p : Nat) (x : Expiry) : (s.setDue p x).shortId = s.shortId := by
  rfl
@[simp] theorem setDue_ikPub (p : Nat) (x : Expiry) : (s.setDue p x).ikPub = s.ikPub := by
  rfl
@[simp] theorem setDue_pwr (p : Nat) (x : Expiry) : (s.setDue p x).pwr = s.pwr := by
  rfl
@[simp] theorem setDue_cmb (p : Nat) (x : Expiry) : (s.setDue p x).cmb = s.cmb := by
  rfl
@[simp] theorem setDue_sap (p : Nat) (x : Expiry) : (s.setDue p x).sap = s.sap := by
  rfl
@[simp] theorem setDue_cfg (p : Nat) (x : Expiry) : (s.setDue p x).cfg = s.cfg := by
  rfl
@[simp] theorem setDue_evt (p : Nat) (x : Expiry) : (s.setDue p x).evt = s.evt := by
  rfl
@[simp] theorem setDue_hif (p : Nat) (x : Expiry) : (s.setDue p x).hif = s.hif := by
  rfl
@[simp] theorem setDue_sessions (p : Nat) (x : Expiry) : (s.setDue p x).sessions = s.sessions := by
  rfl
@[simp] theorem setDue_hw (p : Nat) (x : Expiry) : (s.setDue p x).hw = s.hw := by
  rfl
@[simp] theorem setDue_ten (p : Nat) (x : Expiry) : (s.setDue p x).ten = s.ten := by
  rfl
@[simp] theorem setDue_flt (p : Nat) (x : Expiry) : (s.setDue p x).flt = s.flt := by
  rfl
@[simp] theorem setDue_cnp (p : Nat) (x : Expiry) : (s.setDue p x).cnp = s.cnp := by
  rfl
@[simp] theorem setDue_mem (p : Nat) (x : Expiry) : (s.setDue p x).mem = s.mem := by
  rfl
@[simp] theorem setDue_havoc (p : Nat) (x : Expiry) : (s.setDue p x).havoc = s.havoc := by
  rfl
@[simp] theorem setDue_clusters (p : Nat) (x : Expiry) : (s.setDue p x).clusters = s.clusters := by
  rfl
@[simp] theorem setDue_mb (p : Nat) (x : Expiry) : (s.setDue p x).mb = s.mb := by
  rfl
@[simp] theorem setDue_gates (p : Nat) (x : Expiry) : (s.setDue p x).gates = s.gates := by
  rfl
@[simp] theorem setDue_bgh (p : Nat) (x : Expiry) : (s.setDue p x).bgh = s.bgh := by
  rfl
@[simp] theorem setDue_bufs (p : Nat) (x : Expiry) : (s.setDue p x).bufs = s.bufs := by
  rfl
@[simp] theorem setDue_gve (p : Nat) (x : Expiry) : (s.setDue p x).gve = s.gve := by
  rfl
@[simp] theorem setDue_red (p : Nat) (x : Expiry) : (s.setDue p x).red = s.red := by
  rfl
@[simp] theorem setDue_redSel (p : Nat) (x : Expiry) : (s.setDue p x).redSel = s.redSel := by
  rfl
@[simp] theorem setDue_num (p : Nat) (x : Expiry) : (s.setDue p x).num = s.num := by
  rfl

/-! ### detect -/

@[simp] theorem detect_pending (p : Nat) (f : FaultInfo) : (s.detect p f).pending = s.pending := by
  unfold State.detect
  split <;> simp
@[simp] theorem detect_outbox (p : Nat) (f : FaultInfo) : (s.detect p f).outbox = s.outbox := by
  unfold State.detect
  split <;> simp
@[simp] theorem detect_freeCtr (p : Nat) (f : FaultInfo) : (s.detect p f).freeCtr = s.freeCtr := by
  unfold State.detect
  split <;> simp
@[simp] theorem detect_trngCtr (p : Nat) (f : FaultInfo) : (s.detect p f).trngCtr = s.trngCtr := by
  unfold State.detect
  split <;> simp
@[simp] theorem detect_variant (p : Nat) (f : FaultInfo) : (s.detect p f).variant = s.variant := by
  unfold State.detect
  split <;> simp
@[simp] theorem detect_idleGrove (p : Nat) (f : FaultInfo) : (s.detect p f).idleGrove = s.idleGrove := by
  unfold State.detect
  split <;> simp
@[simp] theorem detect_idleModule (p : Nat) (f : FaultInfo) : (s.detect p f).idleModule = s.idleModule := by
  unfold State.detect
  split <;> simp
@[simp] theorem detect_shortId (p : Nat) (f : FaultInfo) : (s.detect p f).shortId = s.shortId := by
  unfold State.detect
  split <;> simp
@[simp] theorem detect_ikPub (p : Nat) (f : FaultInfo) : (s.detect p f).ikPub = s.ikPub := by
  unfold State.detect
  split <;> simp
@[simp] theorem detect_pwr (p : Nat) (f : FaultInfo) : (s.detect p f).pwr = s.pwr := by
  unfold State.detect
  split <;> simp
@[simp] theorem detect_cmb (p : Nat) (f : FaultInfo) : (s.detect p f).cmb = s.cmb := by
  unfold State.detect
  split <;> simp
@[simp] theorem detect_sap (p : Nat) (f : FaultInfo) : (s.detect p f).sap = s.sap := by
  unfold State.detect
  split <;> simp
@[simp] theorem detect_cfg (p : Nat) (f : FaultInfo) : (s.detect p f).cfg = s.cfg := by
  unfold State.detect
  split <;> simp
@[simp] theorem detect_sessions (p : Nat) (f : FaultInfo) : (s.detect p f).sessions = s.sessions := by
  unfold State.detect
  split <;> simp
@[simp] theorem detect_hw (p : Nat) (f : FaultInfo) : (s.detect p f).hw = s.hw := by
  unfold State.detect
  split <;> simp
@[simp] theorem detect_ten (p : Nat) (f : FaultInfo) : (s.detect p f).ten = s.ten := by
  unfold State.detect
  split <;> simp
@[simp] theorem detect_flt (p : Nat) (f : FaultInfo) : (s.detect p f).flt = s.flt := by
  unfold State.detect
  split <;> simp
@[simp] theorem detect_mem (p : Nat) (f : FaultInfo) : (s.detect p f).mem = s.mem := by
  unfold State.detect
  split <;> simp
@[simp] theorem detect_havoc (p : Nat) (f : FaultInfo) : (s.detect p f).havoc = s.havoc := by
  unfold State.detect
  split <;> simp
@[simp] theorem detect_clusters (p : Nat) (f : FaultInfo) : (s.detect p f).clusters = s.clusters := by
  unfold State.detect
  split <;> simp
@[simp] theorem detect_mb (p : Nat) (f : FaultInfo) : (s.detect p f).mb = s.mb := by
  unfold State.detect
  split <;> simp
@[simp] theorem detect_bufs (p : Nat) (f : FaultInfo) : (s.detect p f).bufs = s.bufs := by
  unfold State.detect
  split <;> simp
@[simp] theorem detect_gve (p : Nat) (f : FaultInfo) : (s.detect p f).gve = s.gve := by
  unfold State.detect
  split <;> simp
@[simp] theorem detect_red (p : Nat) (f : FaultInfo) : (s.detect p f).red = s.red := by
  unfold State.detect
  split <;> simp
@[simp] theorem detect_redSel (p : Nat) (f : FaultInfo) : (s.detect p f).redSel = s.redSel := by
  unfold State.detect
  split <;> simp
@[simp] theorem detect_num (p : Nat) (f : FaultInfo) : (s.detect p f).num = s.num := by
  unfold State.detect
  split <;> simp

/-! ### detectAll -/

@[simp] theorem detectAll_pending (f : FaultInfo) : (s.detectAll f).pending = s.pending := by
  exact each_keep (·.pending) _ (fun t p => by simp) _ _
@[simp] theorem detectAll_outbox (f : FaultInfo) : (s.detectAll f).outbox = s.outbox := by
  exact each_keep (·.outbox) _ (fun t p => by simp) _ _
@[simp] theorem detectAll_freeCtr (f : FaultInfo) : (s.detectAll f).freeCtr = s.freeCtr := by
  exact each_keep (·.freeCtr) _ (fun t p => by simp) _ _
@[simp] theorem detectAll_trngCtr (f : FaultInfo) : (s.detectAll f).trngCtr = s.trngCtr := by
  exact each_keep (·.trngCtr) _ (fun t p => by simp) _ _
@[simp] theorem detectAll_variant (f : FaultInfo) : (s.detectAll f).variant = s.variant := by
  exact each_keep (·.variant) _ (fun t p => by simp) _ _
@[simp] theorem detectAll_idleGrove (f : FaultInfo) : (s.detectAll f).idleGrove = s.idleGrove := by
  exact each_keep (·.idleGrove) _ (fun t p => by simp) _ _
@[simp] theorem detectAll_idleModule (f : FaultInfo) : (s.detectAll f).idleModule = s.idleModule := by
  exact each_keep (·.idleModule) _ (fun t p => by simp) _ _
@[simp] theorem detectAll_shortId (f : FaultInfo) : (s.detectAll f).shortId = s.shortId := by
  exact each_keep (·.shortId) _ (fun t p => by simp) _ _
@[simp] theorem detectAll_ikPub (f : FaultInfo) : (s.detectAll f).ikPub = s.ikPub := by
  exact each_keep (·.ikPub) _ (fun t p => by simp) _ _
@[simp] theorem detectAll_pwr (f : FaultInfo) : (s.detectAll f).pwr = s.pwr := by
  exact each_keep (·.pwr) _ (fun t p => by simp) _ _
@[simp] theorem detectAll_cmb (f : FaultInfo) : (s.detectAll f).cmb = s.cmb := by
  exact each_keep (·.cmb) _ (fun t p => by simp) _ _
@[simp] theorem detectAll_sap (f : FaultInfo) : (s.detectAll f).sap = s.sap := by
  exact each_keep (·.sap) _ (fun t p => by simp) _ _
@[simp] theorem detectAll_cfg (f : FaultInfo) : (s.detectAll f).cfg = s.cfg := by
  exact each_keep (·.cfg) _ (fun t p => by simp) _ _
@[simp] theorem detectAll_sessions (f : FaultInfo) : (s.detectAll f).sessions = s.sessions := by
  exact each_keep (·.sessions) _ (fun t p => by simp) _ _
@[simp] theorem detectAll_hw (f : FaultInfo) : (s.detectAll f).hw = s.hw := by
  exact each_keep (·.hw) _ (fun t p => by simp) _ _
@[simp] theorem detectAll_ten (f : FaultInfo) : (s.detectAll f).ten = s.ten := by
  exact each_keep (·.ten) _ (fun t p => by simp) _ _
@[simp] theorem detectAll_flt (f : FaultInfo) : (s.detectAll f).flt = s.flt := by
  exact each_keep (·.flt) _ (fun t p => by simp) _ _
@[simp] theorem detectAll_mem (f : FaultInfo) : (s.detectAll f).mem = s.mem := by
  exact each_keep (·.mem) _ (fun t p => by simp) _ _
@[simp] theorem detectAll_havoc (f : FaultInfo) : (s.detectAll f).havoc = s.havoc := by
  exact each_keep (·.havoc) _ (fun t p => by simp) _ _
@[simp] theorem detectAll_clusters (f : FaultInfo) : (s.detectAll f).clusters = s.clusters := by
  exact each_keep (·.clusters) _ (fun t p => by simp) _ _
@[simp] theorem detectAll_mb (f : FaultInfo) : (s.detectAll f).mb = s.mb := by
  exact each_keep (·.mb) _ (fun t p => by simp) _ _
@[simp] theorem detectAll_bufs (f : FaultInfo) : (s.detectAll f).bufs = s.bufs := by
  exact each_keep (·.bufs) _ (fun t p => by simp) _ _
@[simp] theorem detectAll_gve (f : FaultInfo) : (s.detectAll f).gve = s.gve := by
  exact each_keep (·.gve) _ (fun t p => by simp) _ _
@[simp] theorem detectAll_red (f : FaultInfo) : (s.detectAll f).red = s.red := by
  exact each_keep (·.red) _ (fun t p => by simp) _ _
@[simp] theorem detectAll_redSel (f : FaultInfo) : (s.detectAll f).redSel = s.redSel := by
  exact each_keep (·.redSel) _ (fun t p => by simp) _ _
@[simp] theorem detectAll_num (f : FaultInfo) : (s.detectAll f).num = s.num := by
  exact each_keep (·.num) _ (fun t p => by simp) _ _

/-! ### timeFault -/

@[simp] theorem timeFault_pending (c : Half) : (s.timeFault c).pending = s.pending := by
  simp [State.timeFault]
@[simp] theorem timeFault_outbox (c : Half) : (s.timeFault c).outbox = s.outbox := by
  simp [State.timeFault]
@[simp] theorem timeFault_freeCtr (c : Half) : (s.timeFault c).freeCtr = s.freeCtr := by
  simp [State.timeFault]
@[simp] theorem timeFault_trngCtr (c : Half) : (s.timeFault c).trngCtr = s.trngCtr := by
  simp [State.timeFault]
@[simp] theorem timeFault_variant (c : Half) : (s.timeFault c).variant = s.variant := by
  simp [State.timeFault]
@[simp] theorem timeFault_idleGrove (c : Half) : (s.timeFault c).idleGrove = s.idleGrove := by
  simp [State.timeFault]
@[simp] theorem timeFault_idleModule (c : Half) : (s.timeFault c).idleModule = s.idleModule := by
  simp [State.timeFault]
@[simp] theorem timeFault_shortId (c : Half) : (s.timeFault c).shortId = s.shortId := by
  simp [State.timeFault]
@[simp] theorem timeFault_ikPub (c : Half) : (s.timeFault c).ikPub = s.ikPub := by
  simp [State.timeFault]
@[simp] theorem timeFault_pwr (c : Half) : (s.timeFault c).pwr = s.pwr := by
  simp [State.timeFault]
@[simp] theorem timeFault_cmb (c : Half) : (s.timeFault c).cmb = s.cmb := by
  simp [State.timeFault]
@[simp] theorem timeFault_sap (c : Half) : (s.timeFault c).sap = s.sap := by
  simp [State.timeFault]
@[simp] theorem timeFault_cfg (c : Half) : (s.timeFault c).cfg = s.cfg := by
  simp [State.timeFault]
@[simp] theorem timeFault_sessions (c : Half) : (s.timeFault c).sessions = s.sessions := by
  simp [State.timeFault]
@[simp] theorem timeFault_hw (c : Half) : (s.timeFault c).hw = s.hw := by
  simp [State.timeFault]
@[simp] theorem timeFault_ten (c : Half) : (s.timeFault c).ten = s.ten := by
  simp [State.timeFault]
@[simp] theorem timeFault_flt (c : Half) : (s.timeFault c).flt = s.flt := by
  simp [State.timeFault]
@[simp] theorem timeFault_mem (c : Half) : (s.timeFault c).mem = s.mem := by
  simp [State.timeFault]
@[simp] theorem timeFault_havoc (c : Half) : (s.timeFault c).havoc = s.havoc := by
  simp [State.timeFault]
@[simp] theorem timeFault_clusters (c : Half) : (s.timeFault c).clusters = s.clusters := by
  simp [State.timeFault]
@[simp] theorem timeFault_mb (c : Half) : (s.timeFault c).mb = s.mb := by
  simp [State.timeFault]
@[simp] theorem timeFault_bufs (c : Half) : (s.timeFault c).bufs = s.bufs := by
  simp [State.timeFault]
@[simp] theorem timeFault_gve (c : Half) : (s.timeFault c).gve = s.gve := by
  simp [State.timeFault]
@[simp] theorem timeFault_red (c : Half) : (s.timeFault c).red = s.red := by
  simp [State.timeFault]
@[simp] theorem timeFault_redSel (c : Half) : (s.timeFault c).redSel = s.redSel := by
  simp [State.timeFault]
@[simp] theorem timeFault_num (c : Half) : (s.timeFault c).num = s.num := by
  simp [State.timeFault]

/-! ### Event registers only gain bits -/

/-- Every event bit of s is set in t. -/
def EvtLe (s t : State) : Prop := ∀ e b, (s.evt.get e).getLsbD b = true → (t.evt.get e).getLsbD b = true

theorem EvtLe.refl (s : State) : EvtLe s s := fun _ _ h => h

theorem EvtLe.trans {s t u : State} (h : EvtLe s t) (k : EvtLe t u) : EvtLe s u := fun e b x => k e b (h e b x)

/-- A state whose event registers are those of s. -/
theorem EvtLe.of_eq {s t : State} (h : t.evt = s.evt) : EvtLe s t := fun e b x => by rw [h]; exact x

theorem get_set (v : Events) (e f : EvtSrc) (x : Word) : (v.set e x).get f = if f = e then x else v.get f := by
  cases e <;> cases f <;> simp [Events.set, Events.get, mget_mput]

theorem evtLe_loseEntry : EvtLe s s.loseEntry := by
  simp only [State.loseEntry]
  split
  · exact EvtLe.of_eq rfl
  · intro e b h
    cases e <;> simp_all [Events.get]

theorem evtLe_logEvent (e : EvtSrc) (v : Half) (p : Nat) (d : List Byte) : EvtLe s (s.logEvent e v p d) := by
  unfold State.logEvent
  split
  · exact EvtLe.of_eq rfl
  · exact evtLe_loseEntry s

theorem evtLe_event (e : EvtSrc) (b p : Nat) (d : List Byte) : EvtLe s (s.event e b p d) := by
  unfold State.event
  split
  · exact EvtLe.refl s
  · refine EvtLe.trans ?_ (evtLe_logEvent _ _ _ _ _)
    refine EvtLe.trans (t := { s with evt := s.evt.set e (s.evt.get e ||| (1#32 <<< b)) }) ?_ (EvtLe.of_eq (raiseVec_evt _ _))
    intro f c h
    simp only [get_set]
    split
    · subst_vars
      simp [BitVec.getLsbD_or, h]
    · exact h

/-- An event sets its bit. -/
theorem event_sets (e : EvtSrc) (b p : Nat) (d : List Byte) (h : b < 32) :
    ((s.event e b p d).evt.get e).getLsbD b = true := by
  unfold State.event
  split
  · assumption
  · refine evtLe_logEvent _ _ _ _ _ e b ?_
    rw [raiseVec_evt]
    simp [get_set, h]

theorem evtLe_each {α : Type} (f : State → α → State) (h : ∀ s a, EvtLe s (f s a)) (l : List α) (s : State) :
    EvtLe s (s.each l f) := by
  unfold State.each
  induction l generalizing s with
  | nil => exact EvtLe.refl s
  | cons a l ih => exact (h s a).trans (ih (f s a))

theorem evtLe_detect (p : Nat) (f : FaultInfo) : EvtLe s (s.detect p f) := by
  unfold State.detect
  split
  · exact evtLe_logEvent _ _ _ _ _
  · exact EvtLe.of_eq (by simp)

theorem evtLe_detectAll (f : FaultInfo) : EvtLe s (s.detectAll f) := by
  exact evtLe_each _ (fun t p => evtLe_detect t p f) _ _

theorem evtLe_timeFault (c : Half) : EvtLe s (s.timeFault c) := evtLe_detectAll s _

end Sys2Proof.Machine.Laws
end

