-- ==== Sys2Proof/Safety.lean ====
section
/-!
DEFINITION. What a safe run is: no step of it faults or refuses.
-/

namespace Sys2Proof.Machine

/-- The next n steps from s each answer a next state. -/
def Safe (n : Nat) (s : State) : Prop :=
  ∃ t, Host.Core.run Sys2Proof.core n s = .next t

end Sys2Proof.Machine
end

