-- ==== Sys2Proof/Tests/Slice0.lean ====
section
/-!
SUPPORT. Tests: ill-formed commands that are refused as bad operands, values taken from the manual's own examples and
tables, and for every statement of Obligations.lean with hypotheses a state and operands that meet them, clause by
clause.
-/

namespace Sys2Proof.Tests

set_option Elab.async false

open Sys2Proof Sys2Proof.Machine

/-! ## States that the witnesses share -/

/-- The module in its full stage with Cambium aligned at beat 1,000. -/
def up : State :=
  { pwr := { perst := false, stage := .full }, cmb := { st := .aligned, beat := 1000, tref := true, pllLocked := true },
    sap := { clkEn := 0xFF }, hw := { booted := true }, cnp := { up := true } }

/-- The same with Cambium in another state. -/
def at_ (st : CmbSt) (src : Nat := 0) : State := { up with cmb := { up.cmb with st := st, src := src } }

/-- Step r runs, or ended last, in partition 0. -/
def withRun (r : StepRun) : State := { up with parts := [(0, { cur := some r })] }

/-- A running step that started at beat 1,000 under the empty image, whose fields all read zero. -/
def run0 : StepRun := { ph := .running, start := 1000 }

/-- The same step after its commit. -/
def done0 : StepRun := { ph := .committed, start := 1000 }

/-- Partition 0 at work. -/
def busy : State := withRun run0

/-- A stream word of an opcode with the named bit fields. -/
def word (op : Nat) (fields : List (Nat × Nat)) : OpWord :=
  BitVec.ofNat 128 (op * 2 ^ 84 + (fields.map fun f => f.2 * 2 ^ f.1).sum)

/-- Cluster 0 of partition 0, stream F. -/
def here : WordAt := ⟨0, 0, .f⟩

/-- Bytes b at offset o of n zero bytes. -/
def bytesAt (n : Nat) (l : List (Nat × List Byte)) : List Byte := l.foldl (fun acc e => patch acc e.1 e.2) (zeros n)

/-! ## Witnesses: the time base -/

theorem witness_ReferenceLossAndRelock : CmbLocked up ∧ (at_ .unlocked).cmb.st = .unlocked ∧
    (at_ .holdover).cmb.st = .holdover ∧ (at_ .holdover).cmb.holdBeats < 65 ∧
    65 ≤ ({ at_ .holdover with cmb := { (at_ .holdover).cmb with holdBeats := 65 } } : State).cmb.holdBeats ∧
    (at_ .aligned).cmb.st ≠ .unlocked ∧
    ({ at_ .unlocked with cmb := { (at_ .unlocked).cmb with lockStarted := true } } : State).cmb.lockStarted = true :=
  ⟨⟨by decide, by decide⟩, rfl, rfl, by decide, by decide, by decide, rfl⟩

theorem witness_BeatOutFramesDecodeAsBeatIn : 128 * 144115188075855871 + 127 < 2 ^ 64 := by decide

/-- The BEAT_IN frame of beat 0. -/
def frame0 : List Nat := (List.range 128).map fun k => pulseWidth k

/-- Cambium acquiring or on the grid from BEAT_IN, at beat 127. -/
def atFrame (st : CmbSt) (stepped : Bool) (good : Nat) (beat : DWord) : State :=
  { up with cmb := { up.cmb with
      st := st, src := 1, stepped := stepped, good := good, beat := beat, lastGood := -128 } }

theorem witness_BeatInFrameAlignsOrFaults : frame0.length = 128 ∧ frameNumber frame0 = some 0 ∧
    (atFrame .acquiring false 0 5).cmb.stepped = false ∧
    (atFrame .acquiring true 1 127).cmb.beat = BitVec.ofNat 64 (0 + 127) ∧
    (atFrame .acquiring true 1 127).cmb.lastGood + 128 = BitVec.ofNat 64 0 ∧ (atFrame .acquiring true 1 127).cmb.badCrc < 2 ∧
    frameNumber ((List.range 128).map fun _ => 0) = none ∧
    -32 ≤ (atFrame .acquiring true 1 127).cmb.phaseErr.toInt ∧ (atFrame .acquiring true 1 127).cmb.phaseErr.toInt ≤ 32 ∧
    (atFrame .aligned false 0 5).onGrid = true ∧ (atFrame .aligned false 0 5).cmb.beat ≠ BitVec.ofNat 64 (0 + 127) ∧
    (atFrame .holdover false 0 5).cmb.st = .holdover ∧ (atFrame .holdover false 0 5).cmb.beat ≠ BitVec.ofNat 64 (0 + 127) ∧
    (atFrame .flywheel false 0 127).cmb.st = .flywheel ∧
    (atFrame .flywheel false 0 127).cmb.beat = BitVec.ofNat 64 (0 + 127) := by decide +kernel

theorem witness_SourceLossFlywheelsAndAlignFaultAcquires : (at_ .aligned 1).cmb.src = 1 ∧ (at_ .aligned 2).cmb.src = 2 ∧
    ({ at_ .aligned 1 with cmb := { (at_ .aligned 1).cmb with badCrc := 2 } } : State).cmb.badCrc = 2 ∧
    (zeros 128).length = 128 ∧ frameNumber ((List.range 128).map fun _ => 0) = none ∧
    ({ busy with cmb := { busy.cmb with st := .flywheel, flyBeats := 1000000 } } : State).cmb.flyLimit.toNat ≤ 1000000 ∧
    (0 ∈ ptList busy ∧ (busy.part 0).running = some run0 ∧ run0.ph = .running) ∧ (at_ .aligned 1).onGrid = true ∧
    (-128 ≤ (-128 : Int) - (at_ .aligned 1).cmb.inDelay.toInt) ∧ ((128 : Int) - (at_ .aligned 1).cmb.inDelay.toInt ≤ 128) ∧
    ¬(-128 ≤ (129 : Int) - (at_ .aligned 1).cmb.inDelay.toInt ∧ (129 : Int) - (at_ .aligned 1).cmb.inDelay.toInt ≤ 128) := by
  decide +kernel

/-- Cambium acquiring from port 0 as its beat parent. -/
def atParent : State := { up with
  cmb := { up.cmb with st := .acquiring, src := 2, parent := 0 }, bgh := { ports := [(0, { st := .up })] } }

/-- The same in another state, at beat 1,000. -/
def parentIn (st : CmbSt) (stepped : Bool := false) : State :=
  { atParent with cmb := { atParent.cmb with st := st, stepped := stepped } }

/-- A marker of beat 1,000 from the port: flags, hops, and its offset in the beat. -/
def marker (flags hops off : Byte) : List Byte :=
  bytesAt 32 [(1, [flags]), (2, [hops]), (4, [off]), (8, toLE 8 1000)]

/-- The distance of a marker of beat 1,000 that port 0 takes in at an offset of beat 1,000. -/
def markerGap (rec : List Byte) (off : Int) : Int :=
  64000 * ((getLE rec 8 8 : Nat) : Int) + getLE rec 4 4 + (mget 0 atParent.cmb.portDelay 0 : Word).toInt -
    (64000 * ((1000 : DWord).toNat : Int) + off)

theorem witness_MarkersAndDelaysAlignToTheParent : 0 < atParent.variant.ports ∧ atParent.cmb.src = 2 ∧
    atParent.cmb.parent = 0 ∧ (atParent.port 0).mode = 0 ∧ atParent.cmb.st = .acquiring ∧
    getLE (marker 0 0 0) 1 1 % 2 = 0 ∧ getLE (marker 3 2 0) 1 1 % 2 = 1 ∧ getLE (marker 3 2 0) 1 1 / 2 % 2 = 1 ∧
    getLE (marker 1 2 0) 1 1 / 2 % 2 = 0 ∧ (parentIn .holdover).cmb.st = .holdover ∧ (parentIn .flywheel).onGrid = true ∧
    80 + 16 * (getLE (marker 3 2 0) 2 1 + 1) = 128 ∧ atParent.cmb.stepped = false ∧
    128 < 80 + 16 * (getLE (marker 3 3 0) 2 1 + 1) ∧ (parentIn .acquiring true).cmb.stepped = true ∧
    markerGap (marker 1 0 0) (-64000) = 64000 ∧ (64000 + 32000 : Int).fdiv 64000 ≠ 0 ∧
    markerGap (marker 1 0 0) 128 = -128 ∧ markerGap (marker 1 0 128) 0 = 128 ∧ (128 + 32000 : Int).fdiv 64000 = 0 ∧
    (-128 + 32000 : Int).fdiv 64000 = 0 ∧ (parentIn .aligned).onGrid = true ∧ (atParent.port 0).active = true ∧
    delayOf (bytesAt 32 [(8, toLE 8 0), (24, toLE 8 0)]) 1 0 = 32000 ∧
    ptOfPort ({ atParent with cfg := { layout := 0 } } : State) 0 = none ∧
    (∀ p, ptOfPort atParent 0 = some p → (atParent.part p).running = none) ∧ 32000 < delayOf (zeros 32) 2 0 := by
  refine ⟨?_, ?_, ?_, ?_, ?_, ?_, ?_, ?_, ?_, ?_, ?_, ?_, ?_, ?_, ?_, ?_, ?_, ?_, ?_, ?_, ?_, ?_, ?_, ?_, ?_, ?_, ?_⟩ <;>
    decide +kernel

theorem witness_RootStartLoadsTheRootNumber : (at_ .freqLocked).rooted = true ∧ (at_ .freqLocked).cmb.st = .freqLocked ∧
    (at_ .freqLocked).cmb.src = 0 ∧ (at_ .aligned).rooted = true ∧
    ¬((at_ .aligned).cmb.st = .freqLocked ∧ (at_ .aligned).cmb.src = 0) ∧ (at_ .freqLocked).powered = true ∧
    ({ at_ .freqLocked with cmb := { (at_ .freqLocked).cmb with rootPending := true } } : State).cmb.rootPending = true := by
  decide +kernel

theorem witness_BeatBoundaryCountsAndTraceYields :
    ({ up with pwr := {} } : State).rooted = false ∧ ({ up with pwr := { stage := .dormant } } : State).powered = false ∧ up.powered = true ∧
    up.cmb.st = .aligned ∧ (at_ .unlocked).cmb.st = .unlocked ∧ (at_ .freqLocked 1).cmb.src ≠ 0 ∧
    up.pwr.rcvReady = false ∧ traceOpen up = true ∧ up.cmb.beatOut = false ∧ (∀ p ∈ ptList up, imageOwns up p 1 = false ∧ imageOwns up p 2 = false) ∧
    ({ up with cmb := { up.cmb with beatOut := true } } : State).cmb.beatOut = true := by decide +kernel

/-! ## Witnesses: the words of a cluster's streams -/

/-- The key of a section: type, tier, grove, cluster and stream, as a directory entry begins. -/
def secKey (type tier grove cluster stream : Nat) : List Byte :=
  toLE 2 type ++ toLE 1 tier ++ toLE 1 grove ++ toLE 2 cluster ++ toLE 1 stream ++ [0]

/-- The key of a shared section. -/
def sharedKey (type : Nat) : List Byte := secKey type 0xFF 0xFF 0xFFFF 0xFF

/-- Directory entries of sections that lie one after another from a byte of the image on. -/
def dirFrom : Nat → List (List Byte × List Byte) → List Byte
  | _, [] => []
  | o, x :: l => x.1 ++ toLE 8 o ++ toLE 8 x.2.length ++ zeros 8 ++ dirFrom (o + x.2.length) l

/-- An image of the named sections; every other field of its header reads zero. -/
def image (secs : List (List Byte × List Byte)) : List Byte :=
  bytesAt 256 [(12, toLE 4 secs.length)] ++ dirFrom (256 + 32 * secs.length) secs ++ secs.flatMap (·.2)

/-- A stream section of words and descriptor slots. -/
def streamSec (words : List OpWord) (descs : List (List Byte)) : List Byte :=
  toLE 4 words.length ++ toLE 4 descs.length ++ zeros 56 ++ (words.flatMap fun w => toLE 16 w.toNat) ++ descs.flatten

/-- Step r runs in partition 0 under an image, with port 0 up. -/
def under (r : StepRun) (img : List Byte) (rx : List SlotBuf := []) : State :=
  { up with parts := [(0, { cur := some r, slotA := { st := .accepted, image := img } })],
            bgh := { ports := [(0, { st := .up })] }, bufs := [(0, { rx := rx })] }

/-- Word w, with descriptor slots, is the first word of stream F of cluster 0 in the step that runs. -/
def on (w : OpWord) (descs : List (List Byte) := []) : State :=
  under run0 (image [(secKey 0x10 0 0 0 0, streamSec [w] descs)])

theorem runs (w : OpWord) (op : Nat) (s : State) (hr : (s.part 0).running = some run0) (ho : wOp w = op)
    (hd : wordDue s here w run0 = true) : WordRuns here w op s run0 := ⟨hr, rfl, by decide, by decide, ho, hd⟩

/-- Cluster 0 has met END in stream F. -/
def ended0 : State := { busy with clusters := [(0, { streams := [(0, { ended := true })] })] }

/-- A word of stream F of cluster 0, under way since ac 0. -/
def flying (w : OpWord) : Flight := { at_ := here, c := 0, idx := 0, t := 0, w }

/-- A step in whose ac k a word started at ac 0 is under way alone. -/
def runAt (f : Flight) (k : Nat) : StepRun := { run0 with flights := [f], clock := k }

/-- The same in partition 0, under an image. -/
def inAc (f : Flight) (k : Nat) (img : List Byte := []) : State := under (runAt f k) img

/-- A word in its ac 5, before its end. -/
def nopAir : Flight := flying (word 0x00 [(92, 10)])

theorem witness_WordsStartInTheirAc : WordRuns here (word 0x00 []) 0x00 (on (word 0x00 [])) run0 ∧
    WordRuns here (word 0x01 [(108, 849)]) 0x01 (on (word 0x01 [(108, 849)])) run0 ∧
    WordRuns here (word 0x10 []) 0x10 (on (word 0x10 [])) run0 ∧ WordRuns here (word 0x11 []) 0x11 (on (word 0x11 [])) run0 ∧
    WordRuns here (word 0x12 []) 0x12 (on (word 0x12 [])) run0 ∧ WordRuns here (word 0x13 []) 0x13 (on (word 0x13 [])) run0 ∧
    WordRuns here (word 0x20 []) 0x20 (on (word 0x20 []) [zeros 64, zeros 64]) run0 ∧
    WordRuns here (word 0x21 []) 0x21 (on (word 0x21 []) [zeros 64, zeros 64]) run0 ∧
    WordRuns here (word 0x33 []) 0x33 (on (word 0x33 [])) run0 ∧
    (∀ m < 4, ∃ s, WordRuns here (word 0x22 []) 0x22 s run0 ∧ mvMode (wordDesc (wordSec s here run0) (word 0x22 [])) = m) ∧
    (streamAt ended0 here).ended = true ∧ ((inAc nopAir 5).part 0).cur = some (runAt nopAir 5) ∧
    quiet (inAc nopAir 5) 0 = false ∧ (runAt nopAir 5).clock < 6 := by
  refine ⟨runs _ _ _ ?_ ?_ ?_, runs _ _ _ ?_ ?_ ?_, runs _ _ _ ?_ ?_ ?_, runs _ _ _ ?_ ?_ ?_, runs _ _ _ ?_ ?_ ?_,
    runs _ _ _ ?_ ?_ ?_, runs _ _ _ ?_ ?_ ?_, runs _ _ _ ?_ ?_ ?_, runs _ _ _ ?_ ?_ ?_, fun m hm =>
      ⟨on (word 0x22 []) [[3, BitVec.ofNat 8 m] ++ zeros 62], runs _ _ _ rfl ?_ ?_, ?_⟩, ?_, ?_, ?_, ?_⟩ <;>
    first | decide +kernel | (revert m; decide +kernel)

/-- A WLD of E4M3 with 128 rows and 64 columns, or a WLDT; 16 bytes of every row are of the last ac. -/
def wld0 (op dur : Nat) : OpWord := word op [(50, 0), (41, 127), (35, 63), (92, dur)]

theorem witness_WeightLoadsFillTheBackgroundTile :
    LoneWord (inAc (flying (wld0 0x10 9)) 0) (runAt (flying (wld0 0x10 9)) 0) (flying (wld0 0x10 9)) 0x10 0 ∧
    0 + 1 < wDur (wld0 0x10 9) ∧ (∃ b f, f = { flying (wld0 0x10 8) with bytes := b } ∧
      LoneWord (inAc f 7) (runAt f 7) f 0x10 7 ∧ 7 + 1 = wDur (wld0 0x10 8) ∧ wBits (wld0 0x10 8) 53 50 ≤ 3 ∧
      wBits (wld0 0x10 8) 49 41 + 1 ≤ 128 ∧ (b ++ zeros 1024).length = tileBytes (wBits (wld0 0x10 8) 53 50) ∧
      min 1024 (tileBytes (wBits (wld0 0x10 8) 53 50) - 1024 * 7) = 1024) ∧
    LoneWord (inAc (flying (wld0 0x11 65)) 63) (runAt (flying (wld0 0x11 65)) 63) (flying (wld0 0x11 65)) 0x11 63 ∧
    63 + 1 < wDur (wld0 0x11 65) ∧ (∃ f : Flight, f = { flying (wld0 0x11 65) with
        lines := (List.range 64).map fun i => (i, zeros 128) } ∧ LoneWord (inAc f 64) (runAt f 64) f 0x11 64 ∧
      64 + 1 = wDur (wld0 0x11 65) ∧ f.lines = (List.range 64).map fun i => (i, (fun _ => zeros 128) i)) := by
  refine ⟨⟨rfl, rfl, rfl, ?_⟩, ?_, ⟨zeros 7168, _, rfl, ⟨rfl, rfl, rfl, ?_⟩, ?_⟩, ⟨rfl, rfl, rfl, ?_⟩, ?_,
    ⟨_, rfl, ⟨rfl, rfl, rfl, ?_⟩, ?_, rfl⟩⟩ <;> decide +kernel

/-- An MM of two rows with SWAP. -/
def mm0 (fs : List (Nat × Nat)) : OpWord := word 0x12 ([(44, 1), (82, 1), (92, 400)] ++ fs)

/-- A word under way whose count is n. -/
def counted (w : OpWord) (n : Nat) : Flight := { flying w with cnt := n }

theorem witness_MmTakesRowsIn :
    LoneWord (inAc (counted (mm0 []) 2) 0) (runAt (counted (mm0 []) 2) 0) (counted (mm0 []) 2) 0x12 0 ∧
    0 = 0 * passR (mm0 []) ∧ wSwap (mm0 []) = true ∧ 0 = passEntry (mm0 []) ∧ 0 + 1 < wDur (mm0 []) ∧
    LoneWord (inAc (counted (mm0 []) 1) (passR (mm0 []))) (runAt (counted (mm0 []) 1) (passR (mm0 [])))
      (counted (mm0 []) 1) 0x12 (passR (mm0 [])) ∧ (1 : Nat) ≤ 1 ∧
    LoneWord (inAc (counted (mm0 []) 2) (2 * passR (mm0 []))) (runAt (counted (mm0 []) 2) (2 * passR (mm0 [])))
      (counted (mm0 []) 2) 0x12 (2 * passR (mm0 [])) ∧ 2 = passM (mm0 []) ∧ 2 * passR (mm0 []) + 1 < wDur (mm0 []) := by
  refine ⟨⟨rfl, rfl, rfl, ?_⟩, ?_, ?_, ?_, ?_, ⟨rfl, rfl, rfl, ?_⟩, ?_, ⟨rfl, rfl, rfl, ?_⟩, ?_, ?_⟩ <;> decide +kernel

/-- An MMT of 128 rows of a masked tensor. -/
def mmt0 : OpWord := word 0x13 [(44, 127), (82, 1), (17, 1), (92, 600)]

/-- Its mask descriptor leaves out every row but row 0. -/
def mmtAir : Flight := { counted mmt0 128 with desc := bytesAt 192 [(0, [4, 1, 0]), (64, [1])] }

theorem witness_MmtTakesColumnsIn : LoneWord (inAc mmtAir 127) (runAt mmtAir 127) mmtAir 0x13 127 ∧
    127 + 1 < wDur mmt0 ∧ mmtFill mmt0 127 = some (0, 127) ∧
    LoneWord (inAc mmtAir 128) (runAt mmtAir 128) mmtAir 0x13 128 ∧ 128 = 128 + 0 * passR mmt0 ∧ 0 < mmtAir.cnt ∧
    maskRow mmtAir.desc 0 = true ∧
    LoneWord (inAc mmtAir (128 + passR mmt0)) (runAt mmtAir (128 + passR mmt0)) mmtAir 0x13 (128 + passR mmt0) ∧
    1 < mmtAir.cnt ∧ maskRow mmtAir.desc 1 = false ∧ 128 + passR mmt0 + 1 < wDur mmt0 := by
  refine ⟨⟨rfl, rfl, rfl, ?_⟩, ?_, ?_, ⟨rfl, rfl, rfl, ?_⟩, ?_, ?_, ?_, ⟨rfl, rfl, rfl, ?_⟩, ?_, ?_, ?_⟩ <;> decide +kernel

/-- A pass of M = 2 in a MODE, whose row 0 has the named check and whose seal has the named verdict. -/
def passAir (op mode : Nat) (ok : Option Bool) (seal_ : Bool) : Flight :=
  { counted (word op [(44, 1), (21, mode), (92, 700)]) 2 with
    rows := [(0, List.replicate 64 0, ok), (2, List.replicate 64 0, some seal_)] }

theorem witness_PassRowsAreWrittenInTheirAc :
    (∀ op ∈ [0x12, 0x13], ∀ mode < 4, ∀ ok ∈ [none, some true, some false], ∀ f, f = passAir op mode ok true →
      LoneWord (inAc f (passBase f.w)) (runAt f (passBase f.w)) f op (passBase f.w) ∧
      passBase f.w + 1 < wDur f.w ∧ itemAt 0 f.rows = some (List.replicate 64 0, ok) ∧ wBits f.w 22 21 = mode ∧
      64 * wBits f.w 39 27 + 512 * 0 + 512 ≤ accSize) ∧
    (∀ op ∈ [0x12, 0x13], ∀ v, ∀ f, f = passAir op 0 none v →
      LoneWord (inAc f 699) (runAt f 699) f op 699 ∧ 699 + 1 = wDur f.w ∧ passBase f.w ≤ 699 ∧
      itemAt (passM f.w) f.rows = some (List.replicate 64 0, some v)) := by
  constructor
  · intro op ho mode hm ok hk f hf
    subst hf
    refine ⟨⟨rfl, rfl, rfl, ?_⟩, ?_⟩ <;> revert op mode ok <;> decide +kernel
  · intro op ho v f hf
    subst hf
    refine ⟨⟨rfl, rfl, rfl, ?_⟩, ?_⟩ <;> revert op v <;> decide +kernel

/-- A chain of one ADD stage over 256 elements of the scratchpad. -/
def chain1 : List Byte := bytesAt 128 [(0, [1, 1])]

/-- Its word under way, with what it holds of group 0. -/
def chainAir (es : List ElemRead) : Flight :=
  { counted (word 0x20 [(44, 255), (92, 40)]) 256 with desc := chain1, elems := es }

theorem witness_VchainWritesItsStageResults : LoneWord (inAc (chainAir []) 0) (runAt (chainAir []) 0) (chainAir []) 0x20 0 ∧
    0 < chainGroups (chainAir []).w ∧ 0 + 1 < wDur (chainAir []).w ∧
    (∃ e : ElemRead, e.i = 3 ∧ e.i / 256 = 0 ∧ LoneWord (inAc (chainAir [e]) 20) (runAt (chainAir [e]) 20) (chainAir [e]) 0x20 20 ∧
      20 = 16 + 4 * dS (chainAir [e]).desc + 0 ∧ (((chainAir [e]).elems).map ElemRead.i).Nodup) ∧
    chainGroups (chainAir []).w ≤ 20 ∧ 0 < dS chain1 ∧ dCvt chain1 = none ∧
    (∀ x ∈ dStages chain1, isReduction x.op = false) ∧ dDstKind chain1 = 0 ∧
    32 * dDstAddr chain1 + 1024 * 0 + 1024 ≤ spadSize := by
  refine ⟨⟨rfl, rfl, rfl, ?_⟩, ?_, ?_, ⟨readElem busy 0 chain1 256 3, ?_, ?_, ⟨rfl, rfl, rfl, ?_⟩, ?_⟩, ?_, ?_, ?_, ?_, ?_, ?_⟩ <;>
    decide +kernel

/-- A VROUTE of 8 tokens, 4 experts and k = 2. -/
def routeAir : Flight :=
  { counted (word 0x21 [(52, 7), (44, 3), (41, 1), (92, 300)]) 8 with desc := bytesAt 192 [(0, [2])] }

theorem witness_VrouteRoutesOrDropsEveryChoice :
    LoneWord (inAc routeAir 299) (runAt routeAir 299) routeAir 0x21 299 ∧ 299 + 1 = wDur routeAir.w := by
  refine ⟨⟨rfl, rfl, rfl, ?_⟩, ?_⟩ <;> decide +kernel

/-- A VMOVE descriptor: mode, list, source and pitch, destination and pitch. -/
def moveDesc (mode list src sp dst dp : Nat) : List Byte :=
  bytesAt 64 [(0, [3]), (1, toLE 1 mode), (4, toLE 4 list), (8, toLE 4 src), (12, toLE 4 sp), (16, toLE 4 dst),
    (20, toLE 4 dp)]

/-- A VMOVE of two records of one-line rows in a mode, with what it has taken in. -/
def moveAir (mode : Nat) (recs : List (Nat × Nat × Word)) (lines : List (Nat × List Byte)) : Flight :=
  { counted (word 0x22 [(52, 1), (92, 40)]) 2 with desc := moveDesc mode 0 100 2 200 2, recs, lines }

theorem witness_GathersMoveTheRowsOfTheirRecords :
    (∀ mode ∈ [0, 2], ∀ f, f = moveAir mode [] [] → LoneWord (inAc f 1) (runAt f 1) f 0x22 1 ∧ mvMode f.desc = mode ∧
      1 = 1 * mvAc f.w ∧ 1 < f.cnt ∧ 1 + 1 < wDur f.w) ∧
    getLE (spadR busy 0 8 8) 4 2 ≠ 0xFFFF ∧ getLE (spadR (writeN busy (spadBase 0 + 12) [0xFF, 0xFF]) 0 8 8) 4 2 = 0xFFFF ∧
    (∀ mode ∈ [0, 2], ∀ f, f = moveAir mode [] [(1, zeros 64)] → LoneWord (inAc f 25) (runAt f 25) f 0x22 25 ∧
      25 = 24 + 1 * mvAc f.w ∧ itemAt 1 f.lines = some (zeros 64) ∧ (zeros 64).length = mvLen f.w ∧
      32 * (getLE f.desc 16 4 + 1 * getLE f.desc 20 4) + mvLen f.w ≤ spadSize) := by
  refine ⟨?_, ?_, ?_, ?_⟩
  · intro mode hm f hf
    subst hf
    refine ⟨⟨rfl, rfl, rfl, ?_⟩, ?_⟩ <;> revert mode <;> decide +kernel
  · decide +kernel
  · decide +kernel
  · intro mode hm f hf
    subst hf
    refine ⟨⟨rfl, rfl, rfl, ?_⟩, ?_⟩ <;> revert mode <;> decide +kernel

/-- An image with a bound of 5 for bound ID 9. -/
def boundImage : List Byte := image [(sharedKey 2, [9, 0, 0, 0, 5] ++ zeros 11)]

/-- A COUNT_LOAD descriptor that loads entry 0 into count register 3 under bound ID 9. -/
def countDesc : List Byte := bytesAt 64 [(0, [3, 3]), (24, [1, 0]), (32, [3]), (40, [9, 0])]

/-- A COUNT_LOAD that has taken in its line. -/
def countAir : Flight := { counted (word 0x22 [(92, 25)]) 1 with desc := countDesc, lines := [(0, zeros 64)] }

theorem witness_CombineAddsAndCountLoadTruncates :
    (∀ t ∈ [0, 0xFFFF], ∀ f, f = moveAir 1 [(0, t, 0)] [(0, zeros 64)] → LoneWord (inAc f 24) (runAt f 24) f 0x22 24 ∧
      mvMode f.desc = 1 ∧ 24 = 24 + 0 * mvAc f.w ∧ itemAt 0 f.recs = some (t, 0) ∧ itemAt 0 f.lines = some (zeros 64) ∧
      (zeros 64).length = mvLen f.w ∧
      (t ≠ 0xFFFF → 32 * (getLE f.desc 16 4 + t * getLE f.desc 20 4) + mvLen f.w ≤ spadSize)) ∧
    LoneWord (inAc countAir 24 boundImage) (runAt countAir 24) countAir 0x22 24 ∧ mvMode countAir.desc = 3 ∧
    24 + 1 = wDur countAir.w ∧ itemAt 0 countAir.lines = some (zeros 64) ∧ getLE countAir.desc 24 2 = 2 ^ 0 ∧
    boundMax (stepImage (inAc countAir 24 boundImage) 0) (getLE countAir.desc (40 + 2 * 0) 2) = some 5 := by
  refine ⟨?_, ⟨rfl, rfl, rfl, ?_⟩, ?_, ?_, ?_, ?_, ?_⟩
  · intro t ht f hf
    subst hf
    refine ⟨⟨rfl, rfl, rfl, ?_⟩, ?_⟩ <;> revert t <;> decide +kernel
  all_goals decide +kernel

/-! ## Witnesses: lines, sums, slot buffers and the stash -/

/-- A word over Crown lines in units of 64 bytes. -/
def crownWord (op addr : Nat) : OpWord := word op [(25, addr / 64), (9, 1), (92, 200)]

/-- A Crown window of one line: filled in beat 0, open in beats 0 and 1, written back in beat 2 or at once. -/
def window0 (close : Nat) : CrownEntry := ⟨1, true, true, 3, 0, 64, 1, 0, 0, close⟩

/-- A Crown table of one window. -/
def crownTable (e : CrownEntry) : List Byte :=
  bytesAt 48 [(0, [1]), (16, toLE 1 e.kind ++ [3] ++ toLE 2 e.way ++ toLE 4 e.offset ++ toLE 8 e.hbmAddr ++ toLE 4 e.lines ++
    toLE 4 e.fillBeat ++ toLE 4 e.openBeat ++ toLE 4 e.closeBeat)]

/-- Word w is due, and grove 0 has a Crown table. -/
def onTable (w : OpWord) (e : CrownEntry) : State :=
  under run0 (image [(secKey 0x10 0 0 0 0, streamSec [w] []), (secKey 0x11 0 0 0xFFFF 0xFF, crownTable e)])

/-- The same once the window has been filled. -/
def onFilled (w : OpWord) (e : CrownEntry) : State :=
  { onTable w e with mb := { windows := [{ pt := 0, grove := 0, entry := e, filled := true }] } }

/-- Where a word's range of n lines lies at its start. -/
def placeOf (s : State) (w : OpWord) : CrownAt :=
  crownAt (moved s here w) (flightOf s here w run0) (64 * wBits w 62 25) (crownN w)

/-- One line at MADDR of HBM byte 64. -/
def oneLine (op : Nat) : OpWord := word op [(25, 1), (92, 200)]

theorem witness_LdcAndStcMoveCrownLines :
    (∀ op ∈ [0x30, 0x31], WordRuns here (crownWord op 0x10000000000) op (on (crownWord op 0x10000000000)) run0 ∧
      placeOf (on (crownWord op 0x10000000000)) (crownWord op 0x10000000000) = .way (crownBase 0) ∧
      inPartition (moved (on (crownWord op 0x10000000000)) here (crownWord op 0x10000000000)) 0 0x10000000000 128 = true ∧
      resolve (moved (on (crownWord op 0x10000000000)) here (crownWord op 0x10000000000)) 0 0x10000000000 = .crown 0 0 ∧
      0x10000000000 / 64 * 64 = 0x10000000000 ∧
      WordRuns here (oneLine op) op (onFilled (oneLine op) (window0 2)) run0 ∧
      placeOf (onFilled (oneLine op) (window0 2)) (oneLine op) =
        .window (windowAddr (onTable (oneLine op) (window0 2)) 0 0 (window0 2)) true ∧
      placeOf (onTable (oneLine op) (window0 2)) (oneLine op) =
        .window (windowAddr (onTable (oneLine op) (window0 2)) 0 0 (window0 2)) false ∧
      WordRuns here (oneLine op) op (on (oneLine op)) run0 ∧ placeOf (on (oneLine op)) (oneLine op) = .closed ∧
      WordRuns here (crownWord op 0x10400000000) op (on (crownWord op 0x10400000000)) run0 ∧
      placeOf (on (crownWord op 0x10400000000)) (crownWord op 0x10400000000) = .outside) ∧
    (∀ op ∈ [0x30, 0x31], ∀ f, f = flying (crownWord op 0) → LoneWord (inAc f 1) (runAt f 1) f op 1 ∧ 1 < crownN f.w ∧
      1 + 1 < wDur f.w) ∧
    (∀ op ∈ [0x30, 0x31], ∀ f, f = { flying (crownWord op 0) with lines := [(1, zeros 64)] } →
      LoneWord (inAc f 97) (runAt f 97) f op 97 ∧ LoneWord (inAc f 65) (runAt f 65) f op 65 ∧
      itemAt 1 f.lines = some (zeros 64) ∧ (zeros 64).length = 64 ∧ wSrc f.w + 64 * 1 + 64 ≤ spadSize) := by
  refine ⟨?_, ?_, ?_⟩
  · intro op ho
    refine ⟨runs _ _ _ rfl ?_ ?_, ?_, ?_, ?_, ?_, runs _ _ _ rfl ?_ ?_, ?_, ?_, runs _ _ _ rfl ?_ ?_, ?_,
      runs _ _ _ rfl ?_ ?_, ?_⟩ <;> revert op <;> decide +kernel
  · intro op ho f hf
    subst hf
    refine ⟨⟨rfl, rfl, rfl, ?_⟩, ?_⟩ <;> revert op <;> decide +kernel
  · intro op ho f hf
    subst hf
    refine ⟨⟨rfl, rfl, rfl, ?_⟩, ⟨rfl, rfl, rfl, ?_⟩, ?_⟩ <;> revert op <;> decide +kernel

/-- A SEND of two lines to a cluster. -/
def sendWord (cl : Nat) : OpWord := word 0x32 [(36, cl), (20, 1), (92, 300)]

theorem witness_SendCopiesWithinThePartition : WordRuns here (sendWord 799) 0x32 (on (sendWord 799)) run0 ∧
    wBits (sendWord 799) 45 36 < 100 * ptSize (moved (on (sendWord 799)) here (sendWord 799)) 0 ∧
    WordRuns here (sendWord 800) 0x32 (on (sendWord 800)) run0 ∧
    100 * ptSize (moved (on (sendWord 800)) here (sendWord 800)) 0 ≤ wBits (sendWord 800) 45 36 ∧
    (busy.part 0).cur = some run0 ∧ run0.ph = .running ∧
    LoneWord (inAc (flying (sendWord 99)) 1) (runAt (flying (sendWord 99)) 1) (flying (sendWord 99)) 0x32 1 ∧
    1 < sendN (sendWord 99) ∧ 1 + 1 < wDur (sendWord 99) ∧
    (∀ cl ∈ [99, 100], ∀ f, f = { flying (sendWord cl) with lines := [(1, zeros 64)] } → ∀ k,
      k = (if f.at_.cl / 100 = wBits f.w 45 36 / 100 then 48 else 160) + 1 → LoneWord (inAc f k) (runAt f k) f 0x32 k ∧
      itemAt 1 f.lines = some (zeros 64) ∧ 32 * wBits f.w 62 46 + 64 * 1 + 64 ≤ spadSize) := by
  refine ⟨runs _ _ _ rfl ?_ ?_, ?_, runs _ _ _ rfl ?_ ?_, ?_, ?_, ?_, ⟨rfl, rfl, rfl, ?_⟩, ?_, ?_, fun cl hc f hf k hk => ?_⟩
  case refine_12 =>
    subst hf hk
    refine ⟨⟨rfl, rfl, rfl, ?_⟩, ?_⟩ <;> revert cl <;> decide +kernel
  all_goals decide +kernel

/-- A stamped chunk of one block, in three lines. -/
def chunk0 : List Byte := bytesAt 192 [(8, [1]), (12, [1]), (14, [2]), (36, [1]), (64, [127])]

/-- A GVSEND that has read it. -/
def sumAir : Flight := { flying (word 0x33 [(20, 2), (92, 10)]) with
  lines := [(0, chunk0.take 64), (1, (chunk0.drop 64).take 64), (2, chunk0.drop 128)] }

/-- A key of grove 0 whose inputs are complete since ac 0, bound for cluster 1. -/
def key0 : GveKey := { id := 0, chunk := chunk0, got := 1, inputs := 1, src := 0, last := 0 }

/-- The key is held. -/
def oneKey : State := { busy with gve := [(0, [key0])] }

/-- The same key with one more input to come. -/
def openKey : State := { busy with gve := [(0, [{ key0 with inputs := 2 }])] }

/-- Its sum is landing. -/
def emit0 : Emit := { c := 1, spa := 0, t := 56, bytes := zeros 192 }

theorem witness_GroveEngineHoldsAndEmitsChunks : LoneWord (inAc sumAir 9) (runAt sumAir 9) sumAir 0x33 9 ∧
    9 + 1 = wDur sumAir.w ∧ sendN sumAir.w ≤ 9 ∧
    (sumAir.lines.flatMap (·.2)).take (chLength (sumAir.lines.flatMap (·.2))) = chunk0 ∧ chKind chunk0 ≠ 2 ∧
    chStamped chunk0 = true ∧ (∀ x ∈ chBlockList chunk0, x.residueOk = true ∧ x.bOk = true) ∧
    gveKeys (inAc sumAir 9) 0 = [] ∧ gveBytes [] + chunk0.length ≤ 8388608 ∧
    (oneKey.part 0).working = some run0 ∧ 56 / acPerBeat run0.tier = oneKey.offset run0 ∧ run0.clock ≤ 56 ∧
    0 < ptSize oneKey 0 ∧ ptSize (oneKey.advance 0 56) 0 = ptSize oneKey 0 ∧
    gveDue (oneKey.advance 0 56) (ptFirst (oneKey.advance 0 56) 0 + 0) 0 56 = some key0 ∧
    chTarget key0.chunk < 100 * ptSize oneKey 0 ∧ chTarget key0.chunk / 100 = 0 ∧
    ((oneKey.advance 0 56).part 0).cur.isSome = true ∧
    (∃ r : StepRun, r = { run0 with emits := [emit0], clock := 58 } ∧ ((withRun r).part 0).cur = some r ∧
      r.flights = [] ∧ r.clock = emit0.t + 2 ∧ 64 * 2 + 64 ≤ emit0.bytes.length ∧ emit0.spa + 64 * 2 + 64 ≤ spadSize) := by
  refine ⟨⟨rfl, rfl, rfl, ?_⟩, ?_, ?_, ?_, ?_, ?_, ?_, ?_, ?_, ?_, ?_, ?_, ?_, ?_, ?_, ?_, ?_, ?_, ⟨_, rfl, ?_⟩⟩ <;> decide +kernel

theorem witness_OpenKeysAtVerifyEndAreFaults : (openKey.part 0).working = some run0 ∧
    openKey.offset run0 = imgVerifyEnd ((openKey.part 0).image run0) ∧
    ({ openKey with cmb := { openKey.cmb with beat := 1001 } } : State).offset run0 ≠
      imgVerifyEnd ((openKey.part 0).image run0) ∧
    (∀ g ∈ ptGroves oneKey 0, ∀ k ∈ gveKeys oneKey g, k.isOpen = false) ∧
    (∃ g ∈ ptGroves openKey 0, ∃ k ∈ gveKeys openKey g, k.isOpen = true) ∧ run0.ph = .running := by decide +kernel

/-- A slot record. -/
def slotBytes (port dir type beat period count start length frames : Nat) : List Byte :=
  [toLE 1 port, toLE 1 dir, toLE 1 type, [0], toLE 4 beat, toLE 4 period, toLE 4 count, toLE 4 start, toLE 4 length,
    toLE 2 frames, zeros 6].flatten

/-- A segment record. -/
def segBytes (slot offset lines cluster : Nat) : List Byte :=
  [toLE 4 slot, toLE 4 offset, toLE 4 lines, toLE 2 cluster, [0, 0]].flatten

/-- A slot table. -/
def slotSec (slots segs grafts : List (List Byte)) : List Byte × List Byte :=
  (sharedKey 0x21, [toLE 4 slots.length, toLE 4 segs.length, toLE 4 grafts.length, zeros 4, zeros 64, slots.flatten,
    segs.flatten, grafts.flatten].flatten)

/-- A transmit slot in beat 10, a receive slot in beat 0 and a relayed one in beat 10, each with a segment of cluster 0. -/
def linkTable : List Byte × List Byte := slotSec
  [slotBytes 0 0 3 10 1 1 6400 640 1, slotBytes 0 1 3 0 1 1 6400 640 1, slotBytes 0 2 3 10 1 1 6400 640 1]
  [segBytes 0 0 2 0, segBytes 1 0 2 0, segBytes 2 0 2 0] []

/-- Word w is due under the link table, and the receive slot's message has landed, or has not. -/
def onLink (w : OpWord) (arrived : Bool) : State :=
  under run0 (image [(secKey 0x10 0 0 0 0, streamSec [w] []), linkTable]) [{ slot := 1, occ := 0, data := zeros 256, arrived }]

/-- LKTX or LKRX of two lines of a segment, DELTA ac after the start. -/
def linkWord (op seg delta : Nat) : OpWord := word op [(31, 1), (47, seg), (92, 50), (108, delta)]

/-- The image and the flight of a link word at its start. -/
def linkImg (s : State) (w : OpWord) : List Byte := stepImage (moved s here w) 0

/-- A receive 800 ac into the step. -/
def lateReceive (arrived : Bool) : State := { onLink (linkWord 0x35 1 800) arrived with
  parts := [(0, { cur := some run0, slotA := { st := .accepted, image := image [(secKey 0x10 0 0 0 0,
    streamSec [linkWord 0x35 1 800] []), linkTable] } })] }

/-- Link words under way. -/
def linkAir (op seg : Nat) (lines : List (Nat × List Byte)) : Flight := { counted (linkWord op seg 0) 1 with lines := lines }

theorem witness_LinkWordsMoveSlotBuffers :
    WordRuns here (linkWord 0x34 0 0) 0x34 (onLink (linkWord 0x34 0 0) true) run0 ∧
    (segRec (linkImg (onLink (linkWord 0x34 0 0) true) (linkWord 0x34 0 0)) 0).graft = false ∧
    (slotRec (linkImg (onLink (linkWord 0x34 0 0) true) (linkWord 0x34 0 0)) 0).dir = 0 ∧
    (slotRec (linkImg (onLink (linkWord 0x34 0 0) true) (linkWord 0x34 0 0)) 0).firstFrom (acPerBeat 0)
      ((0 + wDur (linkWord 0x34 0 0)) * 64000 + 16384 * acPerBeat 0) = some 0 ∧
    WordRuns here (linkWord 0x34 2 0) 0x34 (onLink (linkWord 0x34 2 0) true) run0 ∧
    (slotRec (linkImg (onLink (linkWord 0x34 2 0) true) (linkWord 0x34 2 0)) 2).dir ≠ 0 ∧
    (slotRec (linkImg (onLink (linkWord 0x34 2 0) true) (linkWord 0x34 2 0)) 2).firstFrom (acPerBeat 0)
      ((0 + wDur (linkWord 0x34 2 0)) * 64000) = some 0 ∧
    (∀ b : Bool, WordRuns here (linkWord 0x35 1 800) 0x35 (lateReceive b) run0 ∧
      (slotRec (linkImg (lateReceive b) (linkWord 0x35 1 800)) 1).lastBy
        (manLmax (linkImg (lateReceive b) (linkWord 0x35 1 800)) 0) (acPerBeat 0) (800 * 64000) = some 0 ∧
      (slotBuf ((moved (lateReceive b) here (linkWord 0x35 1 800)).ptBufs 0).rx 1 0).arrived = b ∧
      (slotRec (linkImg (lateReceive b) (linkWord 0x35 1 800)) 1).type ≠ 2) ∧
    (∀ k < 2, ∀ f, f = linkAir 0x34 0 [] → LoneWord (inAc f k (linkImg (onLink (linkWord 0x34 0 0) true) 0)) (runAt f k) f 0x34 k ∧
      (linkSeg (inAc f k (linkImg (onLink (linkWord 0x34 0 0) true) 0)) f).graft = false ∧ k < linkN f.w ∧ k + 1 < wDur f.w) ∧
    (∀ op ∈ [0x34, 0x35], ∀ f, f = linkAir op 0 [(1, zeros 64)] →
      LoneWord (inAc f 35 (linkImg (onLink (linkWord 0x34 0 0) true) 0)) (runAt f 35) f op 35 ∧ 35 = crossing (runAt f 35).tier + 1 ∧
      itemAt 1 f.lines = some (zeros 64) ∧ wSrc f.w + 64 * 1 + 64 ≤ spadSize) ∧
    (∀ f, f = linkAir 0x35 1 [] → LoneWord (inAc f 0) (runAt f 0) f 0x35 0 ∧ 0 < f.cnt ∧ f.bytes = []) := by
  refine ⟨runs _ _ _ rfl ?_ ?_, ?_, ?_, ?_, runs _ _ _ rfl ?_ ?_, ?_, ?_, fun b => ?_, fun k hk f hf => ?_,
    fun op ho f hf => ?_, fun f hf => ?_⟩
  case refine_10 => refine ⟨runs _ _ _ rfl ?_ ?_, ?_⟩ <;> revert b <;> decide +kernel
  case refine_11 =>
    subst hf
    refine ⟨⟨rfl, rfl, rfl, ?_⟩, ?_⟩ <;> revert k <;> decide +kernel
  case refine_12 =>
    subst hf
    refine ⟨⟨rfl, rfl, rfl, ?_⟩, ?_⟩ <;> revert op <;> decide +kernel
  case refine_13 =>
    subst hf
    refine ⟨⟨rfl, rfl, rfl, ?_⟩, ?_⟩ <;> decide +kernel
  all_goals decide +kernel

theorem witness_StashBlocksReadBack : (zeros 64).length = 64 * 1 := by decide

/-- A manifest with STASH_CROWN, STASH_HBM and STASH_MODE. -/
def stashManifest (crown hbm mode : Nat) : List Byte × List Byte :=
  (sharedKey 1, bytesAt 0x130 [(0, toLE 8 (2 ^ 20)), (0xB8, toLE 8 crown), (0xC0, toLE 8 hbm), (0xD2, toLE 1 mode)])

/-- A record of one line. -/
def rec0 : StashRec := { tag := 5, n := 1, born := 0, at_ := 0, pushEnd := 0, blocks := [⟨1, zeros 64, false⟩] }

/-- STPUSH and STPOP of a record of one line with TAG 5. -/
def stashWord (op tag : Nat) : OpWord := word op [(47, tag), (92, 150)]

/-- Word w is due, and the record is the newest of cluster 0. -/
def onStash (w : OpWord) : State :=
  { under run0 (image [(secKey 0x10 0 0 0 0, streamSec [w] []), stashManifest 1024 0 0]) with
    clusters := [(0, { stash := [rec0] })] }

/-- A push of one line that has been read, over an empty record of its own. -/
def pushAir : Flight := { flying (stashWord 0x38 5) with lines := [(0, zeros 64)] }

/-- The push in its ac 8 with a stash of `crown` bytes in a mode, over older blocks. -/
def pushing (crown mode : Nat) (old : List StashBlk) : State :=
  { inAc pushAir 8 (image [stashManifest crown 0 mode]) with
    clusters := [(0, { stash := [{ rec0 with blocks := [] }, { rec0 with born := 9, blocks := old }] })] }

/-- A pop that holds what it delivers. -/
def popAir : Flight := { flying (stashWord 0x39 5) with bytes := zeros 64 }

theorem witness_StashPushesAndPopsRecords : WordRuns here (stashWord 0x38 5) 0x38 (onStash (stashWord 0x38 5)) run0 ∧
    WordRuns here (stashWord 0x39 5) 0x39 (onStash (stashWord 0x39 5)) run0 ∧
    ((moved (onStash (stashWord 0x39 5)) here (stashWord 0x39 5)).cluster 0).stash = [rec0] ∧
    rec0.tag = stashTag (stashWord 0x39 5) ∧ rec0.n = stashN (stashWord 0x39 5) ∧
    rec0.outside (stepImage (moved (onStash (stashWord 0x39 5)) here (stashWord 0x39 5)) 0) = false ∧
    WordRuns here (stashWord 0x39 6) 0x39 (onStash (stashWord 0x39 6)) run0 ∧
    ¬(rec0.tag = stashTag (stashWord 0x39 6) ∧ rec0.n = stashN (stashWord 0x39 6)) ∧
    (∀ crown mode old, LoneWord (pushing crown mode old) (runAt pushAir 8) pushAir 0x38 8) ∧
    pushBlock (stashN pushAir.w) 8 = some 0 ∧ (pushAir.lines.filter fun l => l.1 / 16 = 0).length = 1 ∧
    ((pushing 1024 0 []).cluster 0).stash.head? = some { rec0 with blocks := [] } ∧ rec0.born = pushAir.t ∧
    stashOver ((pushing 1024 0 []).cluster 0).stash = false ∧
    stashUsed ((pushing 1024 0 []).cluster 0).stash + (storeBlock (zeros 64)).length ≤
      stashRoom (stepImage (pushing 1024 0 []) 0) ∧
    stashOver ((pushing 1024 0 [⟨1, zeros 64, true⟩]).cluster 0).stash = true ∧
    manStashMode (stepImage (pushing 1024 0 []) 0) ≠ 1 ∧
    stashRoom (stepImage (pushing 0 0 []) 0) < stashUsed ((pushing 0 0 []).cluster 0).stash + (storeBlock (zeros 64)).length ∧
    stashRoom (stepImage (pushing 0 1 []) 0) < stashUsed ((pushing 0 1 []).cluster 0).stash + (storeBlock (zeros 64)).length ∧
    manStashMode (stepImage (pushing 0 1 []) 0) = 1 ∧ (runAt pushAir 8).ph = .running ∧
    LoneWord (inAc popAir 104) (runAt popAir 104) popAir 0x39 104 ∧ 104 = 104 + 0 ∧ 0 < stashN popAir.w ∧
    64 * 0 + 64 ≤ popAir.bytes.length ∧ wSrc popAir.w + 64 * 0 + 64 ≤ spadSize := by
  refine ⟨runs _ _ _ rfl ?_ ?_, runs _ _ _ rfl ?_ ?_, ?_, ?_, ?_, ?_, runs _ _ _ rfl ?_ ?_, ?_,
    fun _ _ _ => ⟨rfl, rfl, rfl, ?_⟩, ?_, ?_, ?_, ?_, ?_, ?_, ?_, ?_, ?_, ?_, ?_, ?_, ⟨rfl, rfl, rfl, ?_⟩, ?_⟩ <;> decide +kernel

/-- Partition 0 has keys. -/
def tenant : Tenancy := { st := .opened, hbmKey := some 5, ckptKey := some 6, started := true }

/-- A step whose cluster 0 pops a record of one line 8 beats on, which lies wholly in HBM and was pushed up to beat 999. -/
def stashed (e : StashRec) : State :=
  { under run0 (image [(secKey 0x10 0 0 0 0, streamSec [word 0x39 [(47, 5), (108, 8 * 850)]] []), stashManifest 0 1024 0]) with
    clusters := [(0, { stash := [e] })], ten := [(0, tenant)] }

/-- The stack byte of the record's line. -/
def lineByte : Nat := stashHbm (stashed rec0) (((stashed rec0).part 0).image run0) 0 0 0

/-- The record as its push ended in beat 999. -/
def outRec : StashRec := { rec0 with pushEnd := 999 }

/-- The stack with the record's line written. -/
def fetching : State := hbmWrite (stashed outRec) (stashStack (stashed outRec) 0 0) lineByte (zeros 64)

theorem witness_StashTrafficMarksRecords : ((stashed outRec).part 0).working = some run0 ∧
    ((stashed outRec).cluster 0).stash = [outRec] ∧ outRec.outside (((stashed outRec).part 0).image run0) = true ∧
    outRec.ovf = [] ∧ outRec.comp.length % 64 = 0 ∧
    (∀ l ∈ outRec.hbmLines (((stashed outRec).part 0).image run0),
      stashHbm (stashed outRec) (((stashed outRec).part 0).image run0) 0 0 l.1 < stackBytes) ∧
    outRec.written = false ∧ outRec.pushEnd + 1 = (stashed outRec).cmb.beat ∧
    (hbmKey (stashed outRec) (stashStack (stashed outRec) 0 0)).isSome = true ∧ outRec.staged = none ∧
    (∀ l ∈ fetching.mb.lost, l.pt ≠ 0) ∧ (fetching.part 0).working = some run0 ∧ (fetching.cluster 0).stash = [outRec] ∧
    (∀ l ∈ outRec.hbmLines ((fetching.part 0).image run0),
      poisoned fetching (stashStack fetching 0 0) (stashHbm fetching ((fetching.part 0).image run0) 0 0 l.1) = false ∧
      hbmRead fetching (stashStack fetching 0 0) (stashHbm fetching ((fetching.part 0).image run0) 0 0 l.1) = l.2) ∧
    (popsIn ((fetching.offset run0 + 8) * acPerBeat run0.tier) ((fetching.offset run0 + 9) * acPerBeat run0.tier)
      ((stashAhead fetching 0 0 run0).foldl (fun l x => insertAhead x l) []) [some outRec]).any (fun d => d.born == outRec.born) =
        true ∧
    rec0.pushEnd + 1 ≠ (stashed rec0).cmb.beat ∧ ({ outRec with staged := some [] } : StashRec).staged ≠ none := by
  decide +kernel

/-- Partition 0 under a Crown table, at work with its keys. -/
def crowned (e : CrownEntry) : State :=
  { under run0 (image [(secKey 0x11 0 0 0xFFFF 0xFF, crownTable e)]) with ten := [(0, tenant)] }

theorem witness_CrownWindowsFillAndWriteBack :
    (∀ e ∈ [window0 2, window0 0], resolve (crowned e) 0 e.hbmAddr = .hbm 0 64 ∧
      inPartition (crowned e) 0 e.hbmAddr (64 * e.lines) = true ∧ 64 + 64 * e.lines ≤ stackBytes ∧ e.way < 256 ∧
      e.offset < 2 ^ 32 ∧ e.lines < 2 ^ 32 ∧ crownDue (crowned e) 0 0 e e.fillBeat = true ∧
      windowHeld (crowned e) 0 0 e = false ∧ e.fill = true ∧ (∀ i < e.lines, poisoned (crowned e) 0 (64 + 64 * i) = false) ∧
      (∀ l ∈ (crowned e).mb.lost, l.pt ≠ 0) ∧ e.writeBack = true ∧ (hbmKey (crowned e) 0).isSome = true) ∧
    crownDue (crowned (window0 0)) 0 0 (window0 0) (window0 0).closeBeat = true ∧
    crownDue (crowned (window0 2)) 0 0 (window0 2) (window0 2).closeBeat = false ∧
    crownDue (crowned (window0 2)) 0 1 (window0 2) (window0 2).fillBeat = false := by decide +kernel

/-- A DMA copy of one line from HBM to Crown. -/
def copy0 : DmaEntry := { beat := 0, kind := 1, grove := 0, src := 64, dst := 0x10000000000, lines := 1 }

/-- Its table. -/
def dmaTable : List Byte := bytesAt 48 [(0, [1]), (20, [1]), (24, toLE 8 64), (32, toLE 8 0x10000000000), (40, [1])]

/-- The copy is due, or in its write beat. -/
def dmaAt (beat : DWord) (l : List DmaPend) : State :=
  let s := under run0 (image [(secKey 0x12 0 0xFF 0xFFFF 0xFF, dmaTable)])
  { s with cmb := { s.cmb with beat }, mb := { dma := l } }

/-- What it read. -/
def pend0 : DmaPend := { pt := 0, entry := copy0, data := [[1, 2]] }

theorem witness_DmaCopiesReadThenWrite : dmaDue (dmaAt 1001 []) 0 copy0 = false ∧ dmaDue (dmaAt 1000 []) 0 copy0 = true ∧
    (∀ d ∈ (dmaAt 1000 []).mb.dma, ¬(d.pt = 0 ∧ d.entry = copy0)) ∧
    inPartition (dmaAt 1000 []) 0 copy0.src (64 * copy0.lines) = true ∧ resolve (dmaAt 1000 []) 0 copy0.src = .hbm 0 64 ∧
    (∀ i < copy0.lines, poisoned (dmaAt 1000 []) 0 (64 + 64 * i) = false) ∧ (∀ l ∈ (dmaAt 1000 []).mb.lost, l.pt ≠ 0) ∧
    pend0 ∈ (dmaAt 1001 [pend0]).mb.dma ∧ pend0.pt = 0 ∧ pend0.entry = copy0 ∧
    (∀ x ∈ (dmaAt 1001 [pend0]).mb.dma, x.pt = 0 → x.entry = copy0 → x = pend0) ∧
    dmaWrites (dmaAt 1000 [pend0]) pend0 = false ∧ dmaWrites (dmaAt 1001 [pend0]) pend0 = true ∧ pend0.late = false ∧
    inPartition (dmaAt 1001 [pend0]) 0 copy0.dst (64 * copy0.lines) = true ∧
    (∀ i < pend0.data.length, resolve (dmaAt 1001 [pend0]) 0 (copy0.dst + 64 * i) = .crown 0 (0 + 64 * i)) ∧
    ((dmaAt 1001 [pend0]).part 0).running = some run0 ∧ run0.ph = .running := by decide +kernel

/-! ## Witnesses: the Pith units and the commit -/

/-- A descriptor of a tensor of 32 elements in one row. -/
def tensor (rule : Nat) : TensorDesc :=
  { tensor := 1, rule := rule, flags := 0, copyFmt := 2, iters := 4, pRoot := 2, thinN := 1, thinPhase := 0, rslice := 2,
    copyTensor := 1, k := 1, rows := 1, cols := 32, row0 := 0, col0 := 0, logRows := 1, logCols := 32,
    masterAddr := 0, stateAddr := 4096, gradAddr := 16384, copyAddr := 32768, lr := 0x3F800000, beta1 := 0, beta2 := 0,
    eps := 0x3F800000, wd := 0, scale := 0x3F800000, nsA := 0, nsB := 0, nsC := 0, damp := 0, chunks := 1 }

/-- Its 128 bytes in a Pith program. -/
def descBytes (d : TensorDesc) : List Byte :=
  toLE 2 d.tensor ++ toLE 1 d.rule ++ [d.flags] ++ toLE 1 d.copyFmt ++ toLE 1 d.iters ++ toLE 1 d.pRoot ++ toLE 1 d.thinN ++
    toLE 1 d.thinPhase ++ toLE 1 d.rslice ++ toLE 2 d.copyTensor ++
    ([d.k, d.rows, d.cols, d.row0, d.col0, d.logRows, d.logCols].flatMap fun n => toLE 4 n) ++
    ([d.masterAddr, d.stateAddr, d.gradAddr, d.copyAddr].flatMap fun n => toLE 8 n) ++
    ([d.lr, d.beta1, d.beta2, d.eps, d.wd, d.scale, d.nsA, d.nsB, d.nsC, d.damp].flatMap fun x => toLE 4 x.toNat) ++
    toLE 4 d.chunks ++ zeros 12

/-- A program of one descriptor with a phase of every operation in beat 0 at 32 elements a beat, VERIFY_END and NORM_BEAT 0, and
CLIP 1.0. -/
def progSec (d : TensorDesc) : List Byte × List Byte :=
  (secKey 0x20 0xFF 0 0xFFFF 0xFF, bytesAt 64 [(0, [1]), (4, [6]), (16, [2]), (20, toLE 4 0x3F800000)] ++ descBytes d ++
    ([1, 2, 3, 4, 5, 6].flatMap fun op => bytesAt 32 [(0, toLE 1 op), (1, [1]), (8, [1]), (20, [32])]))

/-- Step r works in partition 0 under the program, with the partition's keys. -/
def pith (r : StepRun) (d : TensorDesc) (more : List (List Byte × List Byte) := []) : State :=
  { under r (image (progSec d :: more)) with ten := [(0, tenant)] }

/-- The same in the beat after the phases. -/
def pithLater (r : StepRun) (d : TensorDesc) : State :=
  let s := pith r d
  { s with cmb := { s.cmb with beat := 1001 } }

theorem pithRuns (r : StepRun) (d : TensorDesc) (h : r.ph = .running ∨ r.ph = .committed) (h2 : r.replay = false)
    (h3 : r.tripped = false := by rfl) :
    PithRuns (pith r d) 0 0 0 r := by
  refine ⟨by decide, by change 0 < 16; decide, ?_, h3, rfl, rfl⟩
  simp [pith, under, State.part, mget, Part.working, Part.running, h, h2]

/-- The landed gradient of the tensor: one block with a FLAGS byte, and its chunk's header. -/
def landed (r : StepRun) (b : Byte) : State :=
  hbmWrite (hbmWrite (hbmWrite (pith r (tensor 1)) 0 16384 (bytesAt 64 [(1, [b])])) 0 16448 (zeros 64)) 0
    (Desc.chunkAddr (tensor 1) 0) (bytesAt 64 [(8, [1])])

theorem witness_VerifyAcceptsOrFaultsTheLandedSums : PithRuns (pith run0 (tensor 1)) 0 0 0 run0 ∧ run0.ph = .running ∧
    elemsDue (pith run0 (tensor 1)) 0 0 run0 1 (tensor 1) (Desc.elems (tensor 1) - 1) (Desc.elems (tensor 1)) = true ∧
    elemsDue (pithLater run0 (tensor 1)) 0 0 run0 1 (tensor 1) (Desc.elems (tensor 1) - 1) (Desc.elems (tensor 1)) = false ∧
    (∀ b ∈ [0, 1], CleanAreas (landed run0 b) 0 0 (verifyReads (landed run0 b) 0 (tensor 1))) ∧
    landedFault (landed run0 1) 0 run0 (tensor 1) ((List.range (tensor 1).chunks).map (gradHead (landed run0 1) 0 (tensor 1)))
      (gradBlocks (landed run0 1) 0 (tensor 1)) 0 = none ∧
    landedFault (landed run0 0) 0 run0 (tensor 1) ((List.range (tensor 1).chunks).map (gradHead (landed run0 0) 0 (tensor 1)))
      (gradBlocks (landed run0 0) 0 (tensor 1)) 0 = some 0 := by
  refine ⟨pithRuns _ _ (by decide) rfl, ?_, ?_, ?_, ?_, ?_, ?_⟩ <;> first
    | decide +kernel
    | (unfold CleanAreas Unpoisoned; decide +kernel)

/-- A step whose host gave the norm: SW_NORM set and Q in the body. -/
def normed (q : Word) : StepRun := { run0 with body := bytesAt 96 [(2, [1]), (32, toLE 4 q.toNat)] }

theorem witness_NormFormsTheClippingCoefficient :
    (∀ q, ((pith (normed q) (tensor 1)).part 0).working = some (normed q) ∧ (normed q).coef = none ∧ (normed q).skip = false) ∧
    [0x40800000, 0x3E800000, 0x7F800000].map (fun q => stepQ (normed q)) = [0x40800000, 0x3E800000, 0x7F800000] ∧
    imgClip (((pith (normed 0) (tensor 1)).part 0).image (normed 0)) = 0x3F800000 ∧
    normDue (pith (normed 0) (tensor 1)) 0 (normed 0) = true ∧ normDue (pithLater (normed 0) (tensor 1)) 0 (normed 0) = false ∧
    (ofF32 0x40800000).isFin = true ∧ fLe (fSqrt (ofF32 0x40800000)) 0x3F800000 = false ∧
    fDiv 0x3F800000 (fSqrt (ofF32 0x40800000)) ≠ oneF32 ∧ (ofF32 0x3E800000).isFin = true ∧
    fLe (fSqrt (ofF32 0x3E800000)) 0x3F800000 = true ∧ (ofF32 0x7F800000).isFin = false := by
  refine ⟨fun q => ⟨rfl, rfl, rfl⟩, ?_⟩
  decide +kernel

theorem witness_PrepLeavesTheOrthogonalUpdate : PithRuns (pith run0 (tensor 3)) 0 0 0 run0 ∧
    matrixDue (pithLater run0 (tensor 3)) 0 0 run0 3 (tensor 3) = false ∧
    matrixDue (pith run0 (tensor 3)) 0 0 run0 3 (tensor 3) = true ∧ (tensor 3).rule = 3 ∧
    CleanAreas (pith run0 (tensor 3)) 0 0 (prepReads (pith run0 (tensor 3)) 0 (tensor 3) run0) ∧
    Desc.due (tensor 3) (((pith run0 (tensor 3)).part 0).commits.toNat + 1) = true ∧ 0 < (tensor 3).rows ∧ 0 < (tensor 3).cols ∧
    clipCoef (stepQ run0) (imgClip (((pith run0 (tensor 3)).part 0).image run0)) = some oneF32 ∧
    Unpoisoned (pith run0 (tensor 3)) 0 (Desc.workX (tensor 3)) (8 * Desc.elems (tensor 3)) ∧
    Desc.workX (tensor 3) + 8 * Desc.elems (tensor 3) ≤ stackBytes := by
  refine ⟨pithRuns _ _ (by decide) rfl, ?_, ?_, ?_, ?_, ?_, ?_, ?_, ?_, ?_, ?_⟩ <;> first
    | decide +kernel
    | (unfold CleanAreas Unpoisoned; decide +kernel)
    | (unfold Unpoisoned; decide +kernel)

/-- A committed step with its coefficient. -/
def applied0 : StepRun := { done0 with coef := some oneF32 }

/-- It has landed, over a tensor header of zeros. -/
def applying : State := hbmWrite (landed applied0 1) 0 4096 (zeros 64)

theorem witness_ApplyUpdatesTheMasters : PithRuns applying 0 0 0 applied0 ∧ (tensor 1).rule = 1 ∧
    32 = Desc.elems (tensor 1) ∧ run0.ph ≠ .committed ∧
    elemsDue (pithLater applied0 (tensor 1)) 0 0 applied0 4 (tensor 1) 0 32 = false ∧ applied0.ph = .committed ∧
    elemsDue applying 0 0 applied0 4 (tensor 1) 0 32 = true ∧ applied0.coef = some oneF32 ∧
    (tensor 1).flags = 0 ∧ Desc.due (tensor 1) (applying.part 0).commits.toNat = true ∧
    (tensor 1).masterAddr % 64 = 0 ∧ (tensor 1).stateAddr % 64 = 0 ∧ (tensor 1).gradAddr % 64 = 0 ∧
    Apart (tensor 1).masterAddr (4 * 32) (tensor 1).stateAddr (Desc.itemAddr (tensor 1) 9 - (tensor 1).stateAddr) ∧
    Apart (tensor 1).gradAddr (72 * Desc.blocks (tensor 1)) (tensor 1).stateAddr 64 ∧
    (tensor 1).masterAddr + 4 * 32 ≤ stackBytes ∧ Desc.itemAddr (tensor 1) 9 ≤ stackBytes ∧
    CleanAreas applying 0 0 (((tensor 1).stateAddr, 64) :: applyReads (tensor 1) 0 32) ∧
    (∀ k < Desc.blocks (tensor 1), (gradBlock applying 0 (tensor 1) k).ovf = false) ∧
    (tHead applying 0 (tensor 1)).t + 1 < 2 ^ 64 := by
  refine ⟨⟨by decide, by decide, rfl, rfl, rfl, rfl⟩, ?_, ?_, ?_, ?_, ?_, ?_, ?_, ?_, ?_, ?_, ?_, ?_, ?_, ?_, ?_, ?_, ?_, ?_, ?_⟩ <;> first
    | decide +kernel
    | (unfold Apart; decide +kernel)
    | (unfold CleanAreas Unpoisoned; decide +kernel)

theorem witness_CopyWritesTheWorkingCopy : PithRuns (pith done0 (tensor 1)) 0 0 0 done0 ∧ 32 = Desc.elems (tensor 1) ∧
    run0.ph ≠ .committed ∧ elemsDue (pithLater done0 (tensor 1)) 0 0 done0 5 (tensor 1) 0 32 = false ∧ done0.ph = .committed ∧
    elemsDue (pith done0 (tensor 1)) 0 0 done0 5 (tensor 1) 0 32 = true ∧ (tensor 1).copyFmt = 2 ∧ 0 < (tensor 1).cols ∧
    Desc.due (tensor 1) ((pith done0 (tensor 1)).part 0).commits.toNat = true ∧
    Apart (tensor 1).masterAddr (4 * 32) (tensor 1).copyAddr (2 * 32) ∧
    Unpoisoned (pith done0 (tensor 1)) 0 (tensor 1).copyAddr (2 * 32) ∧ (tensor 1).copyAddr + 2 * 32 ≤ stackBytes ∧
    Unpoisoned (pith done0 (tensor 1)) 0 (tensor 1).masterAddr (4 * 32) := by
  refine ⟨pithRuns _ _ (by decide) rfl, ?_, ?_, ?_, ?_, ?_, ?_, ?_, ?_, ?_, ?_, ?_, ?_⟩ <;> first
    | decide +kernel
    | (unfold Apart; decide +kernel)
    | (unfold Unpoisoned; decide +kernel)

/-- The header of a rule 4 tensor with one snapshot and no iteration done. -/
def snapped (r : StepRun) : State := hbmWrite (pith r (tensor 4)) 0 4096 (bytesAt 64 [(20, [1])])

theorem witness_RefreshProgressCountsOnlyWithTheCommit :
    (∀ r ∈ [run0, done0], PithRuns (snapped r) 0 0 0 r ∧ matrixDue (snapped r) 0 0 r 6 (tensor 4) = true ∧
      CleanAreas (snapped r) 0 0 (refreshReads (tensor 4) (tHead (snapped r) 0 (tensor 4)).r) ∧
      Unpoisoned (snapped r) 0 (Desc.itemAddr (tensor 4) 8) (Desc.itemSize (tensor 4) 8) ∧
      0 < (tHead (snapped r) 0 (tensor 4)).snaps ∧ (tHead (snapped r) 0 (tensor 4)).r < (tensor 4).iters ∧
      r.hasRefreshed 0 (tensor 4) = false) ∧ matrixDue (pithLater run0 (tensor 4)) 0 0 run0 6 (tensor 4) = false ∧
    ({ run0 with refreshed := [(0, (tensor 4).stateAddr)] } : StepRun).hasRefreshed 0 (tensor 4) = true ∧ (tensor 4).rule = 4 ∧
    (tensor 4).stateAddr % 64 = 0 ∧ Desc.itemAddr (tensor 4) 8 + Desc.itemSize (tensor 4) 8 ≤ stackBytes ∧
    (tensor 4).iters < 256 ∧ run0.ph = .running ∧ done0.ph = .committed := by
  unfold PithRuns CleanAreas Unpoisoned
  decide +kernel

theorem witness_LatePhasesFaultOrMark : 0 < 2 * up.variant.stacks ∧ 31 < 2 * up.variant.stacks ∧
    ((pith run0 (tensor 1)).part 0).working = some run0 ∧ ((pith done0 (tensor 1)).part 0).working = some done0 ∧
    phasesEnding (pithLater run0 (tensor 1)) 0 0 4 run0 = [] ∧ phasesEnding (pith run0 (tensor 1)) 0 1 4 run0 = [] ∧
    phasesEnding (pith run0 (tensor 1)) 0 0 4 run0 ≠ [] ∧
    (tensor 1).tensor ∈ phaseTensors (secPith (((pith done0 (tensor 1)).part 0).image done0)
      (relStack (pith done0 (tensor 1)) 0 (0 / 2))) (phasesEnding (pith done0 (tensor 1)) 0 0 4 done0) := by decide +kernel

/-- A discarded step with a copy line that waits for its regeneration. -/
def gap0 : State := { pith { run0 with ph := .discarded } (tensor 1) with mb := { regen := [(0, 0, 1, 0)] } }

theorem witness_RegenerationRewritesTheCopyLine : (0 : Nat) < gap0.variant.stacks ∧ (gap0.part 0).running = none ∧
    (gap0.part 0).cur = some { run0 with ph := .discarded } ∧ (ptStacks gap0 0)[0]? = some 0 ∧ (hbmKey gap0 0).isSome = true ∧
    (0, 0, (tensor 1).tensor, 0) ∈ gap0.mb.regen ∧ (0, 0, (tensor 1).tensor, 1) ∉ gap0.mb.regen ∧
    tensor 1 ∈ descs (secPith ((gap0.part 0).image { run0 with ph := .discarded }) 0) ∧
    (∀ a ∈ regenReads (tensor 1) (copySpan (tensor 1) 0).1 (copySpan (tensor 1) 0).2, Unpoisoned gap0 0 a.1 a.2) ∧
    (tensor 1).copyAddr / 64 * 64 + 64 * 0 < stackBytes ∧
    (tensor 1).copyAddr % 64 + (copySpan (tensor 1) 0).1 - 64 * 0 + (copyBytes gap0 0 (tensor 1)
      (({ run0 with ph := .discarded } : StepRun).history 1) (copySpan (tensor 1) 0).1 (copySpan (tensor 1) 0).2).length ≤ 64 := by
  unfold Unpoisoned
  decide +kernel

/-- A configuration commit is due at the boundary. -/
def commitWaits : State := { busy with cfg := { busy.cfg with pending := true, remain := some 0 } }

theorem witness_CommitNeedsAFaultFreeStep : (busy.part 0).running = some run0 ∧ run0.ph = .running ∧ run0.replay = false ∧
    run0.faulted = false ∧ run0.noticed = false ∧ commitDue busy = false ∧ commitDue commitWaits = true ∧
    busy.offset run0 = manCommitBeat ((busy.part 0).image run0) ∧ ({ run0 with faulted := true } : StepRun).faulted = true ∧
    ({ run0 with noticed := true } : StepRun).noticed = true := by decide +kernel

/-- One broadcast slot of one frame in beat 10. -/
def broadcastTable : List Byte × List Byte := slotSec [slotBytes 0 0 2 10 1 1 6400 640 1] [] []

/-- External events of 16 bytes each. -/
def eventSec (l : List (Nat × Nat × Nat × Nat)) : List Byte × List Byte :=
  (sharedKey 3, l.flatMap fun e => toLE 4 e.1 ++ toLE 2 e.2.1 ++ toLE 2 e.2.2.1 ++ toLE 8 e.2.2.2)

/-- A step in its beat 10. -/
def tenth (r : StepRun) : StepRun := { r with start := 990 }

/-- A broadcast from line 1 of the copy of descriptor 0 on. -/
def broadcasting (r : StepRun) : State :=
  pith r { tensor 1 with rows := 4, logRows := 4 } [broadcastTable, eventSec [(10, 4, 0, 2 ^ 32)]]

/-- The broadcast's descriptor. -/
def castDesc : TensorDesc := { tensor 1 with rows := 4, logRows := 4 }

theorem witness_BroadcastsCarryTheCommittedCopy :
    (∀ r ∈ [tenth run0, tenth done0, run0], ((broadcasting r).part 0).running = some r ∧ r.replay = false) ∧
    castDue (((broadcasting run0).part 0).image run0) ((broadcasting run0).offset run0) 0 0 (0, castDesc, 1) = false ∧
    ({ tenth done0 with tripped := true } : StepRun).tripped = true ∧ (tenth done0).tripped = false ∧
    (∀ r ∈ [tenth run0, tenth done0],
      castDue (((broadcasting r).part 0).image r) ((broadcasting r).offset r) 0 0 (0, castDesc, 1) = true ∧
      (ptStacks (broadcasting r) 0)[0]? = some 0 ∧ 0 < (broadcasting r).variant.stacks) ∧
    (tenth run0).ph = .running ∧ (tenth done0).ph = .committed ∧ (castDesc.copyAddr + 64 * 1) % 64 = 0 ∧
    192 = min ((slotRec (((broadcasting (tenth done0)).part 0).image (tenth done0))
      0).payload / 64 * 64) (Desc.copySize castDesc - 64 * 1) ∧
    (∀ i < ceilDiv 192 64, poisoned (broadcasting (tenth done0)) 0 (castDesc.copyAddr + 64 * 1 + 64 * i) = false) := by
  decide +kernel

/-- A step whose STEP names the export object 1. -/
def exportRun : StepRun := { done0 with body := bytesAt 96 [(48, [1])] }

/-- The tensor exports its shard. -/
def exported : TensorDesc := { tensor 1 with flags := 4 }

/-- The step in the beat of an export event. -/
def exportBase (events : List (Nat × Nat × Nat × Nat)) : State := pith exportRun exported [eventSec events]

/-- Its object is just large enough for the record. -/
def exporting : State := { exportBase [(0, 6, 0, 0)] with
  hif := { ctxs := [(0, { live := true, objs := [(1, { live := true, kind := 2, length := exportRun.exportOff + exportRun.expOff +
    (exportBytes 6 ((exportBase [(0, 6, 0, 0)]).part 0).commits exported
      ⟨1, shardBytes (exportBase [(0, 6, 0, 0)]) 0 exported⟩ 0).length })] })] } }

theorem witness_ExportsRunUntilTheyAreDone : PithRuns exporting 0 0 0 exportRun ∧ (up.tenancy 0).ckptKey = none ∧
    (∀ e ∈ eventsAt (((exportBase []).part 0).image exportRun) 6 ((exportBase []).offset exportRun), e.object ≠ 0) ∧
    (exporting.tenancy 0).ckptKey = some 6 ∧ exported.flags = 4 ∧
    exporters ((exporting.part 0).image exportRun) 0 = [exported] ∧
    (∃ e ∈ eventsAt ((exporting.part 0).image exportRun) 6 (exporting.offset exportRun), e.object = 0) ∧
    exportRun.exportObj ≠ 0 ∧ exportRun.expShort = false ∧
    CleanAreas exporting 0 0 (exportReads exported ((exporting.part 0).commits.toNat % 2)) ∧
    exportRun.exportOff + exportRun.expOff + (exportBytes 6 (exporting.part 0).commits exported
      ⟨1, shardBytes exporting 0 exported⟩ (objAt exporting exportRun.ctx (field exportRun.exportObj 0 16)).expSeq).length ≤
        (objAt exporting exportRun.ctx (field exportRun.exportObj 0 16)).length := by
  refine ⟨⟨by decide, by decide, rfl, rfl, rfl, rfl⟩, ?_, ?_, ?_, ?_, ?_, ?_, ?_, ?_, ?_, Nat.le_refl _⟩ <;> first
    | decide +kernel
    | (unfold CleanAreas Unpoisoned; decide +kernel)

/-- A beat timer's event in beat 0. -/
def timing (masked : Bool) : State := { pith run0 (tensor 1) [eventSec [(0, 5, 15, 4)]] with
  hif := { msix := [(vectorOf busy 0, { masked })] } }

theorem witness_BeatTimersRaiseTheVector : ((timing true).part 0).working = some run0 ∧
    ((timing false).part 0).working = some run0 ∧
    (∀ e ∈ eventsAt (((timing true).part 0).image run0) 5 ((timing true).offset run0), ¬(e.object = 15 ∧ e.param = (6#64).toNat)) ∧
    (∃ e ∈ eventsAt (((timing true).part 0).image run0) 5 ((timing true).offset run0), e.object = 15 ∧ e.param = (4#64).toNat) ∧
    (4#64).getLsbD 0 = false ∧ (mget {} (timing false).hif.msix (vectorOf (timing false) run0.queue) : MsixEntry).masked = false ∧
    (mget {} (timing true).hif.msix (vectorOf (timing true) run0.queue) : MsixEntry).masked = true := by decide +kernel

/-! ## Witnesses: slots, grafts, reduction, faults and the end of a step -/

/-- A transmit slot in beat 0 and a receive slot in beat 5, whose windows open after 100 ns and last 10 ns. -/
def slotPair : List Byte := image [slotSec [slotBytes 0 0 3 0 1 1 6400 640 1, slotBytes 0 1 3 5 1 1 6400 640 1] [] []]

/-- The step in its beat b. -/
def later (b : DWord) : StepRun := { run0 with start := 1000 - b }

/-- The arrival that slot 1 awaits, at a time of the beat. -/
def arrives (ok : Bool) (time : Nat) : Arrival :=
  { framesOk := ok, time, type := 3, frames := 1, stepStart := 995, check := BitVec.ofNat 64 (crc64 []),
    payload := [], lane := none, someFrame := true }

theorem witness_SlotMessagesGoOutInTheirFrames : ((under run0 slotPair).part 0).running = some run0 ∧ run0.ph = .running ∧
    run0.replay = false ∧ 0 < slotCount slotPair ∧ (slotRec slotPair 0).dir = 0 ∧ (slotRec slotPair 0).type ≠ 2 ∧
    0 < (slotRec slotPair 0).count ∧ (under run0 slotPair).offset run0 = (slotRec slotPair 0).beatOf 0 ∧
    ((under run0 slotPair).port (absPort (under run0 slotPair) 0 (slotRec slotPair 0).port)).active = true ∧
    commitDue (under run0 slotPair) = false ∧ (slotBuf ((under run0 slotPair).ptBufs 0).tx 0 0).arrived = false ∧
    (slotBuf ((under run0 slotPair).ptBufs 0).tx 0 0).missed = false ∧
    run0.tripped = false ∧ ({ run0 with tripped := true } : StepRun).tripped = true ∧
    6399 < (slotRec slotPair 0).start ∧ (slotRec slotPair 0).start ≤ 6400 ∧ 6400 + 512 ≤ (slotRec slotPair 0).start + 512 ∧
    (slotRec slotPair 0).start + 512 < 6913 := by decide +kernel

/-- The deadline of slot 1's occurrence. -/
def deadline1 : Nat := deadlineOf slotPair (slotRec slotPair 1) 0

theorem witness_SlotOccurrencesLandOrMiss : ((under (later 5) slotPair).part 0).running = some (later 5) ∧
    (later 5).ph = .running ∧ (later 5).replay = false ∧ (slotRec slotPair 1).type ≠ 1 ∧ (slotRec slotPair 1).type ≠ 2 ∧
    awaits (under (later 5) slotPair) 0 1 0 (later 5) = true ∧
    deadline1 < (slotRec slotPair 1).beatOf 0 * 64000 + (arrives true (deadline1 - 5 * 64000 + 1)).time ∧
    (∀ ok, ∀ t ∈ [0, deadline1 - 5 * 64000], (slotRec slotPair 1).beatOf 0 * 64000 + (arrives ok t).time ≤ deadline1 ∧
      ((slotRec slotPair 1).beatOf 0 * 64000 + (arrives ok t).time) / 64000 = (under (later 5) slotPair).offset (later 5) ∧
      arrivalOk (later 5) (slotRec slotPair 1) (arrives ok t) = ok) ∧
    deadline1 / 64000 ≤ (under (later 5) slotPair).offset (later 5) ∧
    (under (later 4) slotPair).offset (later 4) < deadline1 / 64000 ∧
    awaits (under (later 4) slotPair) 0 1 0 (later 4) = true ∧
    ({ slot := 1, occ := 0, data := [], arrived := true } : SlotBuf).arrived = true := by decide +kernel

/-- One ingress graft of 8 elements with its deadline in beat 0. -/
def graftImage : List Byte := image [slotSec [] [] [[0, 1, 1, 0xA] ++ zeros 16 ++ [8] ++ zeros 11]]

/-- A port of a partner's older link is up. -/
def grafting : State := { under run0 graftImage with bgh := { ports := [(0, { st := .up, mode := 1 })] } }

/-- All the elements have arrived. -/
def grafted : State := { grafting with
  bufs := [(0, { graftIn := [(0, some { step := 0, elems := List.replicate 8 .zero })] })] }

theorem witness_GraftTrafficKeepsItsNumbers : (grafting.part 0).cur = some run0 ∧ graftPort grafting 0 = true ∧
    0 < graftCount graftImage ∧ (graftRec graftImage 0).dir = 1 ∧ (graftRec graftImage 0).kind ≠ 3 ∧
    0 < grafting.variant.ports ∧ absPort grafting 0 (graftRec graftImage 0).port = 0 ∧ (2 : DWord) ≠ run0.graftStep ∧
    (2 : DWord) ≠ run0.graftStep + 1 ∧ (1 : DWord) = run0.graftStep + 1 ∧ (grafting.part 0).working = some run0 ∧
    run0.ph = .running ∧ grafting.offset run0 = (graftRec graftImage 0).deadline + (graftRec graftImage 0).tol ∧
    (graftArrived grafting 0 0 run0.graftStep).complete (graftRec graftImage 0) = false ∧
    (graftArrived grafted 0 0 run0.graftStep).complete (graftRec graftImage 0) = true ∧ ptOfPort grafting 0 = some 0 := by
  decide +kernel

/-- A lane that differs from the one captured before. -/
def laneRun : StepRun := { run0 with lane := some [], laneDiffers := true }

theorem witness_ReductionSettingsAndChecksHold : (busy.part 0).working = some run0 ∧
    ((withRun laneRun).part 0).working = some laneRun ∧ laneRun.ph = .running ∧
    laneBad (((withRun laneRun).part 0).image laneRun) laneRun = true ∧
    (withRun laneRun).offset laneRun = imgNormBeat (((withRun laneRun).part 0).image laneRun) ∧
    (withRun (later 1)).offset (later 1) ≠ imgNormBeat (((withRun (later 1)).part 0).image (later 1)) ∧
    laneBad ((busy.part 0).image run0) run0 = false ∧ (up.part 0).running = none ∧ (up.part 0).commits.toNat % 64 = 0 ∧
    ¬((busy.part 0).running = none ∧ (busy.part 0).commits.toNat % 64 = 0) := by decide +kernel

/-- A discarded step. -/
def dropped0 : StepRun := { run0 with ph := .discarded }

/-- Its recovery interval is due. -/
def recovering : State := { up with parts := [(0, { cur := some dropped0, recoveryDone := false })] }

/-- A fault notice of the step that started at beat 1,000, and one of a step that this partition does not know. -/
def notice (start : Nat) : List Byte := bytesAt 32 [(0, [1]), (2, [1, 1]), (4, [1]), (8, toLE 8 start)]

theorem witness_FaultsDiscardBeforeTheCommit : (busy.part 0).running = some run0 ∧ run0.ph = .running ∧
    AtRest busy 0 run0 ∧ ((withRun done0).part 0).running = some done0 ∧ done0.ph = .committed ∧
    0 < (under run0 []).variant.ports ∧ ptOfPort (under run0 []) 0 = some 0 ∧
    ((under run0 []).port 0).active = true ∧ getLE (notice 1000) 0 1 = 1 ∧ (noticeOf (notice 1000)).cause ≠ 0x0504 ∧
    ((under run0 []).part 0).cur = some run0 ∧ run0.start = (noticeOf (notice 1000)).start ∧
    getLE (notice 7) 0 1 = 1 ∧ (noticeOf (notice 7)).cause ≠ 0x0504 ∧ run0.start ≠ (noticeOf (notice 7)).start ∧
    ((under run0 []).part 0).committedStarts.contains (noticeOf (notice 7)).start = false ∧
    (recovering.part 0).cur = some dropped0 ∧ dropped0.ph = .discarded ∧ (recovering.part 0).recoveryDone = false ∧
    ((withRun dropped0).part 0).recoveryDone = true ∧ run0.ph ≠ .discarded := by
  unfold AtRest
  decide +kernel

/-- An image of 3 beats. -/
def threeBeats : List Byte := bytesAt 256 [(16, [3])]

/-- A step in its last beat. -/
def lastBeat (ph : StepPh) : StepRun := { run0 with ph, start := 998 }

/-- A broadcast in beat 0, for which an image ends at once. -/
def castImage : List Byte := image [broadcastTable]

/-- The step ended in beat 1,000. -/
def dropped (silent : Bool) : StepRun := { dropped0 with endBeat := 1000, silent }

theorem witness_StepsEndWithTheirCompletion :
    (∀ ph ∈ [StepPh.committed, StepPh.running], ((under (lastBeat ph) threeBeats).part 0).running = some (lastBeat ph) ∧
      (lastBeat ph).replay = false ∧ imgStepBeats threeBeats ≤ (under (lastBeat ph) threeBeats).offset (lastBeat ph) + 1 ∧
      broadcastsEnded (under (lastBeat ph) threeBeats) 0 (lastBeat ph) = true ∧
      (((under (lastBeat ph) threeBeats).advanceBeat 0).part 0).running = some { lastBeat ph with clock := 3 * 850 } ∧
      (lastBeat ph).silent = false ∧ (lastBeat ph).ph = ph) ∧
    (under run0 threeBeats).offset run0 + 1 < imgStepBeats threeBeats ∧
    broadcastsEnded (under (tenth run0) castImage) 0 (tenth run0) = false ∧
    (∀ silent, ((withRun (dropped silent)).part 0).cur = some (dropped silent) ∧ (dropped silent).ph = .discarded ∧
      (dropped silent).reported = false ∧ (dropped silent).silent = silent ∧
      (dropped silent).endBeat.toNat + ((withRun (dropped silent)).part 0).horizon ≤
        (withRun (dropped silent)).cmb.beat.toNat) ∧
    (withRun run0).cmb.beat.toNat < (1001 : DWord).toNat + ((withRun run0).part 0).horizon := by decide +kernel

/-! ## Witnesses: the selection and the step gap -/

/-- A command body of 96 bytes. -/
def body (op : Nat) (l : List (Nat × List Byte) := []) : List Byte := bytesAt 96 ((0, toLE 1 op) :: l)

/-- Queue 0 is enabled and bound to context 0 of session 1. -/
def queue0 : Queue := { st := .enabled, session := 1, ctx := some 0, ctxTag := 1 }

/-- A host object (1) and a device object (2) of context 0, and a free one being given back (3). -/
def ctx0 : Ctx :=
  { live := true, session := 1, resident := true, saveBase := 2 ^ 20, objTable := 0x20000000000,
    objs := [(1, { live := true, kind := 1, access := 3, length := 2 ^ 20, tagBase := 2 ^ 30 }),
      (2, { live := true, kind := 2, access := 3, base := 0x10000000000, length := 2 ^ 20 }),
      (3, { live := true, freeing := some 0 })] }

/-- Session 1 is finished and owns partition 0; queue 0 reads as x. -/
def hosted (x : Queue) : State :=
  { up with sessions := [(1, { live := true, finished := true, pt := some 0 })],
            ten := [(0, { st := .opened, hbmKey := some 5, regionsDefined := true })],
            hif := { queues := [(0, x)], ctxs := [(0, ctx0)], fences := [(4, { live := true, gen := 3, session := 1 })] } }

/-- A command of this body is at work in queue 0. -/
def atWork (b : List Byte) (isBusy : Bool := false) : State :=
  hosted { queue0 with cmd := some { seq := 1, body := b, order := 0, busy := isBusy } }

/-- The same with a slot A. -/
def inSlot (s : State) (st : SlotSt) (code : Half := 0) : State := { s with parts := [(0, { slotA := { st, code } })] }

/-- The step that stands selected, unnamed. -/
def sel0 : StepRun := { queue := 0, seq := 1, body := body 1, session := 1, selBeat := 999 }

/-- Step r stands selected over a slot in a state, with the last outcome's beat. -/
def selected (r : StepRun) (st : SlotSt := .accepted) (out : Option DWord := none) : State :=
  { hosted queue0 with parts := [(0, { sel := some r, slotA := { st }, outBeat := out })] }

/-- The step selected is named for a beat, at another. -/
def namedFor (b : DWord) (tier : Nat := 0) (at_ : DWord := 999) : StepRun :=
  { sel0 with named := true, start := b, tier, namedBeat := at_ }

/-- A STEP with TIMER_FENCE 4, fetched in queue 0. -/
def timed : State := inSlot (atWork (body 1 [(64, [4, 0, 1, 0])]) true) .accepted

theorem witness_SelectionTakesTheNextStep :
    (∀ st ∈ [SlotSt.empty, .refused, .accepted], (inSlot (atWork (body 1) true) st 4).isHalted = false ∧
      ((inSlot (atWork (body 1) true) st 4).part 0).running = none ∧ ((inSlot (atWork (body 1) true) st 4).part 0).sel = none ∧
      ((inSlot (atWork (body 1) true) st 4).part 0).gridWait = false ∧
      nextStep (inSlot (atWork (body 1) true) st 4) 0 = some (0, { seq := 1, body := body 1, order := 0, busy := true }) ∧
      (((inSlot (atWork (body 1) true) st 4).part 0).slot (decide (getLE (body 1) 4 1 = 1))).st = st) ∧
    (selected sel0).isHalted = false ∧ ((selected sel0).part 0).running = none ∧ ((selected sel0).part 0).sel = some sel0 ∧
    ((selected sel0 .refused).part 0).sel = some sel0 ∧ (((selected sel0 .refused).part 0).slot sel0.slot).st ≠ .accepted ∧
    (((selected sel0).part 0).slot sel0.slot).st = .accepted ∧
    (namedFor 1000).named = true ∧ (selected (namedFor 1000)).cmb.beat.toNat ≤ (namedFor 1000).start.toNat ∧
    (namedFor 999).start.toNat < (selected (namedFor 999)).cmb.beat.toNat ∧
    withheld (selected (namedFor 999)) 0 (namedFor 999) = false ∧ sel0.named = false ∧ withheld (selected sel0) 0 sel0 = false ∧
    withheld (selected { sel0 with waitLock := true }) 0 { sel0 with waitLock := true } = true ∧
    ((selected sel0 .accepted (some 990)).part 0).outBeat = some 990 ∧
    (selected (namedFor 1010 1)).cmb.beat.toNat + 10 = (namedFor 1010 1).start.toNat ∧
    (namedFor 1009 1 1000).start.toNat < (namedFor 1009 1 1000).namedBeat.toNat + 10 ∧
    (selected (namedFor 1009 1 1000)).cmb.beat.toNat ≤ (namedFor 1009 1 1000).start.toNat ∧
    gapReached (selected (namedFor 1010 1)) 0 (namedFor 1010 1) = true ∧
    (namedFor 1010 1).tier ≠ ((selected (namedFor 1010 1)).clock 0).tier ∧
    ((selected (namedFor 1010 1)).clock 0).domainReset = false ∧
    (namedFor 1010).tier = ((selected (namedFor 1010)).clock 0).tier ∧
    (selected (namedFor 1011 1)).cmb.beat.toNat + 10 < (namedFor 1011 1).start.toNat ∧
    nextStep timed 0 = some (0, { seq := 1, body := body 1 [(64, [4, 0, 1, 0])], order := 0, busy := true }) ∧
    getLE (body 1 [(64, [4, 0, 1, 0])]) 64 4 ≠ 0 ∧ 4 = getLE (body 1 [(64, [4, 0, 1, 0])]) 64 4 % 4096 ∧
    cmdNamesFence timed 4 0 = false ∧ fenceResident timed 4 0 = false := by decide +kernel

theorem timed_differs : ∃ x, x ≠ fenceSealed timed 4 := ⟨((fenceSealed timed 4).1 ++ [0], 0), by
  intro h
  have := congrArg (fun x : Sealed => x.1.length) h
  simp at this⟩

/-- A grid change waits, with an accepted image of the old grid in slot A and of the new one in slot B. -/
def gridding : State := { up with
  parts := [(0, { slotA := { st := .accepted, image := bytesAt 256 [(40, [9])] },
                  slotB := { st := .accepted, image := bytesAt 256 [(40, [7])] }, grid := 7, gridWait := true })] }

theorem witness_GridAndEstimatorWaitForTheBoundary : (gridding.part 0).gridWait = true ∧ (gridding.part 0).sel = none ∧
    (gridding.part 0).running = none ∧ ((gridding.part 0).slot false).st = .accepted ∧
    imgGrid ((gridding.part 0).slot false).image ≠ (gridding.part 0).grid ∧ ((gridding.part 0).slot true).st = .accepted ∧
    imgGrid ((gridding.part 0).slot true).image = (gridding.part 0).grid ∧ up.rooted = true ∧
    up.sap.clkEn.getLsbD 6 = true ∧ (up.tenancy 0).st ≠ .scrubbing ∧
    (({ up with ten := [(0, { st := .scrubbing })] } : State).tenancy 0).st = .scrubbing := by decide +kernel

/-- A replay of broadcasts is due where the selected step starts. -/
def replaying (r : StepRun) : State := { selected r with parts := [(0, { sel := some r, slotA := { st := .accepted }, replayNext := true })] }

theorem witness_StartSetsUpTheStep : ((selected (namedFor 1000)).part 0).sel = some (namedFor 1000) ∧
    ((selected (namedFor 1000) .refused).part 0).sel = some (namedFor 1000) ∧
    (((selected (namedFor 1000) .refused).part 0).slot (namedFor 1000).slot).st ≠ .accepted ∧
    (((selected (namedFor 1000)).part 0).slot (namedFor 1000).slot).st = .accepted ∧
    startReady (selected (namedFor 1000)) 0 (namedFor 1000) = true ∧ ((selected (namedFor 1000)).part 0).replayNext = false ∧
    startReady (selected sel0) 0 sel0 = false ∧ ((replaying (namedFor 1000)).part 0).sel = some (namedFor 1000) ∧
    startReady (replaying (namedFor 1000)) 0 (namedFor 1000) = true ∧ ((replaying (namedFor 1000)).part 0).replayNext = true := by
  decide +kernel

/-- An image whose one descriptor converts its working copy to E4M3 under tensor 1. -/
def scaledImage : List Byte := image [progSec { tensor 1 with copyFmt := 0 }]

/-- A step is selected over the scaled image, after a step of another context, with its recovery done or not. -/
def switching (r : StepRun) (last : Option Nat) (rec : Bool) : State :=
  let p : Part := { sel := some r, slotA := { st := .accepted, image := scaledImage } }
  { selected r with parts := [(0, { p with lastCtx := last, outDisc := true, recoveryDone := rec })] }

theorem witness_GapRestoresTheContextAndItsScales : ((selected sel0).part 0).running = none ∧
    ctxDiffers (selected sel0) 0 sel0 = false ∧ needsScales (((selected sel0).part 0).image sel0) = false ∧
    inGap (selected sel0) sel0 500 21 = false ∧ inGap (switching (namedFor 1021) (some 65543) true) (namedFor 1021) 500 21 = true ∧
    inGap (switching (namedFor 1500) (some 65543) true) (namedFor 1500) 500 21 = true ∧
    inGap (switching (namedFor 1020) none true) (namedFor 1020) 20 12 = true ∧
    inGap (switching (namedFor 1012) none true) (namedFor 1012) 20 12 = true ∧ inGap (selected sel0) sel0 20 12 = false ∧
    ctxDiffers (switching (namedFor 1021) (some 65543) true) 0 (namedFor 1021) = true ∧
    ((switching sel0 (some 65543) true).part 0).sel = some sel0 ∧ ctxDiffers (switching sel0 (some 65543) true) 0 sel0 = true ∧
    recovered ((switching sel0 (some 65543) false).part 0) = false ∧
    recovered ((switching sel0 (some 65543) true).part 0) = true ∧ sel0.ctxSwitch = false ∧
    ((switching sel0 (some 65543) true).ctx sel0.ctx).saved.contains 0 = false ∧
    gapReached (switching sel0 (some 65543) true) 0 sel0 = false ∧
    needsScales (((switching sel0 none true).part 0).image sel0) = true ∧ gapReached (switching sel0 none true) 0 sel0 = true ∧
    mget 0xFF (imgCvts (((switching sel0 none true).part 0).image sel0)) 1 = 0 := by decide +kernel

/-- A COPY of one unit to the Crown object, or from it. -/
def copyBody (out : Bool) : List Byte := body 3 [(2, [if out then 1 else 0]), (4, if out then [2, 0, 1, 0] else [1, 0, 1, 0]),
  (8, if out then [1, 0, 1, 0] else [2, 0, 1, 0]), (32, toLE 8 4096)]

/-- A unit of zeros as session 1's data key seals it under IV_BASE 0. -/
def unit0 : Unit4K := ⟨zeros 4096, Config.gcmSeal 0 (toLE 8 0 ++ toLE 4 0) [] (padTo 4096 (zeros 4096))⟩

theorem unit0_ok : unitOk (atWork (copyBody false)) 1 0 0 (unitAt [unit0] 0) = true := decide_eq_true rfl

theorem witness_CopiesMoveWholeUnits : ready (atWork (copyBody false)) 0 3 = some (copyBody false) ∧
    ready (atWork (copyBody true)) 0 3 = some (copyBody true) ∧
    copyObjs (atWork (copyBody false)) 0 (copyBody false) = some (objAt (hosted queue0) 0 1, objAt (hosted queue0) 0 2) ∧
    copyObjs (atWork (copyBody true)) 0 (copyBody true) = some (objAt (hosted queue0) 0 2, objAt (hosted queue0) 0 1) ∧
    queuePt (atWork (copyBody false)) 0 = some 0 ∧ bitAt (opflagsOf (copyBody false)) 0 = false ∧
    bitAt (opflagsOf (copyBody true)) 0 = true ∧ getLE (copyBody false) 32 8 / 4096 = [unit0].length ∧
    ((atWork (copyBody false)).queue 0).session = 1 ∧ getLE (copyBody false) 40 8 = 0 ∧
    unitOk (atWork (copyBody false)) 1 0 0 (unitAt [unit0] 0) = true ∧ unit0.data.length = 4096 ∧
    getLE (copyBody true) 32 8 % 64 = 0 ∧
    (∀ i < 64, resolve (atWork (copyBody false)) 0 (0x10000000000 + 64 * i) = .crown 0 (0 + 64 * i)) ∧
    0 < getLE (copyBody false) 32 8 / 4096 ∧ ((atWork (copyBody false)).queue 0).st = .enabled := by
  refine ⟨?_, ?_, ?_, ?_, ?_, ?_, ?_, ?_, ?_, ?_, unit0_ok, ?_, ?_, ?_, ?_, ?_⟩ <;> decide +kernel

/-! ## Witnesses: the host queues -/

theorem witness_QueueControlFollowsTheQueueState : QsOpen (hosted queue0) 0 ∧ (0x3700 : Word).toNat / 2 ^ 8 % 2 ^ 6 ≤ 55 ∧
    ((hosted queue0).queue 0).st ≠ .disabled :=
  ⟨⟨by decide, by decide, by decide, by decide +kernel⟩, by decide, by decide +kernel⟩

theorem witness_DoorbellsStoreTheRingPointers : (hosted queue0).rooted = true ∧ queueScrubs (hosted queue0) 0 = false ∧
    queueScrubs { hosted queue0 with ten := [(0, { st := .scrubbing })] } 0 = true := by decide +kernel

/-- One entry waits in the ring of queue 0. -/
def fetching0 (x : Queue) : State := hosted { x with sqTail := 1 }

/-- An entry of SEQ and body as the host seals it for queue 0 under session 1. -/
def sealedEntry (seq : DWord) (b : List Byte) : Sealed :=
  Config.gcmSeal 0 (ringNonce seq 0) (toLE 8 seq.toNat ++ zeros 8) (padTo 96 b)

theorem sealedEntry_ok (seq : DWord) (b : List Byte) : entryOk (fetching0 queue0) 0 seq b (sealedEntry seq b) = true := by
  have h : ((fetching0 queue0).session ((fetching0 queue0).queue 0).session.toNat).finished = true := by decide +kernel
  unfold entryOk
  rw [Bool.and_eq_true]
  exact ⟨h, decide_eq_true rfl⟩

/-- A FENCE_CREATE body, a QUERY of a fence, and bodies that fail a check. -/
def queryBody (h : List Byte) : List Byte := body 6 [(4, h)]

/-- A STEP that names object 2 as its host image. -/
def badCopy : List Byte := body 3 [(4, [2, 0, 1, 0]), (8, [2, 0, 1, 0]), (32, toLE 8 4096)]

theorem sealed_ne (x : Sealed) : ((0 :: x.1, x.2) : Sealed) ≠ x := fun h => by
  have := congrArg (fun y : Sealed => y.1.length) h
  simp at this

theorem witness_EntriesAreCheckedInOrder : mayFetch (fetching0 queue0) 0 = true ∧
    mayFetch (fetching0 { queue0 with session := 2 }) 0 = true ∧
    entryOk (fetching0 { queue0 with session := 2 }) 0 1 [] ([], 0) = false ∧
    (∀ seq b, entryOk (fetching0 queue0) 0 seq b (sealedEntry seq b) = true) ∧
    seqOk ((fetching0 queue0).queue 0) 0 = false ∧ seqOk ((fetching0 queue0).queue 0) 1 = true ∧
    bodyOk (fetching0 queue0) 0 (padTo 96 (body 0x40)) = false ∧
    bodyOk (fetching0 queue0) 0 (padTo 96 (queryBody [5, 0, 1, 0])) = true ∧
    handlesOk (fetching0 queue0) 0 (padTo 96 (queryBody [5, 0, 1, 0])) = false ∧
    bodyOk (fetching0 queue0) 0 (padTo 96 badCopy) = true ∧ handlesOk (fetching0 queue0) 0 (padTo 96 badCopy) = true ∧
    accessOkBody (fetching0 queue0) 0 (padTo 96 badCopy) = false ∧
    bodyOk (fetching0 queue0) 0 (padTo 96 (body 0)) = true ∧ handlesOk (fetching0 queue0) 0 (padTo 96 (body 0)) = true ∧
    accessOkBody (fetching0 queue0) 0 (padTo 96 (body 0)) = true ∧ fetchFences (padTo 96 (body 0)) = [] ∧
    bodyOk (fetching0 queue0) 0 (padTo 96 (queryBody [4, 0, 1, 0])) = true ∧
    handlesOk (fetching0 queue0) 0 (padTo 96 (queryBody [4, 0, 1, 0])) = true ∧
    accessOkBody (fetching0 queue0) 0 (padTo 96 (queryBody [4, 0, 1, 0])) = true ∧
    fetchFences (padTo 96 (queryBody [4, 0, 1, 0])) = [4] ∧
    fetchFences (padTo 96 (body 1 [(88, [4, 0, 1, 0])])) = [4] ∧ fetchFences (padTo 96 (body 1 [(64, [4, 0, 1, 0])])) = [] ∧ fenceResident (fetching0 queue0) 4 0 = false ∧
    ((0 :: (fenceSealed (fetching0 queue0) 4).1, (fenceSealed (fetching0 queue0) 4).2) : Sealed) ≠
      fenceSealed (fetching0 queue0) 4 := by
  refine ⟨?_, ?_, ?_, sealedEntry_ok, ?_, ?_, ?_, ?_, ?_, ?_, ?_, ?_, ?_, ?_, ?_, ?_, ?_, ?_, ?_, ?_, ?_, ?_, ?_, sealed_ne _⟩ <;> decide +kernel

/-- A WAIT for a generation of fence 4 with a TIMEOUT_BEAT. -/
def waitBody (gen beat : Nat) : List Byte := body 4 [(4, [4, 0, 1, 0]), (8, toLE 4 gen), (16, toLE 8 beat)]

/-- The wait is ending. -/
def endingWait (b : List Byte) : State := let s := atWork b true; { s with hif := { s.hif with ending := [0] } }

theorem witness_RingCommandsCompleteOrWait : ready (atWork (body 0)) 0 0 = some (body 0) ∧
    ready (atWork (body 6)) 0 6 = some (body 6) ∧ ready (atWork (body 1)) 0 1 = some (body 1) ∧
    ready (atWork (body 2)) 0 2 = some (body 2) ∧ ready (atWork (body 4)) 0 4 = some (body 4) ∧
    ready (atWork (body 0)) 0 1 = none ∧ ready (atWork (body 5)) 0 5 = some (body 5) ∧ bitAt (opflagsOf (body 5)) 0 = false ∧
    bitAt (opflagsOf (body 5 [(2, [1])])) 0 = true ∧
    (waitOf ((atWork (waitBody 9 999) true).queue 0)).isSome = true ∧ getLE (waitBody 9 999) 16 8 ≠ 0 ∧
    getLE (waitBody 9 1000) 16 8 ≤ (atWork (waitBody 9 1000) true).cmb.beat.toNat ∧
    0 ∉ (atWork (waitBody 9 1000) true).hif.ending ∧ getLE (waitBody 9 0) 16 8 = 0 ∧
    (atWork (waitBody 9 1001) true).cmb.beat.toNat < getLE (waitBody 9 1001) 16 8 ∧
    waitOf ((atWork (waitBody 2 0) true).queue 0) = some (4, 2) ∧
    ((atWork (waitBody 2 0) true).fence 4).satisfies 2 = true ∧
    waitOf ((endingWait (waitBody 9 999)).queue 0) = some (4, 9) ∧
    ((endingWait (waitBody 9 999)).fence 4).satisfies 9 = false ∧ 0 ∈ (endingWait (waitBody 9 999)).hif.ending := by
  decide +kernel

/-- A completion is held in queue 0. -/
def held0 : HeldComp := { body := zeros 40, irq := true, signals := false, sigFence := 0, sigGen := 0, session := 1 }

/-- A notice waits. -/
def note0 : Notice := { kind := 1, tensor := 2, stack := 0, first := 0, count := 1, step := 0 }

theorem witness_CompletionsAreWrittenUnderTheSessionKey : (hosted queue0).isHalted = false ∧
    ((hosted { queue0 with held := some held0 }).queue 0).held = some held0 ∧
    ((hosted queue0).session held0.session.toNat).finished = true ∧ ringRoom queue0 = true ∧
    ringRoom { queue0 with cqSeen := 1 } = false ∧ (up.session held0.session.toNat).finished = false ∧
    held0.signals = false ∧ (mget {} (hosted queue0).hif.msix (vectorOf (hosted queue0) 0) : MsixEntry).masked = true ∧
    ((hosted { queue0 with notice := true, notices := [note0] }).queue 0).notices = [note0] ∧
    ((hosted { queue0 with notice := true, notices := [note0] }).queue 0).notice = true ∧
    ((hosted { queue0 with notice := true }).queue 0).st ≠ .disabled ∧
    ((hosted queue0).session queue0.session.toNat).finished = true := by decide +kernel

/-- A CTX_CREATE body whose areas lie in the partition, or meet those of context 0. -/
def createBody (save : Nat) : List Byte := body 0x10 [(8, toLE 8 0x20000400000), (16, toLE 8 save)]

/-- A second context of session 1, to which no queue is bound. -/
def twoCtxs (b : List Byte) : State :=
  let s := atWork b
  { s with hif := { s.hif with ctxs := [(0, ctx0), (1, { live := true, session := 1 })] } }

/-- Context 0 waits to be resident, beside n resident ones, to the first of which a queue with a command is bound, or none. -/
def crowded (n : Nat) (pinned : Bool) : State :=
  let s := atWork (body 0)
  let y (i : Nat) : Queue := { queue0 with ctx := some (i + 1), cmd := some { seq := 1, body := body 0, order := i, busy := false } }
  { s with hif := { s.hif with
      ctxs := (0, { ctx0 with resident := false }) :: (List.range n).map fun i => (i + 1, { live := true, resident := true }),
      queues := s.hif.queues ++ if pinned then (List.range n).map fun i => (i + 1, y i) else [] } }

theorem foldl_fixed {α β : Type} (f : Option β → α → Option β) (b : Option β) : ∀ l : List α, (∀ a ∈ l, f b a = b) → l.foldl f b = b
  | [], _ => rfl
  | a :: l, h => by
    rw [List.foldl_cons, h a List.mem_cons_self]
    exact foldl_fixed f b l fun x hx => h x (List.mem_cons_of_mem _ hx)

/-- A table write that waits makes the table's clearing wait. -/
theorem clearTable_waits (s : State) (p tbl : Nat) (h : s.writeTable p tbl (zeros 64) = none) : s.clearTable p tbl = none := by
  unfold State.clearTable
  rw [show List.range 32768 = 0 :: (List.range 32767).map Nat.succ from List.range_succ_eq_map, List.foldl_cons]
  rw [Nat.mul_zero, Nat.add_zero, Option.bind_some, h]
  exact foldl_fixed _ _ _ fun _ _ => rfl

/-- Host writes of whole lines to an EXHAUSTED region leave the state as it is. -/
theorem writeTable_exhausted (s : State) (p a line : Nat) (hw : s.mb.wc = []) (ho : 0 < wcOwned s p true)
    (hr : resolve s p a = .outer line 0) (hi : inInit s line = false) (hx : lineExhausted s line = true) :
    s.writeTable p a (zeros 64) = some s := by
  have hx' : ∀ wc, lineExhausted { s with mb := { s.mb with wc } } line = true := fun _ => hx
  have hl : ((List.range (zeros 64).length).foldl (fun m i => minsert m (0 + i) ((zeros 64).getD i 0)) ([] : FMap Byte)).length =
      64 := by decide +kernel
  unfold State.writeTable
  rw [hr]
  simp only [hi, Bool.false_eq_true, if_false]
  unfold wcWrite wcUsed
  simp only [hw, List.find?_nil, List.filter_nil, List.length_nil, Nat.not_le.mpr ho, if_false, hl, if_true, List.nil_append]
  unfold State.drainEntry writeLine
  simp only [hx', if_true, List.filter_cons, List.filter_nil, ne_eq, not_true_eq_false, decide_false, Bool.false_eq_true, if_false]
  rw [← hw]

theorem clearTable_exhausted (s : State) (p tbl : Nat) (h : ∀ i < 32768, s.writeTable p (tbl + 64 * i) (zeros 64) = some s) :
    s.clearTable p tbl = some s :=
  foldl_fixed _ _ _ fun i hi => h i (List.mem_range.mp hi)

/-- Context 1 as CTX_CREATE makes it of a body, not yet with its table. -/
def created (s : State) (b : List Byte) : State :=
  (s.setCtx 1 { live := true, tag := (s.ctx 1).tag, session := (s.queue 0).session, pt := 0, objTable := getLE b 8 8,
                saveBase := getLE b 16 8 }).storeCtx 1

/-- The state of region 0 of partition 0 in a body's state. -/
def regionIn (b : List Byte) (st : RegSt) (sweeping : Bool := false) (prev : Nat := 0) : State :=
  let s := atWork b
  { s with mb := { s.mb with regions := [(0, { st, pages := 4096, sweeping, prev })] } }

/-- The region in which the table lies: EXHAUSTED, or in INIT. -/
def tableIn (st : RegSt) : State := created (regionIn (createBody (2 ^ 34)) st) (createBody (2 ^ 34))

theorem tableIn_line (i : Nat) (h : i < 32768) :
    (tableIn .exhausted).writeTable 0 (0x20000400000 + 64 * i) (zeros 64) = some (tableIn .exhausted) := by
  have hp : ptPages (tableIn .exhausted) 0 = 218750000 := by decide +kernel
  have hf : firstPage (tableIn .exhausted) 0 = 0 := by decide +kernel
  have hg : ptOfGrove (tableIn .exhausted) 0 = some 0 := by decide +kernel
  have hl : pageRegion (tableIn .exhausted) ((65536 + i) / 64) = some 0 := by
    unfold pageRegion pageOwner
    rw [show (65536 + i) / 64 / 27343750 = 0 by omega, hg]
    simp only [hf]
    rw [show regionsOf 0 = 0 :: (regionsOf 0).tail by decide]
    apply List.find?_cons_of_pos
    rw [show (tableIn .exhausted).region 0 = { st := .exhausted, pages := 4096 } by decide +kernel]
    have : (65536 + i) / 64 - 0 < 0 + 4096 := by omega
    simpa using this
  refine writeTable_exhausted _ 0 _ (65536 + i) (by decide +kernel) (by decide +kernel) ?_ ?_ ?_
  · have hin : inPartition (tableIn .exhausted) 0 (0x20000400000 + 64 * i) 1 = true := by
      unfold inPartition outerRange
      rw [if_neg (by omega), if_neg (by omega), hp]
      simp; omega
    unfold resolve
    simp only [hin, hf]
    rw [if_neg (by simp), if_neg (by omega), if_neg (by omega)]
    rw [show (4096 * 0 + (0x20000400000 + 64 * i - 0x20000000000)) / 64 = 65536 + i by omega,
      show (4096 * 0 + (0x20000400000 + 64 * i - 0x20000000000)) % 64 = 0 by omega]
  · unfold inInit
    rw [hl]
    decide +kernel
  · unfold lineExhausted
    rw [hl]
    decide +kernel

theorem witness_ContextsAreMadeBoundAndDestroyed :
    ready (atWork (createBody (2 ^ 34))) 0 0x10 = some (createBody (2 ^ 34)) ∧
    ready (atWork (createBody 0)) 0 0x10 = some (createBody 0) ∧
    ((atWork (createBody 0)).session queue0.session.toNat).pt = some 0 ∧
    areasOk (atWork (createBody 0)) 0 (getLE (createBody 0) 8 8) (getLE (createBody 0) 16 8) = false ∧
    areasOk (atWork (createBody (2 ^ 34))) 0 (getLE (createBody (2 ^ 34)) 8 8) (getLE (createBody (2 ^ 34)) 16 8) = true ∧
    oldestFree (atWork (createBody 0)).hif.ctxs {} Ctx.live Ctx.freedAt 4096 = some 1 ∧
    (∀ st ∈ [RegSt.exhausted, .init], ∀ s, s = regionIn (createBody (2 ^ 34)) st → ready s 0 0x10 = some (createBody (2 ^ 34)) ∧
      (s.session (s.queue 0).session.toNat).pt = some 0 ∧ oldestFree s.hif.ctxs {} Ctx.live Ctx.freedAt 4096 = some 1 ∧
      areasOk s 0 (getLE (createBody (2 ^ 34)) 8 8) (getLE (createBody (2 ^ 34)) 16 8) = true) ∧
    (tableIn .exhausted).clearTable 0 0x20000400000 = some (tableIn .exhausted) ∧
    (tableIn .init).clearTable 0 0x20000400000 = none ∧
    (∀ f ∈ [0, 1], ready (atWork (body 0x11 [(2, [f]), (4, [0, 0, 1, 0])])) 0 0x11 = some (body 0x11 [(2, [f]), (4, [0, 0, 1, 0])]) ∧
      bitAt (opflagsOf (body 0x11 [(2, [f]), (4, [0, 0, 1, 0])])) 0 = (f == 1)) ∧
    (ctxHandle (atWork (body 0x11)) queue0.session 0x10000).isSome = true ∧
    ready (twoCtxs (body 0x12 [(4, [0, 0, 1, 0])])) 0 0x12 = some (body 0x12 [(4, [0, 0, 1, 0])]) ∧
    (∃ j < 48, liveCtx (twoCtxs (body 0x12)) j = some 0) ∧
    (ctxHandle (twoCtxs (body 0x12 [(4, [1, 0, 1, 0])])) queue0.session 0x10001).isSome = true ∧
    (∀ j < 48, liveCtx (twoCtxs (body 0x12 [(4, [1, 0, 1, 0])])) j ≠ some 1) ∧ ctxInStep (twoCtxs (body 0x12)) 1 = false ∧
    (∀ n ∈ [31, 32], ((crowded n false).ctx 0).live = true ∧ ((crowded n false).ctx 0).resident = false ∧
      liveCtx (crowded n false) 0 = some 0 ∧ ((crowded n false).queue 0).cmd.isSome = true) ∧
    (residentCtxs (crowded 31 false)).length < 32 ∧ 32 ≤ (residentCtxs (crowded 32 false)).length ∧
    evictable (crowded 32 false) = some 1 ∧ 32 ≤ (residentCtxs (crowded 32 true)).length ∧ evictable (crowded 32 true) = none ∧
    ((0 :: (ctxSealed (crowded 31 false) 0).1, (ctxSealed (crowded 31 false) 0).2) : Sealed) ≠ ctxSealed (crowded 31 false) 0 := by
  refine ⟨?_, ?_, ?_, ?_, ?_, ?_, fun st hst s hs => ?_, clearTable_exhausted _ _ _ tableIn_line, clearTable_waits _ _ _ (by decide +kernel), ?_, ?_, ?_, ?_, ?_,
    ?_, ?_, ?_, ?_, ?_, ?_, ?_, ?_, sealed_ne _⟩
  case refine_7 =>
    subst hs
    revert st
    decide +kernel
  all_goals decide +kernel

/-- Queue 1 waits with a command that names objects 1 and 3 and fence 4. -/
def shared0 (b : List Byte) : State :=
  let s := atWork b
  { s with hif := { s.hif with queues := s.hif.queues ++ [(1, { queue0 with
      cmd := some { seq := 1, body := body 3 [(4, [1, 0, 1, 0]), (8, [3, 0, 1, 0]), (88, [4, 0, 1, 0])], order := 1, busy := true } })] } }

/-- The line of the object table lies in a region that is in INIT. -/
def initTable (b : List Byte) : State := regionIn b .init

/-- A stack's object, and a Crown object, as OBJ_MAP names them. -/
def mapBody (kind base : Nat) : List Byte := body 0x13 [(4, toLE 1 kind ++ [3]), (8, toLE 8 base), (16, toLE 8 64)]

/-- The object that a mapping makes of index 0. -/
def mapped (b : List Byte) : Obj :=
  { live := true, tag := 1, kind := getLE b 4 1, access := getLE b 5 1, base := getLE b 8 8, length := getLE b 16 8,
    tagBase := getLE b 24 8 }

theorem witness_ObjectsAndFencesAreMadeAndFreed : ((atWork (body 0)).queue 0).ctx = some 0 ∧
    (∀ b ∈ [mapBody 1 0, mapBody 2 0x10000000000], ready (atWork b) 0 0x13 = some b ∧
      oldestFree ((atWork b).ctx 0).objs {} Obj.live Obj.freedAt 65536 = some 0 ∧
      (((atWork b).setObj 0 0 (mapped b)).storeObj 0 0).isSome = true ∧
      (((initTable b).setObj 0 0 (mapped b)).storeObj 0 0).isSome = false ∧ ready (initTable b) 0 0x13 = some b) ∧
    getLE (mapBody 1 0) 4 1 = 1 ∧ getLE (mapBody 2 0x10000000000) 4 1 = 2 ∧
    inPartition (atWork (mapBody 2 0x10000000000)) 0 0x10000000000 64 = true ∧
    granted (atWork (mapBody 2 0x10000000000)) 0 0 0x10000000000 64 = true ∧
    waysOpen (atWork (mapBody 2 0x10000000000)) 0 0x10000000000 64 = true ∧
    waysOpen { atWork (mapBody 2 0x10000000000) with parts := [(0, { slotA := { st := .accepted } })] } 0 0x10000000000 64 = false ∧
    granted (atWork (mapBody 2 0x10000000000)) 0 1 0x10000000000 64 = false ∧
    inPartition (atWork (mapBody 2 0x18000000000)) ((atWork (mapBody 2 0x18000000000)).ctx 0).pt 0x18000000000 64 = false ∧
    ready (atWork (body 0x14 [(4, [1, 0, 1, 0])])) 0 0x14 = some (body 0x14 [(4, [1, 0, 1, 0])]) ∧
    (objHandle (atWork (body 0x14)) 0 0x10001).isSome = true ∧ objNamed (atWork (body 0x14)) 0 1 0 = false ∧
    ((((atWork (body 0x14)).setObj 0 1 { objAt (atWork (body 0x14)) 0 1 with tag := 2 }).freeObj 0 1).storeObj 0 1).isSome = true ∧
    objNamed (shared0 (body 0x14)) 0 1 0 = true ∧
    (∀ u, u = (shared0 (body 0x14)).setObj 0 1 { objAt (shared0 (body 0x14)) 0 1 with tag := 2 } →
      ((u.setObj 0 1 { objAt u 0 1 with freeing := some 0 }).storeObj 0 1).isSome = true) ∧
    (((hosted queue0).ctx 0).objs.find? fun e => e.2.freeing == some 0) = some (3, { live := true, freeing := some 0 }) ∧
    objNamed (hosted queue0) 0 3 0 = false ∧ (((hosted queue0).freeObj 0 3).storeObj 0 3).isSome = true ∧
    objNamed (shared0 (body 0)) 0 3 0 = true ∧ (((initTable (body 0)).freeObj 0 3).storeObj 0 3).isSome = false ∧
    ready (atWork (body 0x15)) 0 0x15 = some (body 0x15) ∧
    oldestFree (atWork (body 0)).hif.fences {} Fence.live Fence.freedAt 4096 = some 0 ∧
    ready (atWork (body 0x16 [(4, [4, 0, 1, 0])])) 0 0x16 = some (body 0x16 [(4, [4, 0, 1, 0])]) ∧
    fenceResident (shared0 (body 0x16)) 4 0 = true ∧ fenceResident (atWork (body 0x16)) 4 0 = false ∧
    (∀ st ∈ [RegSt.active, .exhausted, .init], ready (regionIn (body 0x17) st) 0 0x17 = some (body 0x17) ∧
      ((regionIn (body 0x17) st).region 0).st = st ∧ ((regionIn (body 0x17) st).region 0).sweeping = false ∧
      ((regionIn (body 0x17) st).region 0).prev = ((regionIn (body 0x17) st).region 0).kid) ∧
    ((regionIn (body 0x17) .active true).region 0).sweeping = true ∧
    ((regionIn (body 0x17) .active false 1).region 0).prev ≠ ((regionIn (body 0x17) .active false 1).region 0).kid := by
  refine ⟨?_, ?_, ?_, ?_, ?_, ?_, ?_, ?_, ?_, ?_, ?_, ?_, ?_, ?_, ?_, fun u hu => ?_, ?_⟩
  case refine_16 =>
    subst hu
    decide +kernel
  all_goals decide +kernel

/-- A load at the loader. -/
def job0 (code : Half) : LoadJob := { queue := 0, slot := true, code := code }

def loading (code : Half) : State := { hosted queue0 with parts := [(0, { load := some (job0 code) })] }

theorem witness_TheLoaderDecidesTheSlot : loaderBusy (atWork (body 2) true) = false ∧ (atWork (body 2) true).isHalted = false ∧
    nextLoad (atWork (body 2) true) = some (0, { seq := 1, body := body 2, order := 0, busy := true }) ∧
    queuePt (atWork (body 2) true) 0 = some 0 ∧
    slotBusy (atWork (body 2) true) 0 (decide (getLE (body 2) 4 1 = 1)) = false ∧
    slotBusy { atWork (body 2) true with parts := [(0, { sel := some sel0 })] } 0 (decide (getLE (body 2) 4 1 = 1)) = true ∧
    (loading 0).isHalted = false ∧ ((loading 0).part 0).load = some (job0 0) ∧ ((loading 4).part 0).load = some (job0 4) ∧
    (job0 4).code ≠ 0 ∧ (∀ p < 0, ((loading 0).part p).load = none) := by decide +kernel

/-! ## Witnesses: sessions, register accesses and ports -/

/-- The module in a life-cycle state, by the DONE marks of its transitions. -/
def inLife (marks : BitVec 5) : State := { up with hw := { up.hw with lcDone := marks } }

theorem witness_HeartwoodAnswersItsRequests : up.rooted = true ∧ up.hw.booted = true ∧ noCert up = false ∧
    noCert (inLife 3) = true ∧ (1 ≤ 1 ∧ 11 ≤ 11) ∧ (11 < 12 ∧ 12 ≠ 0xFF) := by decide +kernel

/-- Sessions 0 to n - 1 are open, not finished. -/
def sessions (n : Nat) : State := { up with sessions := (List.range n).map fun i => (i, { live := true }) }

theorem witness_SessionsHoldTheirKeysUntilTheyEnd : (sessions 31).rooted = true ∧ (sessions 31).hw.booted = true ∧
    openSessions (sessions 31) < 32 ∧ 32 ≤ openSessions (sessions 32) ∧ noCert (sessions 32) = false ∧
    ((sessions 31).session 31).live = false ∧ ((sessions 31).session 5).live = true ∧
    ((sessions 31).session 5).finished = false ∧ ((hosted queue0).session 1).finished = true ∧
    ((sessions 31).session 5).pt = none ∧ up.powered = true ∧ noCert (sessions 31) = false := by decide +kernel

/-- The module in Seedling. -/
def seed : State := { up with pwr := { stage := .seedling, perst := false } }

theorem witness_AccessesAreDecidedInOrder : barOk 0 0x100014 = true ∧ seed.powered = true ∧
    seed.rooted = false ∧ (0 : Nat) ≠ 4 ∧ accessOk 32 0x100002 = false ∧ barOk 0 0x100002 = true ∧
    ({ up with sap := { clkEn := 0 } } : State).gatedAccess 0 32 0x400000 = true ∧ accessOk 32 0x100014 = true ∧
    up.gatedAccess 0 32 0x100014 = false ∧ accessOk 64 0x100018 = true ∧
    up.gatedAccess 0 64 0x100018 = false ∧ barOk 4 0 = true := by decide +kernel

theorem witness_RegisterWritesFollowTheFieldKind : up.rooted = true ∧ 0 < (16777216 : Word).toNat ∧
    (16777216 : Word).toNat ≤ 16777216 ∧ 16777216 < (16777217 : Word).toNat ∧ up.cfg.pending = false ∧
    ({ up with cfg := { pending := true } } : State).cfg.pending = true ∧ up.hw.locked = false ∧
    ({ up with hw := { up.hw with locked := true } } : State).hw.locked = true := by decide +kernel

/-- Port 0 reads as p. -/
def linked (p : Port) : State := { up with bgh := { ports := [(0, p)] } }

def portUp : Port := { st := .up }

/-- The marker, the lane 3 and position 3, and the link beat 7 of an alignment block. -/
def blockHead : List Byte := toLE 8 0x4C59E2A09B37D615 ++ [3, 3] ++ toLE 8 7

def gap25 : List Byte := zeros 25

/-- A valid alignment block: marker, link beat and zeros, then the CRC. -/
def block7 : List Byte := blockHead ++ (gap25 ++ (gap25 ++ (gap25 ++ gap25))) ++ toLE 2 63646

theorem crc_append (a b : List Byte) (i : Nat) : crcBits 16 0x1021 i ((a ++ b).flatMap byteBits) =
    crcBits 16 0x1021 (crcBits 16 0x1021 i (a.flatMap byteBits)) (b.flatMap byteBits) := by
  rw [List.flatMap_append]
  exact List.foldl_append

theorem crc_head : crcBits 16 0x1021 0xFFFF (blockHead.flatMap byteBits) = 3287 := by decide +kernel
theorem crc_gap1 : crcBits 16 0x1021 3287 (gap25.flatMap byteBits) = 65022 := by decide +kernel
theorem crc_gap2 : crcBits 16 0x1021 65022 (gap25.flatMap byteBits) = 15018 := by decide +kernel
theorem crc_gap3 : crcBits 16 0x1021 15018 (gap25.flatMap byteBits) = 52869 := by decide +kernel
theorem crc_gap4 : crcBits 16 0x1021 52869 (gap25.flatMap byteBits) = 63646 := by decide +kernel

theorem crc_block7 : crc16 (block7.take 118) = 63646 := by
  rw [show block7.take 118 = blockHead ++ (gap25 ++ (gap25 ++ (gap25 ++ gap25))) by decide +kernel]
  unfold crc16 crc16Bits
  rw [crc_append, crc_append, crc_append, crc_append, crc_head, crc_gap1, crc_gap2, crc_gap3, crc_gap4]

theorem witness_block : blockOk portUp 3 block7 = true := by
  unfold blockOk
  rw [crc_block7]
  decide +kernel

/-- Lane 3 has missed one block. -/
def missed3 : Port := { portUp with missing := [(3, 1)] }

/-- Every lane has missed two blocks. -/
def missedAll : Port := { portUp with missing := (List.range 16).map fun l => (l, 2) }

/-- A swap of position 3 to lane 16 at link beat 20, since beat b. -/
def swapping (b : DWord) : Port := { st := .swap, failedLanes := [3], failedAt := [(3, b)], rxBeat := some 20, rxSwap := some ⟨3, 16, 20, b⟩ }

/-- The spares are in use or marked. -/
def noSpare : Port := { portUp with failedLanes := [16, 17] }

/-- An earlier training left lane 3 marked. -/
def marked3 : Port := { portUp with failedLanes := [3] }

theorem witness_LaneFaultsSwapOrFailThePort : 0 < up.variant.ports ∧ (linked portUp).port 0 = portUp ∧ portUp.aligned = true ∧
    blockOk portUp 3 block7 = true ∧ (∀ l ∈ activeLanes (portUp.learn 3 block7), missingOf portUp l < 2) ∧
    (∀ l ∈ activeLanes portUp, missingOf portUp l < 2) ∧ blockOk portUp 3 [] = false ∧ missingOf portUp 3 = 0 ∧
    (∀ p ∈ [portUp, missed3, marked3, noSpare], p.aligned = true ∧ lanePos p 3 = some 3 ∧ p.faulty 3 = false ∧ p.rxSwap = none) ∧
    blockOk missed3 3 [] = false ∧ missingOf missed3 3 = 1 ∧ (∀ l ∈ activeLanes missed3, missingOf missed3 l < 2) ∧
    (∃ l ∈ activeLanes missed3, missingOf missed3 l = 0) ∧ marked3.failedLanes.contains 3 = true ∧
    spareFor { portUp with failedLanes := portUp.failedLanes ++ [3] } = some 16 ∧ spareFor marked3 = some 16 ∧
    noSpare.failedLanes.contains 3 = false ∧ spareFor { noSpare with failedLanes := noSpare.failedLanes ++ [3] } = none ∧
    blockOk missedAll 3 [] = false ∧ 1 ≤ missingOf missedAll 3 ∧
    3 ∈ activeLanes missedAll ∧ (∀ l ∈ activeLanes missedAll, l ≠ 3 → 2 ≤ missingOf missedAll l) ∧
    (swapping 0).aligned = true ∧ (swapping 0).st = .swap ∧ (swapping 0).rxBeat = some 20 ∧
    failedPositions ((swapping 0).useSpare false ⟨3, 16, 20, 0⟩) = [] ∧ (20 : DWord).toNat ≤ (20 : DWord).toNat ∧
    (19 : DWord).toNat < (20 : DWord).toNat ∧ 1000 ≤ ((linked (swapping 0)).nowBeat - 0).toNat ∧
    ((linked (swapping 1)).nowBeat - 1).toNat < 1000 := by
  refine ⟨?_, ?_, ?_, witness_block, ?_⟩ <;> decide +kernel

theorem witness_FramesAreCountedAndAuthenticated : portUp.st = .up ∧ portUp.mode = 0 ∧ 15 < (List.replicate 16 0).length ∧
    overThresh portUp (linked portUp).bgh.laneThresh = none ∧ 1545 ≤ 1545 ∧ 3 ≤ ({ portUp with ctlOk := 3 } : Port).ctlOk ∧
    overThresh { portUp with ctlOk := 3 } (linked portUp).bgh.laneThresh = none ∧
    portUp.tagBeats.length < (linked portUp).bgh.tagLimit.toNat ∧
    (linked portUp).bgh.tagLimit.toNat ≤ ({ portUp with tagBeats := List.replicate 8 1000 } : Port).tagBeats.length ∧
    ((List.replicate 8 (1000 : DWord)).all fun b => decide (((linked portUp).nowBeat - b).toNat < 1000000)) = true ∧
    64 ≤ ({ portUp with noCtl := 64 } : Port).noCtl ∧ ({ portUp with noCtl := 63 } : Port).noCtl < 64 := by decide +kernel

/-- An authentication record with SEQ 0 and n bytes. -/
def authRec (n : Nat) : List Byte := bytesAt 32 [(0, [6]), (4, toLE 1 n)]

/-- A port in AUTH whose own and partner's activation beats are 10. -/
def activating (tx rx : DWord) : Port := { st := .auth, authed := true, actTx := some 10, actRx := 10, txBeat := tx, rxBeat := some rx }

/-- Port 5, which layout 7 gives to no partition, is FAILED. -/
def apart : State := { up with cfg := { layout := 7 }, bgh := { ports := [(5, { st := .failed })] } }

theorem witness_PortsAuthenticateBeforeTheyComeUp : (linked { st := .training }).port 0 = { st := .training } ∧
    (linked { st := .failed }).rooted = true ∧ (linked { st := .failed }).sap.clkEn.getLsbD 4 = true ∧
    portScrubs (linked { st := .failed }) 0 = false ∧ (ptOfPort (linked { st := .failed }) 0).isSome = true ∧
    (ptOfPort apart 5).isNone = true ∧ (apart.port 5).st = .failed ∧
    apart.rooted = true ∧ apart.sap.clkEn.getLsbD 4 = true ∧ portScrubs apart 5 = false ∧ 5 < apart.variant.ports ∧
    ({ st := .training, mode := 1 } : Port).mode ≠ 0 ∧
    (∀ n ∈ [1, 24], getLE (authRec n) 0 1 = 6 ∧ getLE (authRec n) 2 2 = ({ st := .auth } : Port).authSeq ∧
      0 < getLE (authRec n) 4 1 ∧ getLE (authRec n) 4 1 ≤ 24) ∧
    ({ st := .auth } : Port).retryAt = none ∧ ({ st := .auth } : Port).actTx = none ∧ (activating 0 0).actTx = some 10 ∧
    (activating 0 0).retryAt = none ∧ (1000 : DWord).toNat ≤ (linked { st := .auth, retryAt := some 1000 }).nowBeat.toNat ∧
    (linked { st := .auth, retryAt := some 1001 }).nowBeat.toNat < (1001 : DWord).toNat ∧
    (activating 10 10).mode = 0 ∧ (activating 10 10).authed = true ∧ (10 : DWord).toNat ≤ (activating 10 10).txBeat.toNat ∧
    (activating 10 10).actRx.toNat ≤ (10 : DWord).toNat ∧ (activating 9 10).txBeat.toNat < (10 : DWord).toNat ∧
    (9 : DWord).toNat < (activating 10 9).actRx.toNat ∧ ({ st := .auth } : Port).authed = false := by decide +kernel

/-- The head of a job confirm record for a switch at 9. -/
def confirmHead : List Byte := bytesAt 16 [(0, [5]), (8, [9])]

/-- A port that has sent its own confirm and expects key 7. -/
def confirming : Port := { portUp with mine := some (false, 3), nextRx := some 7 }

theorem confirm_ok : confirming.confirms 9 ((confirmTag 7 9).take 8) = true := by
  have h : (confirmTag 7 9).take 8 = confirmTag 7 9 := by
    simp [confirmTag, toBE, toLE]
  rw [h]
  exact beq_self_eq_true _

theorem confirm_bad : confirming.confirms 9 (([] : List Byte).take 8) = false := by
  unfold Port.confirms
  simp [confirming, confirmTag, toBE, toLE]

theorem witness_JobKeysSwitchWhenBothSidesConfirm : portUp.active = true ∧ portUp.mine = none ∧
    getLE confirmHead 0 1 = 5 ∧ getLE (confirmHead.set 1 1) 0 1 = 5 ∧ bitAt (getLE (confirmHead.set 1 1) 1 1) 0 = true ∧ confirming.active = true ∧ confirming.mine = some (false, 3) ∧
    BitVec.ofNat 64 (getLE confirmHead 8 8) = 9 ∧ bitAt (getLE confirmHead 1 1) 0 = false ∧
    confirming.confirms 9 ((confirmTag 7 9).take 8) = true ∧ confirming.confirms 9 (([] : List Byte).take 8) = false ∧
    (∀ b, ({ portUp with switchAt := some (1000, b) } : Port).switchAt = some (1000, b)) ∧
    (1000 : DWord).toNat ≤ (linked portUp).nowBeat.toNat ∧ (linked portUp).nowBeat.toNat < (1001 : DWord).toNat := by
  refine ⟨?_, ?_, ?_, ?_, ?_, ?_, ?_, ?_, ?_, confirm_ok, confirm_bad, ?_, ?_, ?_⟩ <;> decide +kernel

/-! ## Witnesses: outer memory, power, configuration -/

/-- A write-combining entry of line 0, first written in beat b. -/
def wc0 (b : DWord) : WcEntry := { pt := 0, host := false, line := 0, data := [(5, 1)], first := b, waits := false }

def combining (e : WcEntry) (kids : FMap (BitVec 768) := [(0, 0)]) : State := { up with mb := { wc := [e], kids } }

/-- A MAC check of bus 0 and line 3 is outstanding. -/
def checking : State := { up with mb := { checks := [(0, 3, 1)], kids := [(0, 0)] } }

/-- One output in each release buffer. -/
def releasing (closed : Bool) : State :=
  { up with gates := { closed := closed, bough := [.pulse 1], pcie := [.pulse 2], ckpt := [.pulse 3] } }

/-- Page 0 has a tracker, or waits early re-encryption. -/
def tracked : State := { up with mb := { om := [(0, ⟨0, 0, [], [], some ⟨[]⟩⟩)] } }

def watched : State := { up with mb := { watch := [0] } }

theorem witness_OuterLinesAreCombinedCheckedAndReleased :
    (∀ b ∈ [998, 999], (combining (wc0 b)).mb.wc.find? (fun e => e.line == 0 && !e.waits) = some (wc0 b)) ∧
    pageBus (0 / 64) = 0 ∧ 2 ≤ ((combining (wc0 998)).cmb.beat - (wc0 998).first).toNat ∧
    lineExhausted (combining (wc0 998)) 0 = false ∧ inInit (combining (wc0 998)) 0 = false ∧
    keyLive (combining (wc0 998)) 0 = true ∧ (true && keyLive (combining (wc0 998) []) 0) = false ∧
    (combining (wc0 998) []).isHalted = false ∧
    mget (omPage (combining (wc0 998)) 0).defMinor (omPage (combining (wc0 998)) 0).minors 0 < 127 ∧
    ((combining (wc0 999)).cmb.beat - (wc0 999).first).toNat < 2 ∧ (omPage up 0).tracker = none ∧
    up.mb.watch.contains 0 = false ∧ (omPage watched 0).tracker = none ∧ watched.mb.watch.contains 0 = true ∧
    (omPage watched 0).major + 1 < 2 ^ 64 - 1 ∧ (omPage tracked 0).tracker.isSome = true ∧
    (∀ e ∈ tracked.mb.wc, e.waits = false) ∧ checking.isHalted = false ∧
    checking.mb.checks.find? (fun e => e.1 == 0 && e.2.1 == 3) = some (0, 3, 1) ∧
    (true && keyLive checking (64 * rawPage 0 3 + 3 % 64)) = true ∧ (false && keyLive checking (64 * rawPage 0 3 + 3 % 64)) = false ∧
    (releasing true).gates.closed = true ∧
    (releasing false).gates.closed = false ∧ (releasing false).gates.bough = [.pulse 1] ∧
    (releasing false).gates.pcie = [.pulse 2] ∧ (releasing false).gates.ckpt = [.pulse 3] := by
  refine ⟨?_, ?_⟩
  · simp [combining, wc0]
  · decide +kernel

/-- Region 0 reads as x. -/
def regioned (x : Region) : State := { up with mb := { regions := [(0, x)] } }

/-- A step that runs beside a count of refreshes of stack 0. -/
def refreshing (n : Nat) : State := { busy with mb := { refresh := [(0, [n])] } }

/-- An entry of the region is held. -/
def holding : State := { up with mb := { regions := [(0, { st := .flushing, pages := 4, prev := 1 })], wc := [wc0 998] } }

/-- A region is being swept whose untouched pages have the major counter d. -/
def sweep (d : Nat) : State :=
  regioned { st := .rotating, sweeping := true, pages := 4, kid := 1, defMajor := d, defMinor := 127 }

/-- A page being swept has a line that overflows, and the trackers of its bus are all at work on pages of another region. -/
def crowdedBus : State :=
  { up with mb := { regions := [(0, { st := .rotating, sweeping := true, pages := 4, kid := 1 })],
                    om := (0, ⟨0, 0, [(0, 127)], [(0, 0)], none⟩) :: (List.range 16).map fun i => (8 * (i + 1), ⟨0, 0, [], [], some ⟨[]⟩⟩) } }

theorem witness_KeyRegionsGoRoundTheirStates : ((regioned { st := .init, pages := 4 }).region 0).st = .init ∧
    (∀ e ∈ (regioned { st := .init, pages := 4 }).mb.wc, e.waits = true →
      inRegion (regioned { st := .init, pages := 4 }) 0 (e.line / 64) = false) ∧
    ((regioned { st := .active }).region 0).st ≠ .init ∧
    (∀ st ∈ [RegSt.active, .exhausted], ((regioned { st, rotate := true }).region 0).rotate = true ∧
      ((regioned { st, rotate := true }).region 0).st = st ∧ ((regioned { st, rotate := true }).region 0).sweeping = false ∧
      ((regioned { st, rotate := true }).region 0).prev = ((regioned { st, rotate := true }).region 0).kid ∧
      ((regioned { st, rotate := true }).part 0).running = none) ∧
    ((regioned { st := .active }).region 0).rotate = false ∧ (busy.part 0).running.isSome = true ∧
    ((regioned { st := .active }).region 0).sweeping = false ∧
    (∀ d ∈ [0, 2 ^ 64 - 2], ((sweep d).region 0).sweeping = true ∧ ((sweep d).region 0).wasExhausted = false ∧
      ((sweep d).region 0).rest.spent ((sweep d).region 0).kid = (d == 2 ^ 64 - 2) ∧
      ((sweep d).mb.om.map (·.1)).filter (inRegion (sweep d) 0) = [] ∧
      (sweepPages ((sweep d).region 0).kid false [] (sweep d)).isSome = true) ∧
    sweepPages 1 false [0] crowdedBus = none ∧ ((crowdedBus.mb.om.map (·.1)).filter (inRegion crowdedBus 0)) = [0] ∧
    (crowdedBus.region 0).sweeping = true ∧ (crowdedBus.region 0).kid = 1 ∧ (crowdedBus.region 0).rest.spent 1 = false ∧
    (omPage crowdedBus 0).spent 1 = false ∧
    ((regioned { st := .flushing, prev := 1 }).region 0).prev ≠ ((regioned { st := .flushing, prev := 1 }).region 0).kid ∧
    (∀ e ∈ (regioned { st := .flushing, prev := 1 }).mb.wc, inRegion (regioned { st := .flushing, prev := 1 }) 0
      (e.line / 64) = false) ∧ (∃ e ∈ holding.mb.wc, inRegion holding 0 (e.line / 64) = true) ∧ ptOfStack busy 0 = some 0 ∧
    ((refreshing 5).part 0).running = some run0 ∧ run0.ph = .running ∧ 5 ≤ (refreshOf (refreshing 5) 0).getD 0 0 ∧
    (refreshOf (refreshing 4) 0).getD 0 0 < 5 := by decide +kernel

/-- Grove g reads as x. -/
def warm (x : Thermal) : State := { up with sap := { up.sap with thermal := [(0, x)] } }

theorem witness_PowerAndResetsClearTheModule : up.powered = true ∧
    ({ up with pwr := { stage := .dormant, pwrOk := false } } : State).powered = false ∧
    920 ≤ ((warm { compute := 920 }).thermal 0).compute ∧ 840 ≤ ((warm { hbm := 840 }).thermal 0).hbm ∧
    (∀ g < 8, (up.thermal g).compute < 920 ∧ (up.thermal g).hbm < 840) ∧
    ({ up with pwr := { stage := .dormant, pwrEn := false } } : State).pwr.pwrEn = false ∧ up.pwr.supply = true ∧
    up.pwr.pwrEn = true ∧ ({ up with pwr := { supply := false } } : State).pwr.supply = false := by decide +kernel

/-- The digest of no bytes. -/
def noDigest : List Byte := toBE 64 (Config.sha512 []).toNat

/-- The component record of an empty component of a type, before its DIGEST. -/
def compHead (type : Nat) : List Byte := toLE 1 type ++ zeros 23

/-- The component records of types i and up. -/
def comps : List Nat → List Byte
  | [] => []
  | i :: l => compHead i ++ (noDigest ++ (zeros 40 ++ comps l))

/-- The header of a bundle of 704 bytes, SVN 3, COMMIT_SVN set, for both variants. -/
def bundleHead : List Byte := [0x51, 0x5A, 0x46, 0x57, 1, 0, 3, 1] ++ toLE 8 704 ++ zeros 4 ++ toLE 4 3 ++ zeros 40

/-- A bundle of five empty components. -/
def bundle0 : List Byte := bundleHead ++ comps [1, 2, 3, 4, 5]

theorem slotPart_mid (a d z : List Byte) (o n : Nat) (ha : a.length = o) (hd : d.length = n) :
    slotPart (a ++ (d ++ z)) o n = d := by
  simp [slotPart, ← ha, ← hd]

theorem noDigest_length : noDigest.length = 64 := by simp [noDigest, toBE, toLE]

theorem comps_length (l : List Nat) : (comps l).length = 128 * l.length := by
  induction l with
  | nil => rfl
  | cons i l ih =>
    simp only [comps, List.length_append, ih, noDigest_length, List.length_cons]
    simp [compHead, toLE, zeros]
    omega

theorem comps_append (k l : List Nat) : comps (k ++ l) = comps k ++ comps l := by
  induction k with
  | nil => rfl
  | cons i k ih => simp only [List.cons_append, comps, ih, List.append_assoc]

theorem bundle0_digest (k l : List Nat) (i : Nat) (h : [1, 2, 3, 4, 5] = k ++ i :: l) :
    slotPart bundle0 (64 + 128 * k.length + 24) 64 = noDigest := by
  have : bundle0 = (bundleHead ++ (comps k ++ compHead i)) ++ (noDigest ++ (zeros 40 ++ comps l)) := by
    unfold bundle0
    rw [h, comps_append, comps]
    simp only [List.append_assoc]
  rw [this]
  refine slotPart_mid _ _ _ _ _ ?_ noDigest_length
  simp only [List.length_append, comps_length]
  simp [bundleHead, compHead, toLE, zeros]
  omega

theorem bundle0_comp (i : Nat) (h : i ∈ List.range 5) : compOff bundle0 i = 0 ∧ compSize bundle0 i = 0 := by
  revert i
  decide +kernel

theorem bundle0_components : componentsOk bundle0 = true := by
  have hd : ∀ i ∈ List.range 5, slotPart bundle0 (64 + 128 * i + 24) 64 = noDigest := by
    intro i hi
    have : i < 5 := List.mem_range.mp hi
    match i with
    | 0 => exact bundle0_digest [] [2, 3, 4, 5] 1 rfl
    | 1 => exact bundle0_digest [1] [3, 4, 5] 2 rfl
    | 2 => exact bundle0_digest [1, 2] [4, 5] 3 rfl
    | 3 => exact bundle0_digest [1, 2, 3] [5] 4 rfl
    | 4 => exact bundle0_digest [1, 2, 3, 4] [] 5 rfl
  unfold componentsOk
  rw [List.all_eq_true]
  intro i hi
  have hc := bundle0_comp i hi
  rw [Bool.and_eq_true]
  refine ⟨?_, ?_⟩
  · unfold compOk compDigest
    rw [hd i hi, hc.1, hc.2, show slotPart bundle0 0 0 = [] by simp [slotPart]]
    simp [noDigest]
  · rw [List.all_eq_true]
    intro j hj
    have hj' := bundle0_comp j (List.mem_range.mpr (Nat.lt_trans (List.mem_range.mp hj) (List.mem_range.mp hi)))
    simp [compApart, hc, hj']

/-- What the verification of a bundle finds. -/
def found (sig : Bool) : SlotCheck := { signerOk := true, sigOk := sig, flashOk := true }

theorem bundle0_ok (s : State) (h : bundleHeader s bundle0 = true) (sig : Bool) : bundleOk s bundle0 (found sig) = sig := by
  unfold bundleOk
  rw [h, bundle0_components, show decide (bundleLength bundle0 ≤ Machine.slotBytes) = true by decide +kernel]
  cases sig <;> rfl

/-- The climb at a stage. -/
def climb (stage : Stage) (time : Nat := 20000) : State :=
  { up with pwr := { stage, perst := false, uptime := time, trefAt := some 0 }, cnp := { up.cnp with slot := bundle0 } }

/-- A bound has passed in a stage. -/
def late (stage : Stage) : State := climb stage (2 ^ 40)

theorem witness_StagesAreClimbedInOrder : State.reset.pwr.perst = true ∧ up.pwr.perst = false ∧
    (∀ s ∈ [climb .dormant 0, late .dormant], s.pwr.stage = .dormant ∧ s.pwr.pwrOk = true ∧ s.pwr.failed = false) ∧
    boundPassed (climb .dormant 0) = false ∧ boundPassed (late .dormant) = true ∧
    (climb .seedling).pwr.stage = .seedling ∧ (climb .seedling).climbing = true ∧ (climb .seedling).cnp.slotOk = true ∧
    bundleOk (climb .seedling) (climb .seedling).cnp.slot (found true) = true ∧
    ((climb .seedling).cnp.slotOk && bundleOk (climb .seedling) (climb .seedling).cnp.slot (found false)) = false ∧
    (climb .rooted).pwr.stage = .rooted ∧ (climb .rooted).climbing = true ∧
    (climb .rooted).cmb.tref = true ∧ (climb .rooted).cmb.pllLocked = true ∧ State.reset.cmb.tref = false ∧
    (climb .leafed).pwr.stage = .leafed ∧ (climb .leafed).climbing = true ∧
    (1 ≤ 1 ∧ 6 ≤ 6) ∧ boundPassed (climb .rooted) = false ∧ (late .rooted).pwr.pwrOk = true ∧ boundPassed (late .rooted) = true ∧
    (late .rooted).pwr.failed = false := by
  refine ⟨?_, ?_, ?_, ?_, ?_, ?_, ?_, ?_, bundle0_ok _ ?_ _, ?_, ?_⟩
  case refine_10 => rw [show (climb .seedling).cnp.slot = bundle0 from rfl, bundle0_ok _ (by decide +kernel)]; decide +kernel
  all_goals decide +kernel

/-- A step waits for the standby PLL. -/
def locking : State := { up with sap := { up.sap with pt := [(0, { standbyTier := 2 })] },
                                 parts := [(0, { sel := some { sel0 with waitLock := true, tau := 2 } })] }

/-- A running step beside a warm grove. -/
def warmBusy (x : Thermal) : State := { busy with sap := { busy.sap with thermal := [(7, x)] } }

/-- The frequency counter measures. -/
def measuring : State := { up with sap := { up.sap with fmcBusy := true } }

theorem witness_ClocksAndProtectionAct : locking.powered = true ∧ (locking.clock 0).standbyLocked = false ∧
    (locking.clock 0).domainReset = false ∧ (locking.part 0).sel = some { sel0 with waitLock := true, tau := 2 } ∧
    ({ sel0 with waitLock := true, tau := 2 } : StepRun).tau = (locking.clock 0).standbyTier ∧ 0 < (ptList busy).length ∧
    (({ up with sap := { up.sap with pt := [(0, { domainReset := true })] } } : State).clock 0).domainReset = true ∧
    ptOfGrove busy 7 = some 0 ∧ (busy.part 0).running = some run0 ∧ run0.ph = .running ∧
    840 ≤ ((warmBusy { compute := 840 }).thermal 7).compute ∧ ((warmBusy { compute := 840 }).thermal 7).stop = false ∧
    760 ≤ ((warmBusy { hbm := 760 }).thermal 7).hbm ∧
    drawTrips busy 0 7 ⟨0, 2 ^ 40, 0⟩ = true ∧ drawTrips busy 0 7 ⟨0, 0, 0⟩ = false ∧
    coolLong { up with pwr := { up.pwr with uptime := 1000 },
                       sap := { up.sap with thermal := (List.range 8).map fun g => (g, { cool := some 0 }) } } 0 = true ∧
    coolLong up 0 = false ∧ up.rooted = true ∧ up.sap.clkEn.getLsbD 7 = true ∧ anyOwns up 20 = false ∧
    up.sap.fmcTgtSrc < 14 ∧ up.sap.fmcRefSrc < 14 ∧
    14 ≤ ({ up with sap := { up.sap with fmcTgtSrc := 14 } } : State).sap.fmcTgtSrc ∧
    measuring.sap.fmcBusy = true ∧ fmcFinds measuring measuring.sap.fmcWindow.toNat = true ∧
    fmcFinds measuring (measuring.sap.fmcWindow.toNat + 2) = false := by decide +kernel

/-- A commit was requested in the beat. -/
def armed (pending : Bool) (c : DWord) : State := { up with cfg := { pending, arms := [c] } }

/-- A commit is pending and due. -/
def committing : State := { up with cfg := { pending := true, remain := some 0, stLayout := 2 } }

theorem witness_ConfigurationCommitsTakeEffectWhole : up.rooted = true ∧ (armed true 0).cfg.arms = [0] ∧
    commitCheck (armed true 0) 0 = some 7 ∧ commitCheck (armed false 0) 0 = none ∧
    commitCheck (armed false 1016) 1016 = none ∧ commitCheck (armed false 1015) 1015 = some 1 ∧ commitDue up = false ∧
    commitDue committing = true ∧ 1 ≤ committing.cfg.stLayout ∧ committing.cfg.stLayout ≤ 8 ∧
    (∀ p < 4, (committing.tenancy p).st = .none) ∧ (committing.redPt 0).stInit ≠ 0 ∧ (committing.redPt 0).stInit ≠ 0xFF ∧
    (committing.port 0).stMode ≠ 3 := by decide +kernel

/-! ## Witnesses: Canopy, Heartwood, tenancies and the whole machine -/

/-- A log entry. -/
def ent0 : LogEnt := { beat := 0, uptime := 0, source := 1, event := 0, pt := 0, aligned := true, coreDown := false, detail := [] }

/-- One entry waits, n have been programmed in the interval. -/
def logging (n : Nat) : State := { up with cnp := { up.cnp with fifo := [ent0], intervalCount := n } }

/-- An open log block with n entries. -/
def block0 (n : Nat) : LogBlock := { seq := 0, firstSeq := 0, entries := List.replicate n [] }

/-- It is the newest block, and the module is up since a time. -/
def blocked (n time : Nat) : State :=
  { up with pwr := { up.pwr with uptime := time }, cnp := { up.cnp with blocks := [block0 n], intervalStart := time } }

theorem witness_TheLogTakesEntriesInOrder : up.coreRuns = true ∧ intervalOver up = false ∧
    (logging 4095).coreRuns = true ∧ intervalOver (logging 4095) = false ∧ (logging 4095).cnp.fifo = [ent0] ∧
    (logging 4095).cnp.intervalCount < 4096 ∧ 4096 ≤ (logging 4096).cnp.intervalCount ∧
    (∀ b ∈ [blocked 1019 0, blocked 0 10000000, blocked 1018 9999999], b.coreRuns = true ∧ intervalOver b = false) ∧
    openBlock (blocked 1019 0).cnp = some (block0 1019) ∧ 1019 ≤ (block0 1019).entries.length ∧
    openBlock (blocked 0 10000000).cnp = some (block0 0) ∧
    (block0 0).firstUp + 10000000 ≤ (blocked 0 10000000).pwr.uptime ∧
    (block0 1018).entries.length < 1019 ∧ (blocked 1018 9999999).pwr.uptime < (block0 1018).firstUp + 10000000 := by
  decide +kernel

/-- The core of Canopy has been reset alone; the slot holds the bundle of five empty components. -/
def coreless : State := { up with cnp := { up.cnp with coreDown := true, slot := bundle0 } }

/-- The digest of the last Rooted stage is that of the slot's component. -/
def matching : State := { coreless with hw := { coreless.hw with canopyDigest := compDigest bundle0 0 } }

theorem matching_component : canopyComponent matching.cnp.slot = some matching.hw.canopyDigest := by
  have h : ((List.range 5).find? fun i => slotField bundle0 (64 + 128 * i) 1 == 1) = some 0 := by decide +kernel
  have hs : matching.cnp.slot = bundle0 := rfl
  unfold canopyComponent
  rw [hs, h]
  rfl

theorem witness_CanopyCoreResetsAlone : up.coreRuns = true ∧ up.cnp.resets < 0xFFFF ∧
    (∀ s ∈ [coreless, matching], s.cnp.coreDown = true ∧ s.hw.booted = true ∧ s.cnp.romMode = false) ∧
    canopyComponent matching.cnp.slot = some matching.hw.canopyDigest ∧
    canopyComponent ({ coreless with cnp := { coreless.cnp with slot := zeros 704 } } : State).cnp.slot ≠
      some coreless.hw.canopyDigest :=
  ⟨by decide +kernel, by decide +kernel, by decide +kernel, matching_component, by decide +kernel⟩

/-- A management key and an anchor stand, and n TLS connections. -/
def managed (n : Nat) : State := { up with cnp := { up.cnp with mgmtKey := some 1, anchor := some [], tlsOpen := n } }

theorem witness_CanopyServesManagement : up.coreRuns = true ∧ up.cnp.up = true ∧ (managed 3).coreRuns = true ∧
    (managed 3).cnp.up = true ∧ 895 < sensorCount up.variant ∧
    ({ up with sap := { up.sap with rails := [⟨12, 3⟩] } } : State).sap.rails[0]? = some ⟨12, 3⟩ ∧ (400 ≤ 400 ∧ 3000 ≤ 3000) ∧
    399 < 400 ∧ 3000 < 3001 ∧ (zeros 2048).length ≤ 2048 ∧ up.cnp.anchor = none ∧ (managed 3).cnp.anchor.isSome = true ∧
    0 < (managed 3).cnp.tlsOpen ∧ up.cnp.recovery = false ∧ (managed 3).cnp.mgmtKey.isSome = true ∧
    (managed 3).cnp.tlsOpen < 4 ∧ 4 ≤ (managed 4).cnp.tlsOpen := by decide +kernel

/-- The recovery loader runs over a slot with the bundle, begun or not, and the bundle's header stands in the mailbox. -/
def recov (begun : Bool) (offset length : Word) (svn : Nat := 2) : State :=
  { seed with cnp := { recovery := true, slot := bundle0 }, hw := { svnFuses := svn },
              pwr := { seed.pwr with rcvBegun := begun, rcvOffset := offset, rcvLength := length,
                                     rcvData := bundleHead.zipIdx.map fun e => (e.2, e.1) } }

/-- The mailbox holds zeros. -/
def blankBox : State := { recov false 0 64 with pwr := { (recov false 0 64).pwr with rcvData := [] } }

/-- An operation is BUSY, and what it verified may be READY. -/
def mailed (isReady : Bool) : State :=
  { recov false 0 64 with pwr := { (recov false 0 64).pwr with rcvBusy := true, rcvReady := isReady } }

theorem witness_FirmwareIsCheckedBeforeItRuns : up.cnp.tlsOpen = 0 ∧ (managed 1).coreRuns = true ∧
    (managed 1).cnp.up = true ∧ (managed 1).cnp.recovery = false ∧ 0 < (managed 1).cnp.tlsOpen ∧
    bundleHeader (managed 1) (zeros 704) = false ∧ bundleHeader (managed 1) bundle0 = true ∧
    (∀ s ∈ [mailed false, mailed true], s.powered = true ∧ s.cnp.recovery = true ∧ s.pwr.rcvBusy = true) ∧
    (mailed false).pwr.rcvReady = false ∧ (mailed true).pwr.rcvReady = true ∧
    (∀ s ∈ [recov false 0 64, blankBox, recov false 0 64 4, recov true 134184960 32768, recov true 1 64], s.powered = true ∧
      s.cnp.recovery = true ∧ s.pwr.rcvBusy = false) ∧
    headerMatches blankBox (rcvChunk blankBox) = false ∧
    headerMatches (recov false 0 64 4) (rcvChunk (recov false 0 64 4)) = true ∧
    svnOk (recov false 0 64 4) (rcvChunk (recov false 0 64 4)) = false ∧
    bundleHeader (recov false 0 64) (rcvChunk (recov false 0 64)) = true ∧
    bundleLength (rcvChunk (recov false 0 64)) ≤ Machine.slotBytes ∧ (recov false 0 64).pwr.rcvOffset = 0 ∧
    chunkFits (recov false 0 64) = true ∧ (recov false 0 64).pwr.rcvBegun = false ∧
    (recov true 134184960 32768).pwr.rcvBegun = true ∧ chunkFits (recov true 134184960 32768) = true ∧
    chunkFits (recov true 1 64) = false ∧ (recov true 1 64).pwr.rcvBegun = true ∧
    (∀ sig, bundleOk (recov true 0 64) (recov true 0 64).cnp.slot (found sig) = sig) := by
  refine ⟨?_, ?_, ?_, ?_, ?_, ?_, ?_, ?_, ?_, ?_, ?_, ?_, ?_, ?_, ?_, ?_, ?_, ?_, ?_, ?_, ?_, ?_, ?_, bundle0_ok _ ?_⟩ <;>
    decide +kernel

/-- Dormant with 48 V, watching TAMPER_IN#. -/
def dormant : State := { pwr := { stage := .dormant, pwrEn := false, pwrOk := false, tamperWatch := true } }

theorem witness_TamperDestroysKeysAndHalts : (inLife 3).powered = true ∧ armedState (lcState (inLife 3).hw) = true ∧
    (inLife 1).powered = true ∧ armedState (lcState (inLife 1).hw) = false ∧ dormant.pwr.stage = .dormant ∧
    dormant.pwr.supply = true ∧ dormant.pwr.tamperWatch = true ∧ up.pwr.stage ≠ .dormant := by decide +kernel

/-- A challenge is outstanding since 5 s, and a TLS connection is open. -/
def challenged (marks : BitVec 5) : State :=
  { up with cnp := { up.cnp with tlsOpen := 1 },
            hw := { up.hw with lcDone := marks, challenge := some (zeros 64), challengeAt := 5000000 } }

theorem witness_LifeCycleTransitionsReachTheirTarget :
    (∃ key der x, (if der.isEmpty then (challenged 3).cnp.idCert else some ⟨key, der⟩) = some x ∧
      x.key = Config.p521Public (ikOf (challenged 3).hw)) ∧
    (∀ n ∈ [1, 3, 7], (challenged (BitVec.ofNat 5 n)).isHalted = false ∧ (challenged (BitVec.ofNat 5 n)).hw.after = [] ∧
      (∀ p < 4, ((challenged (BitVec.ofNat 5 n)).tenancy p).st = .none) ∧
      (challenged (BitVec.ofNat 5 n)).hw.challenge.isSome = true ∧ (challenged (BitVec.ofNat 5 n)).coreRuns = true ∧
      (challenged (BitVec.ofNat 5 n)).cnp.up = true ∧ 0 < (challenged (BitVec.ofNat 5 n)).cnp.tlsOpen) ∧
    up.isHalted = false ∧ up.hw.after = [] ∧ (∀ p < 4, (up.tenancy p).st = .none) ∧ up.powered = true ∧
    lcState up.hw = .wafer ∧ lcState (challenged 1).hw ≠ .wafer ∧ (challenged 1).hw.booted = true ∧
    lcState (challenged 1).hw = .assembled ∧ (challenged 1).hw.bankA.burnt = false ∧ (0x81 : Byte) ≠ 0x80 ∧
    up.cnp.tlsOpen = 0 ∧ lcState (challenged 3).hw = .provisioned ∧ lcState (challenged 7).hw = .deployed ∧
    lcState (challenged 3).hw ≠ .scrapped ∧ lcState (challenged 3).hw ≠ .wafer ∧
    lcState (challenged 3).hw ≠ .assembled ∧ (challenged 1).hw.bankA.valid = false ∧ (challenged 1).hw.bankB.valid = false ∧
    (if ([] : List Byte).isEmpty then (challenged 3).cnp.idCert else some ⟨[], []⟩) = none :=
  ⟨⟨_, [1], _, rfl, rfl⟩, by decide +kernel⟩

/-- The module up since t microseconds. -/
def since (s : State) (t : Nat) : State := { s with pwr := { s.pwr with uptime := t } }

/-- The attestation lock was asked for, and may stand. -/
def lockAsked (stands : Bool) : State := { up with hw := { up.hw with lockReq := true, locked := stands } }

theorem witness_DebugOpensOnlyOverAChallenge : (challenged 7).hw.booted = true ∧ (challenged 7).isHalted = false ∧
    lcState (challenged 1).hw = .assembled ∧ (challenged 7).coreRuns = true ∧ (challenged 7).cnp.up = true ∧
    0 < (challenged 7).cnp.tlsOpen ∧ (challenged 7).hw.tokenFails < 8 ∧
    8 ≤ ({ up with hw := { up.hw with tokenFails := 8 } } : State).hw.tokenFails ∧
    (since (challenged 7) 605000000).hw.challengeAt + 600000000 ≤ (since (challenged 7) 605000000).pwr.uptime ∧
    (since (challenged 7) 604999999).pwr.uptime < (since (challenged 7) 604999999).hw.challengeAt + 600000000 ∧
    lcState (challenged 7).hw = .deployed ∧ lcState (challenged 3).hw = .provisioned ∧
    (challenged 7).hw.challenge.isSome = true ∧ (challenged 7).sessions = [] ∧ (challenged 7).hw.after = [] ∧
    (∀ p < 4, ((challenged 7).tenancy p).st = .none) ∧ (7 : Byte).toNat < 8 ∧ up.rooted = true ∧ up.hw.locked = false ∧
    (lockAsked true).hw.locked = true ∧ (lockAsked false).hw.lockReq = true ∧ (lockAsked false).hw.locked = false ∧
    up.hw.lockReq = false := by decide +kernel

/-- Session 1, finished or not, bound to a partition as a party. -/
def inSession (pt : Option Nat) (party : Nat) (t : Tenancy) (finished : Bool := true) : State :=
  { inLife 7 with sessions := [(1, { live := true, finished := finished, pt := pt, party := party })], ten := [(0, t)] }

/-- An open tenancy with party 2 declared, whose key hash is that of 133 zero bytes. -/
def open0 : Tenancy :=
  { st := .opened, hbmKey := some 5, parties := [(2, { declared := true, keyHash := Config.sha512 (zeros 133) })] }

theorem witness_TenancyMessagesChangeTheTenancy : 1 < 2 ^ 32 ∧
    Carries (.partyJoin 1 255 7 (zeros 133) []) 1 (.partyJoin 255 7 (zeros 133) []) ∧
    ((inSession none 0 {}).session 1).finished = true ∧ ((inSession none 0 {} false).session 1).finished = false ∧
    (inSession none 0 {}).isHalted = false ∧ ((inSession none 0 {}).session 1).pt = none ∧
    0 < (ptList (inSession none 0 {})).length ∧ (ptList (inSession none 0 {})).length ≤ 4 ∧
    ((inSession none 0 {}).tenancy 0).st = .none ∧ ((inSession none 0 {}).tenancy 0).scrubFailed = false ∧
    tenantsAllowed (inSession none 0 {}) = true ∧ (inSession none 0 {}).hw.after = [] ∧
    ((inSession (some 0) 0 open0).session 1).pt = some 0 ∧ ((inSession (some 0) 0 open0).session 1).party = 0 ∧
    (1 ≤ 1 ∧ 7 ≤ 7) ∧ ((inSession (some 0) 0 open0).tenancy 0).started = false ∧
    ((inSession (some 0) 0 { open0 with started := true }).tenancy 0).started = true ∧ (1 : Key) ≠ 0 ∧
    ((inSession (some 0) 0 open0).tenancy 0).regionsDefined = false ∧
    ((inSession (some 0) 0 { open0 with regionsDefined := true }).tenancy 0).regionsDefined = true ∧
    ((inSession (some 0) 2 open0).session 1).pt = some 0 ∧ ((inSession (some 0) 2 open0).session 1).party ≠ 0 ∧
    ((inSession none 0 open0).session 1).pt = none ∧ ((inSession none 0 open0).tenancy 0).st = .opened ∧
    (mget {} ((inSession none 0 open0).tenancy 0).parties 2 : PartyRec).declared = true ∧
    (mget {} ((inSession none 0 open0).tenancy 0).parties 2 : PartyRec).session = none ∧
    Config.sha512 (zeros 133) = (mget {} ((inSession none 0 open0).tenancy 0).parties 2 : PartyRec).keyHash ∧
    joinText ((inSession none 0 open0).session 1) 0 2 ≠ [] :=
  ⟨by decide, ⟨by decide, by decide, by decide +kernel, rfl⟩, rfl, rfl, rfl, rfl, by decide +kernel, by decide +kernel, rfl, rfl,
    by decide +kernel, rfl, rfl, rfl, by decide, rfl, rfl, by decide, rfl, rfl, rfl, by decide, rfl, rfl, rfl, rfl, rfl,
    by simp [joinText, ascii]⟩

/-- A partition that closes, or scrubs since b µs, 1,000 µs up. -/
def ending (st : TenSt) (b : Nat) (due : Bool := false) : State :=
  { up with pwr := { up.pwr with uptime := 1000 }, ten := [(0, { st := st, hbmKey := some 5, scrubStart := b, scrubDue := due })] }

/-- A tenancy whose region 0 is party 2's. -/
def leaving : State := { inSession (some 0) 2 open0 with mb := { regions := [(0, { st := .active, party := 2 })] } }

theorem witness_TenanciesEndInAScrub : (leaving.session 1).live = true ∧ (leaving.session 1).finished = true ∧
    leaving.isHalted = false ∧ (leaving.session 1).pt = some 0 ∧ (leaving.session 1).party ≠ 0 ∧ 0 ∈ regionsOf 0 ∧
    (leaving.region 0).st ≠ .unused ∧ (leaving.region 0).party = (leaving.session 1).party ∧
    ((inSession (some 0) 0 open0).session 1).live = true ∧ ((inSession (some 0) 0 open0).session 1).party = 0 ∧
    ((inSession (some 0) 0 open0).tenancy 0).st = .opened ∧ ((ending .closing 0).tenancy 0).st = .closing ∧
    ((ending .closing 0).part 0).sel = none ∧ ((ending .closing 0).part 0).running = none ∧
    (ending .closing 0).isHalted = false ∧ (busy.part 0).running.isSome = true ∧
    ((ending .closing 0 true).tenancy 0).st = .closing ∧ ((ending .closing 0 true).tenancy 0).scrubDue = true ∧
    (ending .closing 0 true).isHalted = false ∧ ((ending .closing 0).tenancy 0).scrubDue = false ∧
    ((ending .scrubbing 480).tenancy 0).st = .scrubbing ∧
    (ending .scrubbing 480).pwr.uptime = ((ending .scrubbing 480).tenancy 0).scrubStart + 520 ∧
    (ending .scrubbing 481).pwr.uptime ≠ ((ending .scrubbing 481).tenancy 0).scrubStart + 520 ∧
    queuePt { hosted queue0 with ten := (ending .scrubbing 480).ten } 0 = some 0 :=
  ⟨rfl, rfl, rfl, rfl, by decide, by decide, by decide, rfl, rfl, rfl, rfl, rfl, rfl, rfl, rfl, rfl, rfl, rfl, rfl, rfl, rfl,
    by decide +kernel, by decide +kernel, by decide +kernel⟩

theorem witness_EveryCommandCompletesOrHasABadOperand :
    Instr.beatBoundary.wf up.variant.ports up.variant.stacks = true ∧
    (Instr.retrain 8).wf up.variant.ports up.variant.stacks = false ∧ exec .beatInLost up = .next up :=
  ⟨rfl, rfl, rfl⟩

theorem witness_EveryStepKeepsTheMemoryForm : Memory.wf up = true ∧ step up = .next up := ⟨rfl, rfl⟩

theorem witness_FusesAreOnlyEverBurnt : up.hw.tamperFuses ≤ 32 ∧ step up = .next up := ⟨by decide, rfl⟩

theorem witness_TheBeatNumberCountsBoundariesAlone : up.powered = true ∧ up.onGrid = true ∧
    exec .beatInLost up = .next up ∧ ∃ t, exec .beatBoundary up = .next t ∧ t.onGrid = true :=
  ⟨rfl, rfl, rfl, beatBoundaryEffect up, rfl, by decide +kernel⟩

theorem witness_MemoryReturnsWhatWasWritten : Memory.wf busy = true ∧ (hbmKey (stashed rec0) 0).isSome = true ∧
    (zeros 64).length = 64 ∧ stackBytes ≤ 23436988 * 2048 ∧ 23436988 * 2048 - 64 < stackBytes := by decide +kernel

/-! ## Ill-formed commands: one for each check of Instr.wf, which refuses it -/

def fault0 : FaultInfo :=
  { cause := 0, point := 0, suspect := 0, ac := 0, cluster := 0, stream := 0, word := 0, detail := 0 }

def sealed0 : Sealed := ([], 0)

def illFormed0 : List Instr :=
  [.registerWrite 0 32 0x2000000 0, .beatInFrame [], .beatMarker 8 [] 0 0, .delayRequest 8 [] 0 0,
   .delayReply 8 [] 0 0, .slotDeadlineExpiry 4 0 0, .nop ⟨4, 0, .f⟩ 0, .nop ⟨0, 800, .f⟩ 0, .endWord ⟨4, 0, .f⟩ 0,
   .endWord ⟨0, 800, .f⟩ 0, .wld ⟨4, 0, .f⟩ 0, .wld ⟨0, 800, .f⟩ 0, .wldt ⟨4, 0, .f⟩ 0, .wldt ⟨0, 800, .f⟩ 0,
   .mm ⟨4, 0, .f⟩ 0, .mm ⟨0, 800, .f⟩ 0, .mmt ⟨4, 0, .f⟩ 0 [], .mmt ⟨0, 800, .f⟩ 0 [], .vchain ⟨4, 0, .f⟩ 0 [],
   .vchain ⟨0, 800, .f⟩ 0 [], .vroute ⟨4, 0, .f⟩ 0 [], .vroute ⟨0, 800, .f⟩ 0 [], .gather ⟨4, 0, .f⟩ 0 [],
   .gather ⟨0, 800, .f⟩ 0 [], .combine ⟨4, 0, .f⟩ 0 []]

theorem test_illFormed0 : illFormed0.all (fun c => !c.wf 8 16) = true := by decide +kernel

def illFormed1 : List Instr :=
  [.combine ⟨0, 800, .f⟩ 0 [], .scaleGather ⟨4, 0, .f⟩ 0 [], .scaleGather ⟨0, 800, .f⟩ 0 [],
   .countLoad ⟨4, 0, .f⟩ 0 [], .countLoad ⟨0, 800, .f⟩ 0 [], .ldc ⟨4, 0, .f⟩ 0, .ldc ⟨0, 800, .f⟩ 0,
   .stc ⟨4, 0, .f⟩ 0, .stc ⟨0, 800, .f⟩ 0, .send ⟨4, 0, .f⟩ 0, .send ⟨0, 800, .f⟩ 0, .gvsend ⟨4, 0, .f⟩ 0,
   .gvsend ⟨0, 800, .f⟩ 0, .gveEmit 4 0 ⟨0, 0⟩, .gveEmit 0 8 ⟨0, 0⟩, .gveKeyExpiry 4, .lktx ⟨4, 0, .f⟩ 0,
   .lktx ⟨0, 800, .f⟩ 0, .lkrx ⟨4, 0, .f⟩ 0, .lkrx ⟨0, 800, .f⟩ 0, .stpush ⟨4, 0, .f⟩ 0, .stpush ⟨0, 800, .f⟩ 0,
   .stpop ⟨4, 0, .f⟩ 0, .stpop ⟨0, 800, .f⟩ 0, .stashWriteback 4 0]

theorem test_illFormed1 : illFormed1.all (fun c => !c.wf 8 16) = true := by decide +kernel

def illFormed2 : List Instr :=
  [.stashWriteback 0 800, .stashFetch 4 0 [], .stashFetch 0 800 [], .crownFill 4 0 (window0 2) [] true,
   .crownFill 0 8 (window0 2) [] true, .crownWriteback 4 0 (window0 2), .crownWriteback 0 8 (window0 2),
   .dmaCopy 4 copy0 [], .dmaCopyWrite 4 copy0 true, .wcEntryTimeout 8 0, .macCheckComplete 8 0 true,
   .refreshWatchdog 16 0, .refreshWatchdog 0 32, .regionInitDone 64, .rotationStart 64, .sweepDone 64,
   .flushDone 64, .pithVerify 4 0 (tensor 1) [], .pithVerify 0 16 (tensor 1) [], .pithNorm 4,
   .pithPrep 4 0 (tensor 1), .pithPrep 0 16 (tensor 1), .pithApply 4 0 (tensor 1) 0 0 [],
   .pithApply 0 16 (tensor 1) 0 0 [], .pithCopy 4 0 (tensor 1) 0 0]

theorem test_illFormed2 : illFormed2.all (fun c => !c.wf 8 16) = true := by decide +kernel

def illFormed3 : List Instr :=
  [.pithCopy 0 16 (tensor 1) 0 0, .pithRefresh 4 0 (tensor 1), .pithRefresh 0 16 (tensor 1),
   .phaseIncomplete 4 0 0 [], .phaseIncomplete 0 32 0 [], .workingCopyRegen 4 0 (tensor 1) 0,
   .workingCopyRegen 0 16 (tensor 1) 0, .stepCommit 4, .parameterBroadcast 4 0 0 0 (tensor 1) 0,
   .parameterBroadcast 0 0 0 16 (tensor 1) 0, .checkpointExport 4 0 [], .checkpointExport 0 16 [],
   .beatTimer 4 0 0, .beatTimer 0 16 0, .broadcastReplay 4, .alignmentBlock 8 0 [], .alignmentBlock 0 18 [],
   .laneSwap 8 true, .laneSwapTimeout 8, .trainingDone 8 true, .retrain 8, .authentication 8 [] none,
   .keyActivation 8 0 0 0 0, .authTimeout 8, .authRetry 8]

theorem test_illFormed3 : illFormed3.all (fun c => !c.wf 8 16) = true := by decide +kernel

def illFormed4 : List Instr :=
  [.frameReceive 8 0 true [], .jobConfirm 8 [] [], .linkLevelSwitch 8, .slotTransmit 4 0 0 0,
   .slotReceive 4 0 0 (arrives true 0), .replicaDigest 4 [], .graftIngress 4 0 0 0 [], .graftIngress 0 8 0 0 [],
   .graftDeadline 4 0, .laneCheck 4, .redSettingApply 4, .stepDiscard 4 fault0, .faultNotice 8 [],
   .discardReport 4, .recoveryInterval 4 [], .keyExchange (2 ^ 32), .finish (2 ^ 32) true 0 0, .heartbeat (2 ^ 32),
   .keyUpdate (2 ^ 32), .endSession (2 ^ 32), .sqTailWrite 48 32 0, .cqHeadWrite 48 32 0,
   .entryFetch 48 0 ⟨[], sealed0, sealed0⟩, .nopCommand 48, .step 48]

theorem test_illFormed4 : illFormed4.all (fun c => !c.wf 8 16) = true := by decide +kernel

def illFormed5 : List Instr :=
  [.load 48, .loadProcess 48 [], .copyToDevice 48 [], .copyToHost 48, .wait 48, .waitTimeout 48, .fenceOpSignal 48,
   .fenceOpArm 48, .query 48, .ctxCreate 48, .bind 48, .ctxDestroy 48, .objMap 48, .objFree 48, .objFreeRelease 48,
   .fenceCreate 48, .fenceFree 48, .keyRotate 48, .contextLoad 4096 sealed0, .completionWrite 48, .noticeWrite 48,
   .queueEnable 48, .queueDisable 48, .queueReset 48, .queueConfigWrite 48 0 0]

theorem test_illFormed5 : illFormed5.all (fun c => !c.wf 8 16) = true := by decide +kernel

def illFormed6 : List Instr :=
  [.queueConfigWrite 0 24 0, .queueConfigWrite 0 2 0, .stepSelect 4, .contextSwitch 4, .scalePageWrite 4,
   .tierSwitch 4, .stepStart 4, .stepCompletion 4, .slotGridRefuse 4, .estClear 4, .tenantOpen (2 ^ 32) 0,
   .tenantOpen 0 256, .declareParty (2 ^ 32) 0 0, .declareParty 0 256 0, .partyJoin (2 ^ 32) 0 0 (zeros 133) [],
   .partyJoin 0 256 0 (zeros 133) [], .partyJoin 0 0 256 (zeros 133) [], .partyJoin 0 0 0 [] [],
   .setJobKey (2 ^ 32) 0, .setCkptKey (2 ^ 32) 0, .defineRegions (2 ^ 32) [], .approveImage (2 ^ 32) 0,
   .partyLeave (2 ^ 32), .tenantClose (2 ^ 32), .scrubStart 4]

theorem test_illFormed6 : illFormed6.all (fun c => !c.wf 8 16) = true := by decide +kernel

def illFormed7 : List Instr :=
  [.scrubEnd 4 true, .standbyPllLock 4, .muxHang 4, .clockStop 4, .clockDomainRelock 4,
   .currentLimitTrip 4 0 ⟨0, 0, 0⟩, .currentLimitTrip 0 8 ⟨0, 0, 0⟩, .thermalStop 8, .thermalStopEnd 8,
   .stageTimeout 0, .stageTimeout 7, .symbolLockLost 8 0, .symbolLockLost 0 18, .registerRead 0 32 0x2000000,
   .checkpointExportDone 4, .graftEgressDone 8 0]

theorem test_illFormed7 : illFormed7.all (fun c => !c.wf 8 16) = true := by decide +kernel

theorem test_illFormed_faults : exec (.retrain 8) up = .fault .badOperand ∧
    exec (.pithNorm 4) up = .fault .badOperand ∧ exec (.queueEnable 48) up = .fault .badOperand := ⟨rfl, rfl, rfl⟩

/-! ## Values of the manual's examples and tables -/

/-- The nine ASCII bytes of R45. -/
theorem test_crc16_of_R45 : crc16 (ascii "123456789") = 0x29B1 := by decide +kernel

/-- The same bytes under R303. -/
theorem test_crc64_of_R303 : crc64 (ascii "123456789") = 0x6C40DF5F0B497347 := by decide +kernel

/-- The suspect of chapter 13's example: grove 4, index 37, device 5A_C3E1h. -/
theorem test_suspect_of_cluster_437 :
    suspectOf 1 (clusterLoc State.reset 437) (BitVec.ofNat 64 0x5AC3E1) = 0x18952800005AC3E1 := by decide +kernel

/-- The MM word of pass 3 in chapter 4's example. -/
def passWord3 : OpWord := 0x001C102C91240006081FF00000200000#128

theorem test_fields_of_pass_3 :
    (wOp passWord3, wDelta passWord3, wDur passWord3, wSwap passWord3, passM passWord3) = (0x12, 449, 713, true, 512) := by
  decide +kernel

/-- SRC 12, PITCH 32, CR and ACC 0, FMT_A 0 and MODE 01b. -/
theorem test_operands_of_pass_3 :
    (wBits passWord3 79 63, wBits passWord3 62 54, wBits passWord3 43 27, wBits passWord3 26 23, wBits passWord3 22 21) =
      (12, 32, 0, 0, 1) := by decide +kernel

/-- Its duration by Table 4-5. -/
theorem test_duration_of_pass_3 : tabled 0 0 { st := 0, sec := [], idx := 0, t := 0, w := passWord3 } = 713 := by
  decide +kernel

/-- The END word of that example starts in beat offset 10, ac 76 at T0 and in beat offset 25, ac 76 at T3. -/
theorem test_tiers_of_END : (8576 / acPerBeat 0, 8576 % acPerBeat 0, 8576 / acPerBeat 3, 8576 % acPerBeat 3) =
    (10, 76, 25, 76) := by decide

/-- The chain descriptor of chapter 5's example. -/
def biasChain : List Byte :=
  bytesAt 128 [(0, [1, 2, 1, 0xA]), (17, [2] ++ toLE 2 0x17 ++ toLE 4 0xC000 ++ toLE 4 64),
    (64, toLE 8 0x0142940000000000 ++ toLE 8 0x3000800000000000)]

theorem test_stages_of_the_bias_chain :
    dStages biasChain = [⟨1, 2, 0, 0xA, 0xA000, 0⟩, ⟨0x30, 0, 0, 2, 0, 0⟩] := by decide +kernel

theorem test_header_of_the_bias_chain :
    [dSrcKind biasChain, dSrcFmt biasChain, dFuse biasChain, dDstKind biasChain, dDstFmt biasChain, dTensor biasChain,
      32 * dDstAddr biasChain, dRow biasChain] = [1, 0xA, 0, 0, 2, 0x17, 1572864, 64] := by decide +kernel

/-- Chapter 6's example: A = 3 × 2^-8 gives e = 19 and the page entry 3600_0000h. -/
theorem test_scale_of_three_256ths : (scaleExp [0x3C400000] 1, pow2Neg 19) = ((19, false), 0x36000000) := by decide +kernel

/-- After the correction to 4 × 3E08_B800h, e = 13 and the page entry is 3900_0000h. -/
theorem test_scale_after_saturation :
    let h := (plainEntry { fmt := 1, amax := 0x3E08B800, sats := 1 }).value
    (scaleExp [0x3C400000, h] 1, pow2Neg 13) = ((13, false), 0x39000000) := by decide +kernel

/-- 1,900 in E5M2: 67h to nearest even, 68h with the bits 5A_3C91h. -/
theorem test_E5M2_of_1900 :
    (encodeN fE5M2 .near (.fin false 1900 0), encodeN fE5M2 (.stoch 0x5A3C91) (.fin false 1900 0)) =
      ((0x67, false), (0x68, false)) := by decide +kernel

/-- 70,000 in E5M2 saturates at 57,344. -/
theorem test_E5M2_of_70000 : encodeN fE5M2 (.stoch 0) (.fin false 70000 0) = (0x7B, true) ∧
    decodeN fE5M2 0x7B = .fin false 7 13 := by decide +kernel

/-- rho of 5 over mantissas 1,500 and -3 (chapter 12's example). -/
def pair2 (a b : Int) : List Int := a :: b :: List.replicate 30 0

theorem test_digest_of_a_contribution : mantDigest 5 0 (pair2 1500 (-3)) = 1485 ∧ residueOf (pair2 1500 (-3)) = 1497 := by
  decide +kernel

/-- A block of B 112 of that example. -/
def blk (un : Bool) (residue : Nat) (a b : Int) : RBlock := ⟨112, false, un, un, false, false, residue, 0, pair2 a b⟩

/-- D1 adds two contributions; D21 saturates, with FLAGS 06h and RESIDUE 0. -/
theorem test_sums_of_the_chain :
    (addBlock (blk false 1497 1500 (-3)) (blk false 1497 1500 (-3))).1 = blk false 2994 3000 (-6) ∧
    (addBlock (blk false 31437 31500 (-63)) (blk false 1497 1500 (-3))).1 = blk true 0 32767 (-66) := by decide +kernel

/-- A gradient chunk of one block, with a digest. -/
def chunk1 (k : RBlock) (d : Nat) : List Byte :=
  bytesAt 192 [(0, [1, 0xC]), (8, toLE 4 1), (16, toLE 8 d), (64, k.bytes16)]

/-- The digests of D1 and D21. -/
theorem test_digest_of_D1 :
    chDigest (addChunks 5 (chunk1 (blk false 1497 1500 (-3)) 1485) (chunk1 (blk false 1497 1500 (-3)) 1485)) = 2970 := by
  decide +kernel

theorem test_digest_of_D21 :
    chDigest (addChunks 5 (chunk1 (blk false 31437 31500 (-63)) 31185) (chunk1 (blk false 1497 1500 (-3)) 1485)) = 32437 := by
  decide +kernel

/-- The next quantum after that overflow: h = 4 × max(1,500, 32,767/16) × 2^-30, and B = 116. -/
theorem test_block_exponent_after_overflow :
    let c := rne (.fin false 1500 (-30))
    let m := rne (.fin false 32767 (-30))
    let lane := bytesAt 36944 [(80, toLE 4 c.toNat), (16464, toLE 4 m.toNat), (32848, [2])]
    (laneEntry lane 0).map (fun h => (ofF32 h.value == ofF32 (rne (.fin false 32767 (-32))), blockExp [h.value] 0)) =
      some (true, (116, false)) := by decide +kernel

/-- The compensated update of chapter 10, from w = 1 with a decrement of 2^-30: updates 1, 32 and 33. -/
theorem test_compensated_updates :
    applyComp 0x3F800000 0 0x30800000 = (0x3F800000, -512) ∧
    applyComp 0x3F800000 (-15872) 0x30800000 = (0x3F800000, -16384) ∧
    applyComp 0x3F800000 (-16384) 0x30800000 = (0x3F7FFFFF, 31744) := by decide +kernel

/-- Chapter 10's example: Q = 7.29 and CLIP = 1 give rne(1/2.7). -/
theorem test_clip_of_729 : clipCoef 0x40E947AE 0x3F800000 = some 0x3EBDA12F := by decide +kernel

/-- Chapter 11's example slot: frames 616 to 1,256. -/
def dispatchSlot : SlotRec :=
  { port := 0, dir := 0, type := 3, beat := 5, period := 1, count := 1, start := 25600, length := 26336, frames := 641 }

theorem test_frames_of_the_dispatch_slot :
    slotFrames dispatchSlot = (List.range 641).map (616 + ·) ∧ dispatchSlot.payload = 164064 := by decide +kernel

/-- Its deadline: 873.5 ns with an LMAX of 50 ns. -/
theorem test_deadline_of_the_dispatch_slot : slotDeadline dispatchSlot 3200 = 55904 := by decide

/-- Chapter 14's fence: G = FFFF_FFFEh against 1, 0 and 8000_0002h. -/
theorem test_wrapped_fence :
    let f : Fence := { live := true, gen := 0xFFFFFFFE, signalled := true }
    let g := (f.signal 0).1
    (f.satisfies 1, g.satisfies 1, (g.signal 2).1.satisfies 1) = (false, false, true) ∧
    ((g.signal 2).1.signal 1).2 = true ∧ (g.signal 2).1.satisfies 0x80000002 = true := by decide +kernel

/-- Router gates of chapter 8: 0.6791787 and 0.3208213 for logits 2.0 and 1.25. -/
theorem test_gate_of_two_experts :
    let g := fExp (ofF32 (rne ((Ext.fin false 5 (-2)).add (Ext.fin true 2 0))))
    let s := rne ((ofF32 g).add (.fin false 1 0))
    fDiv g s = 0x3EA442B0 := by decide +kernel

/-- Each arithmetic PLL's cycles in a beat (Table 2-1). -/
theorem test_cycles_per_beat : (List.range 4).map acPerBeat = [850, 680, 510, 340] := by decide

/-- SAP_CTRL after reset (Table 19-9). -/
theorem test_SAP_CTRL_at_reset : sapCtrlWord State.reset = 0x18000A14 := by decide +kernel

end Sys2Proof.Tests
end

section
/-!
REGISTER ACCESS. Who decides a host access, in the order of R516, R9 and R507, and the two statements about it: an
access is decided in order (O41), and a register write follows the kind of its fields (O42, refuted).
-/

open Sys2Proof Sys2Proof.Machine Sys2Proof.Machine.Laws

namespace Sys2Proof.Machine.RegisterAccess

/-! ### The two commands complete at every offset of a BAR -/

theorem exec_registerRead {bar off : Nat} (h : barOk bar off = true) (width : Nat) (s : State) :
    exec (.registerRead bar width off) s = .next (registerReadEffect bar width off s) :=
  checked_next _ h

theorem exec_registerWrite {bar off : Nat} (h : barOk bar off = true) (width : Nat) (v : DWord) (s : State) :
    exec (.registerWrite bar width off v) s = .next (registerWriteEffect bar width off v s) :=
  checked_next _ h

/-! ### The three decisions about an access -/

theorem powered_of_rooted {s : State} (h : s.rooted = true) : s.powered = true := by
  simp only [State.rooted, Bool.or_eq_true, beq_iff_eq] at h
  rcases h with (h | h) | h <;> simp [State.powered, h]

section
variable {s : State} {bar width off : Nat} (write : Bool) (f : State → State)

theorem access_before_rooted (hp : s.powered = true) (hb : bar ≠ 4) (hr : s.rooted = false) :
    s.access bar width off write f = s.seedAbort bar off write := by
  simp [State.access, hp, hb, hr]

/-- An access that reaches the registers is decided by width and alignment, then by gating. -/
theorem access_reached (hp : s.powered = true) (hb : bar = 4 ∨ s.rooted = true) :
    s.access bar width off write f =
      if accessOk width off = false then s.rejectAccess bar width off write false
      else if s.gatedAccess bar width off then s.rejectAccess bar width off write true
      else f s := by
  have reached : ¬(bar ≠ 4 ∧ (!s.rooted) = true) := by
    rcases hb with h | h <;> simp [h]
  rw [State.access, if_neg (by simp [hp]), if_neg reached]
  simp

theorem access_rejected (hp : s.powered = true) (hb : bar = 4 ∨ s.rooted = true)
    (hbad : accessOk width off = false ∨ s.gatedAccess bar width off = true) :
    ∃ gated, s.access bar width off write f = s.rejectAccess bar width off write gated := by
  rw [access_reached write f hp hb]
  split
  · exact ⟨false, rfl⟩
  · next hok => exact ⟨true, if_pos (hbad.resolve_left hok)⟩

theorem access_accepted (hp : s.powered = true) (hb : bar = 4 ∨ s.rooted = true)
    (hok : accessOk width off = true) (hg : s.gatedAccess bar width off = false) :
    s.access bar width off write f = f s := by
  rw [access_reached write f hp hb]
  simp [hok, hg]

end

/-! ### What a rejected access leaves -/

section
variable (s : State) (bar width off : Nat) (write gated : Bool)

@[simp] theorem rejectAccess_cmb : (s.rejectAccess bar width off write gated).cmb = s.cmb := by
  simp [State.rejectAccess]

@[simp] theorem rejectAccess_sap : (s.rejectAccess bar width off write gated).sap = s.sap := by
  simp [State.rejectAccess]

@[simp] theorem rejectAccess_outbox :
    (s.rejectAccess bar width off write gated).outbox = s.outbox ++ [.abort bar off write] := by
  simp [State.rejectAccess, State.emit]

@[simp] theorem rejectAccess_accValid : (s.rejectAccess bar width off write gated).flt.accValid = true := by
  simp [State.rejectAccess]

@[simp] theorem rejectAccess_accAddr :
    (s.rejectAccess bar width off write gated).flt.accAddr = BitVec.ofNat 32 off := by
  simp [State.rejectAccess]

theorem rejectAccess_sets_event :
    ((s.rejectAccess bar width off write gated).evt.get .flt).getLsbD 6 = true :=
  event_sets _ .flt 6 _ _ (by decide)

end

/-- What O41 says of the state after a rejected access. -/
theorem rejectAccess_logged (s : State) (bar width off : Nat) (write gated : Bool) :
    let t := s.rejectAccess bar width off write gated
    (Out.abort bar off false ∈ t.outbox ∨ Out.abort bar off true ∈ t.outbox) ∧ t.flt.accValid = true ∧
      t.flt.accAddr = BitVec.ofNat 32 off ∧ (t.evt.get .flt).getLsbD 6 = true ∧ t.cmb = s.cmb ∧ t.sap = s.sap := by
  have aborted : Out.abort bar off write ∈ (s.rejectAccess bar width off write gated).outbox := by simp
  refine ⟨?_, by simp, by simp, rejectAccess_sets_event .., by simp, by simp⟩
  cases write with
  | false => exact .inl aborted
  | true => exact .inr aborted

/-! ### What an accepted read answers -/

@[simp] theorem latch_outbox (s : State) (bar off : Nat) : (s.latch bar off).outbox = s.outbox := by
  unfold State.latch
  split
  · rfl
  · split <;> rfl

@[simp] theorem latch_mem (s : State) (bar off : Nat) : (s.latch bar off).mem = s.mem := by
  unfold State.latch
  split
  · rfl
  · split <;> rfl

section
variable {s : State} {bar off : Nat} (hp : s.powered = true) (hb : bar = 4 ∨ s.rooted = true)
include hp hb

theorem registerRead_32 (hok : accessOk 32 off = true) (hg : s.gatedAccess bar 32 off = false) :
    registerReadEffect bar 32 off s =
      (s.latch bar off).emit (.regData bar 32 off (BitVec.ofNat 64 (readBar s bar off))) := by
  rw [registerReadEffect, access_accepted _ _ hp hb hok hg]
  simp

theorem registerRead_64 (hok : accessOk 64 off = true) (hg : s.gatedAccess bar 64 off = false) :
    registerReadEffect bar 64 off s = ((s.latch bar off).latch bar (off + 4)).emit (.regData bar 64 off
      (BitVec.ofNat 64 (readBar s bar off + readBar (s.latch bar off) bar (off + 4) * 2 ^ 32))) := by
  rw [registerReadEffect, access_accepted _ _ hp hb hok hg]
  simp

end

/-! ### SAP_CTRL without the lock -/

/-- SAP_CTRL stands in a block without an enable bit (Table 19-1). -/
theorem sapCtrl_not_gated (s : State) : s.gatedAccess 0 32 0x20000C = false := by
  have free : gateBit 0x20000C = none := by decide
  simp [State.gatedAccess, State.ungated, free]

/-- A 32-bit write takes the word that its 64-bit operand carries. -/
theorem field_setWidth (v : Word) : field (v.setWidth 64).toNat 0 32 = v.toNat := by
  have := v.isLt
  simp only [field, BitVec.toNat_setWidth]
  omega

/-- Without the lock SAP_CTRL takes the word, and every grove whose budget thereby falls below 265 W warns. -/
theorem exec_write_sapCtrl {s : State} (hr : s.rooted = true) (hl : s.hw.locked = false) (v : Word) :
    exec (.registerWrite 0 32 0x20000C (v.setWidth 64)) s =
      .next (({ s with sap := s.sap.writeCtrl v.toNat }).warnFalls (lowGroves s)) := by
  rw [exec_registerWrite (by decide), registerWriteEffect,
    access_accepted _ _ (powered_of_rooted hr) (.inr hr) (by decide) (sapCtrl_not_gated s), field_setWidth]
  simp [State.writeBar, State.writeBar0, State.writeSap, State.lockField, hl]

/-- A rooted module without the lock whose grove 0 reads 90 °C: within its budget under TMARGIN = 10, where the budget
falls from 95 °C on, and beyond it under TMARGIN = 30, where it falls from 75 °C on (R447). -/
def warmGrove : State := { pwr := { stage := .full }, sap := { thermal := [(0, { compute := 720 })] } }

/-- SAP_CTRL's reset value with TMARGIN = 1Eh, the greatest that the field takes. -/
def widerMargin : Word := 0x18001E14

/-- The wider margin takes grove 0 below 265 W, and THERM_WARN (bit 4 of SAP_EVENT) is set. -/
theorem widerMargin_warns :
    (({ warmGrove with sap := warmGrove.sap.writeCtrl widerMargin.toNat }).warnFalls (lowGroves warmGrove)).evt.sap =
      0x10 := by
  decide

end Sys2Proof.Machine.RegisterAccess

open Sys2Proof.Machine.RegisterAccess

/-- Settles O41: both commands are the one decision `State.access`, whose three outcomes are the three clauses. -/
theorem accessesAreDecidedInOrder : Obligations.AccessesAreDecidedInOrder := by
  intro bar width off s hbar hp
  refine ⟨fun hb hr => ?_, fun hb hbad c hc => ?_, fun hb hok hg => ?_⟩
  · constructor
    · rw [exec_registerRead hbar, registerReadEffect, access_before_rooted _ _ hp hb hr]
    · intro v
      rw [exec_registerWrite hbar, registerWriteEffect, access_before_rooted _ _ hp hb hr]
  · rcases hc with rfl | ⟨v, rfl⟩
    · obtain ⟨gated, h⟩ := access_rejected false _ hp hb hbad
      exact ⟨_, (exec_registerRead hbar width s).trans (congrArg _ h), rejectAccess_logged ..⟩
    · obtain ⟨gated, h⟩ := access_rejected true _ hp hb hbad
      exact ⟨_, (exec_registerWrite hbar width v s).trans (congrArg _ h), rejectAccess_logged ..⟩
  · constructor
    · rintro rfl
      rw [exec_registerRead hbar, registerRead_32 hp hb hok hg]
    · rintro rfl
      exact ⟨_, (exec_registerRead hbar 64 s).trans (congrArg _ (registerRead_64 hp hb hok hg)),
        by simp [State.emit], by simp⟩

/-- Refutes O42: its clause on SAP_CTRL without the lock says that the write changes SAP_CTRL alone, but a wider TMARGIN
lowers the budget of a warm grove below 265 W, which sets THERM_WARN (R447, Table 16-11). -/
theorem not_registerWritesFollowTheFieldKind : ¬ Obligations.RegisterWritesFollowTheFieldKind := by
  intro h
  obtain ⟨-, -, -, -, -, -, unlocked, -⟩ := h warmGrove widerMargin (by decide)
  have eq := (exec_write_sapCtrl (by decide) (by decide) widerMargin).symm.trans (unlocked (by decide))
  have silent : (0x10 : Word) = 0 :=
    widerMargin_warns.symm.trans (congrArg (fun s => s.evt.sap) (Host.Outcome.next.inj eq))
  exact absurd silent (by decide)
end

section
/-!
BURSTS. Little-endian bytes, the keyed scramble undone (R212), and the rules of an HBM burst: what a read returns after a
write of the same burst and of another, and what reads of clean bursts give.
-/

open Sys2Proof Sys2Proof.Machine Sys2Proof.Machine.Laws

namespace Sys2Proof.Machine.Bursts

/-! ### Little-endian bytes -/

@[simp] theorem length_toLE (n v : Nat) : (toLE n v).length = n := by
  induction n generalizing v with
  | zero => rfl
  | succ n ih => simp [toLE, ih]

theorem leNat_toLE (n v : Nat) : leNat (toLE n v) = v % 256 ^ n := by
  induction n generalizing v with
  | zero => simp [toLE, leNat, Nat.mod_one]
  | succ n ih =>
    have byte : (BitVec.ofNat 8 v).toNat = v % 256 := rfl
    rw [toLE, leNat, ih, byte, Nat.pow_succ', Nat.mod_mul]

theorem leNat_lt (bs : List Byte) : leNat bs < 256 ^ bs.length := by
  induction bs with
  | nil => simp [leNat]
  | cons b bs ih =>
    have := b.isLt
    rw [leNat, List.length_cons, Nat.pow_succ']
    omega

theorem toLE_leNat (bs : List Byte) : toLE bs.length (leNat bs) = bs := by
  induction bs with
  | nil => rfl
  | cons b bs ih =>
    have low : BitVec.ofNat 8 (leNat (b :: bs)) = b := by
      apply BitVec.eq_of_toNat_eq
      have := b.isLt
      simp only [leNat, BitVec.toNat_ofNat]
      omega
    have high : leNat (b :: bs) / 256 = leNat bs := by
      have := b.isLt
      simp only [leNat]
      omega
    rw [List.length_cons, toLE, low, high, ih]

theorem padTo_of_length {n : Nat} {bs : List Byte} (h : bs.length = n) : padTo n bs = bs := by
  simp [padTo, zeros, ← h]

/-! ### A burst's eight words and its bytes -/

theorem take_drop_append_drop (bs : List Byte) (i n : Nat) : (bs.drop i).take n ++ bs.drop (i + n) = bs.drop i := by
  rw [← List.drop_drop, List.take_append_drop]

/-- The bytes of word i of a whole burst. -/
theorem toLE_burstWord {bs : List Byte} (h : bs.length = 64) {i : Nat} (hi : i < 8) :
    toLE 8 (burstWord bs i).toNat = (bs.drop (8 * i)).take 8 := by
  have len : ((bs.drop (8 * i)).take 8).length = 8 := by
    rw [List.length_take, List.length_drop]
    omega
  have lt := leNat_lt ((bs.drop (8 * i)).take 8)
  rw [len] at lt
  rw [burstWord, getLE, BitVec.toNat_ofNat, Nat.mod_eq_of_lt (b := 2 ^ 64) lt]
  calc toLE 8 (leNat ((bs.drop (8 * i)).take 8))
      = toLE ((bs.drop (8 * i)).take 8).length (leNat ((bs.drop (8 * i)).take 8)) := by rw [len]
    _ = (bs.drop (8 * i)).take 8 := toLE_leNat _

theorem bytes_burstOf {bs : List Byte} (h : bs.length = 64) : (burstOf bs).bytes = bs := by
  have last : (bs.drop 56).take 8 = bs.drop 56 := List.take_of_length_le (by simp [h])
  simp only [Burst.bytes, burstOf]
  simp (disch := decide) only [toLE_burstWord h, List.append_assoc, Nat.reduceMul]
  rw [last, take_drop_append_drop bs 48 8, take_drop_append_drop bs 40 8, take_drop_append_drop bs 32 8,
    take_drop_append_drop bs 24 8, take_drop_append_drop bs 16 8, take_drop_append_drop bs 8 8,
    take_drop_append_drop bs 0 8, List.drop_zero]

@[simp] theorem length_bytes (w : Burst) : w.bytes.length = 64 := by
  simp [Burst.bytes]

/-- The first word of a byte string is the one whose bytes stand in front. -/
theorem burstWord_first (v : DWord) (post : List Byte) : burstWord (toLE 8 v.toNat ++ post) 0 = v := by
  apply BitVec.eq_of_toNat_eq
  rw [burstWord, getLE, Nat.mul_zero, List.drop_zero, List.take_left' (length_toLE 8 _), leNat_toLE]
  have := v.isLt
  simp only [BitVec.toNat_ofNat]
  omega

/-- Behind the first word stand the words of the rest. -/
theorem burstWord_later (v : Nat) (post : List Byte) (i : Nat) :
    burstWord (toLE 8 v ++ post) (i + 1) = burstWord post i := by
  have off : 8 * (i + 1) = (toLE 8 v).length + 8 * i := by
    rw [length_toLE]
    omega
  rw [burstWord, getLE, off, List.drop_length_add_append, burstWord, getLE]

theorem burstOf_bytes (w : Burst) : burstOf w.bytes = w := by
  have last : burstWord (toLE 8 w.w7.toNat) 0 = w.w7 := by simpa using burstWord_first w.w7 []
  simp [burstOf, Burst.bytes, burstWord_first, burstWord_later, last, List.append_assoc]

/-! ### The scramble undone (R212) -/

theorem rotateRight_rotateLeft {w : Nat} (x : BitVec w) (r : Nat) : (x.rotateLeft r).rotateRight r = x := by
  apply BitVec.eq_of_getElem_eq
  intro i hi
  have : r % w < w := Nat.mod_lt _ (by omega)
  rw [BitVec.getElem_rotateRight]
  split
  · rw [BitVec.getElem_rotateLeft, dif_neg (by omega)]
    simp
  · rw [BitVec.getElem_rotateLeft, dif_pos (by omega)]
    congr 1
    omega

theorem unmix_mix (n : Nat) (c a b : DWord) : unmix n c (mix n c a b).1 (mix n c a b).2 = (a, b) := by
  have back : ((mix n c a b).2 ^^^ (mix n c a b).1).rotateRight n = b := by
    rw [mix, BitVec.xor_assoc, BitVec.xor_self, BitVec.xor_zero, rotateRight_rotateLeft]
  rw [unmix, back, mix, BitVec.add_assoc, BitVec.add_comm b c, BitVec.add_sub_cancel]

theorem unscrRound_scrRound (k : Key) (t : DWord) (r : Nat) (w : Burst) : unscrRound k t r (scrRound k t r w) = w := by
  simp only [unscrRound, scrRound, unmix_mix]

theorem unscramble_scramble (k : Key) (t : DWord) (w : Burst) : unscramble k t (scramble k t w) = w := by
  simp only [unscramble, scramble, unscrRound_scrRound]

/-! ### HBM bursts (R212, R215) -/

/-- The bytes of a run that was written. -/
theorem readN_writeN (s : State) (a : Nat) (bs : List Byte) : readN (writeN s a bs) a bs.length = bs := by
  apply List.ext_getElem
  · simp [readN]
  · intro i _ hi
    simp [readN, readB_writeN _ _ _ _ hi]

theorem readN_writeN_of_out (s : State) (a b n : Nat) (bs : List Byte) (h : b + n ≤ a ∨ a + bs.length ≤ b) :
    readN (writeN s a bs) b n = readN s b n := by
  apply List.map_congr_left
  intro i hi
  have := List.mem_range.mp hi
  exact readB_writeN_of_out _ _ _ _ (by omega)

/-- A burst's write changes memory and the poison map alone. -/
theorem hbmWrite_eq (s : State) (h a : Nat) (bs : List Byte) :
    ∃ m mb, hbmWrite s h a bs = { s with mem := m, mb := mb } := by
  unfold hbmWrite
  split
  · split
    · exact ⟨s.mem, s.mb, rfl⟩
    · next k _ _ =>
      obtain ⟨m, h⟩ := writeN_eq (scramble k (scrT h a) (burstOf (padTo 64 bs))).bytes s (hbmBase h + a)
      rw [h]
      exact ⟨m, _, rfl⟩
  · exact ⟨s.mem, s.mb, rfl⟩

@[simp] theorem hbmKey_hbmWrite (s : State) (h a : Nat) (bs : List Byte) (g : Nat) :
    hbmKey (hbmWrite s h a bs) g = hbmKey s g := by
  obtain ⟨m, mb, e⟩ := hbmWrite_eq s h a bs
  rw [e]
  rfl

@[simp] theorem clusters_hbmWrite (s : State) (h a : Nat) (bs : List Byte) :
    (hbmWrite s h a bs).clusters = s.clusters := by
  obtain ⟨m, mb, e⟩ := hbmWrite_eq s h a bs
  rw [e]

@[simp] theorem variant_hbmWrite (s : State) (h a : Nat) (bs : List Byte) :
    (hbmWrite s h a bs).variant = s.variant := by
  obtain ⟨m, mb, e⟩ := hbmWrite_eq s h a bs
  rw [e]

@[simp] theorem cfg_hbmWrite (s : State) (h a : Nat) (bs : List Byte) : (hbmWrite s h a bs).cfg = s.cfg := by
  obtain ⟨m, mb, e⟩ := hbmWrite_eq s h a bs
  rw [e]

@[simp] theorem readN_setPoison (s : State) (h a : Nat) (v : Bool) (b n : Nat) :
    readN (s.setPoison h a v) b n = readN s b n := rfl

/-- What a write with a key puts into the stack. -/
theorem hbmWrite_keyed {s : State} {h a : Nat} {k : Key} (hk : hbmKey s h = some k) (ha : a < stackBytes)
    (bs : List Byte) : hbmWrite s h a bs =
      (writeN s (hbmBase h + a) (scramble k (scrT h a) (burstOf (padTo 64 bs))).bytes).setPoison h a false := by
  rw [hbmWrite, hk]
  exact if_neg (Nat.not_le.mpr ha)

/-- What a read with a key takes out of the stack. -/
theorem hbmRead_keyed {s : State} {h : Nat} {k : Key} (hk : hbmKey s h = some k) (a : Nat) : hbmRead s h a =
    if a < stackBytes then (unscramble k (scrT h a) (burstOf (readN s (hbmBase h + a) 64))).bytes else zeros 64 := by
  rw [hbmRead, hk]

/-- A burst that was written reads back. -/
theorem hbmRead_hbmWrite {s : State} {h a : Nat} (hk : (hbmKey s h).isSome = true) (ha : a < stackBytes)
    {bs : List Byte} (hl : bs.length = 64) : hbmRead (hbmWrite s h a bs) h a = bs := by
  obtain ⟨k, key⟩ := Option.isSome_iff_exists.mp hk
  have stored := readN_writeN s (hbmBase h + a) (scramble k (scrT h a) (burstOf (padTo 64 bs))).bytes
  rw [length_bytes] at stored
  rw [hbmRead_keyed (by rw [hbmKey_hbmWrite, key]), if_pos ha, hbmWrite_keyed key ha, readN_setPoison, stored,
    burstOf_bytes, unscramble_scramble, padTo_of_length hl, bytes_burstOf hl]

/-- A burst's write leaves every burst of the stack that does not meet it. -/
theorem hbmRead_hbmWrite_of_out {s : State} {h a b : Nat} (hk : (hbmKey s h).isSome = true) (ha : a < stackBytes)
    (bs : List Byte) (hab : b + 64 ≤ a ∨ a + 64 ≤ b) : hbmRead (hbmWrite s h a bs) h b = hbmRead s h b := by
  obtain ⟨k, key⟩ := Option.isSome_iff_exists.mp hk
  rw [hbmRead_keyed (by rw [hbmKey_hbmWrite, key]), hbmRead_keyed key, hbmWrite_keyed key ha, readN_setPoison,
    readN_writeN_of_out _ _ _ _ _ (by rw [length_bytes]; omega)]

/-! ### Runs of bursts -/

/-- Bursts (place and bytes) written one after the other, each place mapped to its stack byte by `at_`. -/
def hbmWriteAll (s : State) (h : Nat) (at_ : Nat → Nat) (l : List (Nat × List Byte)) : State :=
  s.each l fun s x => hbmWrite s h (at_ x.1) x.2

section
variable {h : Nat} {at_ : Nat → Nat}

theorem hbmRead_hbmWriteAll_of_out {l : List (Nat × List Byte)} {s : State} (hk : (hbmKey s h).isSome = true) {b : Nat}
    (hin : ∀ x ∈ l, at_ x.1 < stackBytes) (hb : ∀ x ∈ l, b + 64 ≤ at_ x.1 ∨ at_ x.1 + 64 ≤ b) :
    hbmRead (hbmWriteAll s h at_ l) h b = hbmRead s h b := by
  induction l generalizing s with
  | nil => rfl
  | cons x l ih =>
    have rest := ih (s := hbmWrite s h (at_ x.1) x.2) (by simpa using hk) (fun y hy => hin y (by simp [hy]))
      (fun y hy => hb y (by simp [hy]))
    exact rest.trans (hbmRead_hbmWrite_of_out hk (hin x (by simp)) _ (hb x (by simp)))

/-- Bursts at places that do not meet all read back. -/
theorem hbmRead_hbmWriteAll {l : List (Nat × List Byte)} {s : State} (hk : (hbmKey s h).isSome = true)
    (hin : ∀ x ∈ l, at_ x.1 < stackBytes) (hlen : ∀ x ∈ l, x.2.length = 64)
    (hap : l.Pairwise fun x y => at_ x.1 + 64 ≤ at_ y.1 ∨ at_ y.1 + 64 ≤ at_ x.1) :
    ∀ x ∈ l, hbmRead (hbmWriteAll s h at_ l) h (at_ x.1) = x.2 := by
  induction l generalizing s with
  | nil => simp
  | cons y l ih =>
    obtain ⟨apart, hap⟩ := List.pairwise_cons.mp hap
    have hk' : (hbmKey (hbmWrite s h (at_ y.1) y.2) h).isSome = true := by simpa using hk
    have hin' : ∀ x ∈ l, at_ x.1 < stackBytes := fun x hx => hin x (by simp [hx])
    intro x hx
    rcases List.mem_cons.mp hx with rfl | hx
    · exact (hbmRead_hbmWriteAll_of_out hk' hin' apart).trans (hbmRead_hbmWrite hk (hin x (by simp)) (hlen x (by simp)))
    · exact ih hk' hin' (fun z hz => hlen z (by simp [hz])) hap x hx

end

/-- Clean bursts read as they stand, and nothing else happens (R214, R216). -/
theorem readBursts_clean {s : State} {h a n : Nat} (hc : ∀ i < n, poisoned s h (a + 64 * i) = false) :
    readBursts s h a n [] = ⟨s, (List.range n).map fun i => hbmRead s h (a + 64 * i), []⟩ := by
  induction n with
  | zero => rfl
  | succ n ih =>
    have front := ih fun i hi => hc i (by omega)
    rw [readBursts] at front ⊢
    rw [List.range_succ, List.foldl_append, front]
    simp [readBurst, hc n (by omega)]

/-- A step's read of clean bursts, with no shard of the partition reported lost (R217). -/
theorem stepRead_clean {s : State} {pt h a n : Nat} (hc : CleanStack s pt h a n) :
    s.stepRead pt h a n [] = (s, (List.range n).map fun i => hbmRead s h (a + 64 * i)) := by
  obtain ⟨clean, kept⟩ := hc
  have none_lost : s.checkLost pt h = s := by
    have : s.mb.lost.find? (fun l => l.pt == pt && l.stack == h) = none := by
      rw [List.find?_eq_none]
      intro l hl
      simp [kept l hl]
    rw [State.checkLost, this]
  rw [State.stepRead, none_lost, readBursts_clean clean]
  rfl

end Sys2Proof.Machine.Bursts
end

section
/-!
WORDS. How a word that is due starts, and what one ac of a partition does while one word is under way: the rules through
which the statements about words see `exec` and `State.cycle`.
-/

open Sys2Proof Sys2Proof.Machine Sys2Proof.Machine.Laws

namespace Sys2Proof.Machine.WordRules

/-! ### The record of a partition's step -/

/-- The step of a partition after its update; the other partitions keep theirs. -/
@[simp] theorem part_updRun (s : State) (p : Nat) (g : StepRun → StepRun) (j : Nat) :
    (s.updRun p g).part j = if j = p then { s.part p with cur := (s.part p).cur.map g } else s.part j := by
  simp [State.updRun]

@[simp] theorem cluster_updRun (s : State) (p : Nat) (g : StepRun → StepRun) : (s.updRun p g).cluster = s.cluster := rfl

@[simp] theorem ptBufs_updRun (s : State) (p : Nat) (g : StepRun → StepRun) : (s.updRun p g).ptBufs = s.ptBufs := rfl

/-- What a byte reads as depends on memory and on which arrays are undefined alone. -/
theorem readB_congr {s t : State} (hm : t.mem = s.mem) (hh : t.havoc = s.havoc) : readB t = readB s := by
  have undefined_same : havocOf t = havocOf s := by
    funext a
    simp [havocOf, hh]
  funext a
  simp [readB, unlisted, hm, undefined_same]

@[simp] theorem readB_updRun (s : State) (p : Nat) (g : StepRun → StepRun) : readB (s.updRun p g) = readB s :=
  readB_congr (by simp) (by simp)

@[simp] theorem spadR_updRun (s : State) (p : Nat) (g : StepRun → StepRun) (c off n : Nat) :
    spadR (s.updRun p g) c off n = spadR s c off n := by
  simp [spadR]

@[simp] theorem fly_mem (s : State) (f : Flight) : (s.fly f).mem = s.mem := by simp [State.fly]

@[simp] theorem cluster_fly (s : State) (f : Flight) : (s.fly f).cluster = s.cluster := rfl

@[simp] theorem ptBufs_fly (s : State) (f : Flight) : (s.fly f).ptBufs = s.ptBufs := rfl

/-- The step that a fault marks: a running one becomes faulted (R348). -/
theorem detect_marks {s : State} {pt : Nat} {r : StepRun} (f : FaultInfo) (hc : (s.part pt).cur = some r)
    (hp : r.ph = .running) : ∃ q, ((s.detect pt f).part pt).cur = some q ∧ q.faulted = true := by
  have run : (s.part pt).running = some r := by simp [Part.running, hc, hp]
  have parts (t : State) (n : List Byte) : (t.queueAll n).part pt = t.part pt := by simp [State.part]
  simp [State.detect, run, parts, hc, hp]

/-- A fault touches no cluster. -/
@[simp] theorem cluster_detect (s : State) (pt : Nat) (f : FaultInfo) : (s.detect pt f).cluster = s.cluster := by
  funext c
  simp [State.cluster]

/-! ### A word that is due starts (R72, R104) -/

section
variable {a : WordAt} {w : OpWord} {op : Nat} {s : State} {r : StepRun}

theorem wf_of_runs (h : WordRuns a w op s r) : a.wf = true := by
  obtain ⟨-, -, hpt, hcl, -⟩ := h
  simp [WordAt.wf, hpt, hcl]

theorem op_of_runs (h : WordRuns a w op s r) : wOp w = op := by
  obtain ⟨-, -, -, -, hop, -⟩ := h
  exact hop

/-- A due word is launched in its start ac. -/
theorem onWord_of_runs (h : WordRuns a w op s r) : s.onWord a w op =
    (s.advance a.pt (startAc s a w)).launch false a w (startAc s a w) (wordDesc (wordSec s a r) w) := by
  obtain ⟨hr, hrep, -, -, hop, hdue⟩ := h
  rw [State.onWord, hr]
  simp only [hop, hdue, and_self, if_true, State.startNext, hrep]
  rfl

/-- A due word that passes its readiness test is under way in the state that the test leaves. -/
theorem onWord_flies (h : WordRuns a w op s r) {t : State} {g : Flight}
    (hs : startWord (moved s a w) (flightOf s a w r) = (t, some g)) : s.onWord a w op = t.fly g := by
  unfold moved flightOf at hs
  simp only [onWord_of_runs h, State.launch, Bool.false_and, Bool.false_eq_true, if_false, hs]

/-- A due word that does not pass its readiness test leaves what the test leaves. -/
theorem onWord_stays (h : WordRuns a w op s r) {t : State}
    (hs : startWord (moved s a w) (flightOf s a w r) = (t, none)) : s.onWord a w op = t := by
  unfold moved flightOf at hs
  simp only [onWord_of_runs h, State.launch, Bool.false_and, Bool.false_eq_true, if_false, hs]

end

/-! ### One ac with one word under way (R102) -/

theorem op_of_lone {s : State} {r : StepRun} {f : Flight} {op k : Nat} (h : LoneWord s r f op k) : wOp f.w = op := by
  obtain ⟨-, -, -, hop, -⟩ := h
  exact hop

/-- Stream time of step r goes on by one ac, and g stays under way while it acts. -/
def nextAc (r : StepRun) (g : Flight) : StepRun → StepRun :=
  fun q => { q with clock := r.clock + 1, flights := [g].filter fun x => x.alive (r.clock + 1),
                    emits := q.emits.filter fun e => !e.done (r.clock + 1) }

/-- What a partition's step does in an ac in which a word f alone is under way, which is no pass and no SEND: it reads and
becomes g, it writes what it has then read, and stream time goes on. -/
theorem afterAc_of_lone {s : State} {r : StepRun} {f g : Flight} {op k : Nat} (h : LoneWord s r f op k)
    (hg : readAc s f k = g) (hw : g.w = f.w) (ht : g.t = f.t) (hop : op ≠ 0x12 ∧ op ≠ 0x13 ∧ op ≠ 0x32) :
    afterAc s f = (writeAc s g k).updRun f.at_.pt (nextAc r g) := by
  obtain ⟨hc, hfl, hem, hf, hclk, -⟩ := h
  obtain ⟨hmm, hmmt, hsend⟩ := hop
  have acf : f.acAt r.clock = k := by simp [Flight.acAt, hclk]
  have acg : g.acAt r.clock = k := by rw [Flight.acAt, ht, ← Flight.acAt, acf]
  have opf : f.op = op := hf
  have opg : g.op = op := by rw [Flight.op, hw, hf]
  unfold nextAc
  simp [afterAc, State.cycle, hc, hfl, hem, State.each, Flight.isPass, opf, opg, hmm, hmmt, hsend, acf, acg, hg]

end Sys2Proof.Machine.WordRules
end

section
/-!
ZERO-RUN COMPRESSION. A stash block reads back as it was stored (R178): the presence map gives its bits back, and the
non-zero words behind the map's bits give the words.
-/

open Sys2Proof Sys2Proof.Machine Sys2Proof.Machine.Laws

namespace Sys2Proof.Machine.ZeroRun

/-! ### Words and their presence map (R178) -/

@[simp] theorem flatten_groups4 (bs : List Byte) : (groups4 bs).flatten = bs := by
  induction bs using groups4.induct with
  | case1 a b c d r ih => simp [groups4, ih]
  | case2 => rfl
  | case3 r short nonempty => simp [groups4.eq_3 r short nonempty]

theorem groups4_whole (n : Nat) (bs : List Byte) (h : bs.length = 4 * n) :
    (groups4 bs).length = n ∧ ∀ w ∈ groups4 bs, w.length = 4 := by
  induction n generalizing bs with
  | zero =>
    rw [List.length_eq_zero_iff.mp h]
    simp [groups4]
  | succ n ih =>
    match bs, h with
    | a :: b :: c :: d :: r, h =>
      obtain ⟨len, all4⟩ := ih r (by simp at h; omega)
      simpa [groups4, len] using all4

theorem presenceByte_bits : ∀ a b c d e f g h : Bool, (List.range 8).map (fun i => (BitVec.ofNat 8 (b2n a + 2 * b2n b +
    4 * b2n c + 8 * b2n d + 16 * b2n e + 32 * b2n f + 64 * b2n g + 128 * b2n h)).getLsbD i) = [a, b, c, d, e, f, g, h] := by
  decide

theorem presence_whole (m : Nat) (l : List Bool) (h : l.length = 8 * m) :
    (presence l).length = m ∧ presenceBits (presence l) = l := by
  induction m generalizing l with
  | zero =>
    rw [List.length_eq_zero_iff.mp h]
    exact ⟨rfl, rfl⟩
  | succ m ih =>
    match l, h with
    | a :: b :: c :: d :: e :: f :: g :: x :: r, h =>
      obtain ⟨len, bits⟩ := ih r (by simp at h; omega)
      rw [presenceBits] at bits
      simp only [presence, presenceBits, List.flatMap_cons, presenceByte_bits, bits, List.length_cons, len]
      simp

theorem eq_zeros_of_allZero {w : List Byte} (h : allZero w = true) : w = zeros w.length := by
  apply List.eq_replicate_of_mem
  simpa [allZero] using h

/-- The non-zero words behind their presence bits give all the words back, whatever padding follows. -/
theorem fillWords_present (ws : List (List Byte)) (h : ∀ w ∈ ws, w.length = 4) (pad : List Byte) :
    fillWords (ws.map fun w => !allZero w) ((ws.filter fun w => !allZero w).flatten ++ pad) = ws.flatten := by
  induction ws with
  | nil => rfl
  | cons w ws ih =>
    have rest := ih fun x hx => h x (by simp [hx])
    have len : w.length = 4 := h w (by simp)
    cases hz : allZero w with
    | true =>
      have zero : w = [0, 0, 0, 0] := by
        rw [eq_zeros_of_allZero hz, len]
        rfl
      simp only [List.map_cons, List.filter_cons, hz, Bool.not_true, Bool.false_eq_true, if_false, fillWords, rest,
        List.flatten_cons]
      rw [zero]
    | false =>
      simp [hz, fillWords, rest, List.take_left' len, List.drop_left' len]

/-! ### A block reads back as it was stored -/

/-- The compressed form of a block: its presence map, then its non-zero words, then padding. -/
theorem zeroRun_eq (bs : List Byte) : ∃ pad, zeroRun bs =
    presence ((groups4 bs).map fun w => !allZero w) ++ (((groups4 bs).filter fun w => !allZero w).flatten ++ pad) :=
  ⟨_, List.append_assoc ..⟩

theorem loadBlock_storeBlock {lines : Nat} {bs : List Byte} (h : bs.length = 64 * lines) :
    loadBlock lines (storeBlock bs) = bs := by
  unfold storeBlock
  split
  · next small =>
    obtain ⟨words, all4⟩ := groups4_whole (16 * lines) bs (by omega)
    obtain ⟨pad, form⟩ := zeroRun_eq bs
    obtain ⟨maplen, bits⟩ := presence_whole (2 * lines) ((groups4 bs).map fun w => !allZero w) (by simp; omega)
    rw [loadBlock, if_neg (by omega), form, List.take_left' maplen, List.drop_left' maplen, bits,
      fillWords_present _ all4, flatten_groups4]
  · exact if_pos h

end Sys2Proof.Machine.ZeroRun
end

section
/-!
STASH WORDS. What STPUSH and STPOP do at their start and in each of their ac, and which records STASH_WRITEBACK and
STASH_FETCH leave alone.
-/

open Sys2Proof Sys2Proof.Machine Sys2Proof.Machine.Laws Sys2Proof.Machine.WordRules Sys2Proof.Machine.Bursts

namespace Sys2Proof.Machine.StashRules

/-! ### The scratchpad -/

theorem spadW_fits {c off : Nat} {bs : List Byte} (h : off + bs.length ≤ spadSize) (s : State) :
    spadW s c off bs = writeN s (spadBase c + off) bs := if_pos h

/-- Bytes written inside a scratchpad read back. -/
theorem spadR_spadW {c off : Nat} {bs : List Byte} (h : off + bs.length ≤ spadSize) (s : State) :
    spadR (spadW s c off bs) c off bs.length = bs := by
  rw [spadW_fits h]
  apply List.ext_getElem
  · simp [spadR]
  · intro i _ hi
    have inside : off + i < spadSize := by omega
    simp [spadR, inside, readB_writeN _ _ _ _ hi]

theorem keepsOutside_spadW {c off : Nat} {bs : List Byte} (h : off + bs.length ≤ spadSize) (s : State) :
    KeepsOutside s (spadW s c off bs) (spadBase c + off) bs.length := by
  intro b hb
  rw [spadW_fits h]
  exact readB_writeN_of_out _ _ _ _ (by omega)

/-! ### The starts of STPUSH and STPOP (R176, R183) -/

section
variable {a : WordAt} {w : OpWord} {s : State} {r : StepRun}

theorem exec_stpush (h : WordRuns a w 0x38 s r) : exec (.stpush a w) s = .next (s.onWord a w 0x38) :=
  checked_next _ (wf_of_runs h)

theorem exec_stpop (h : WordRuns a w 0x39 s r) : exec (.stpop a w) s = .next (s.onWord a w 0x39) :=
  checked_next _ (wf_of_runs h)

end

theorem startWord_stpush {s : State} {f : Flight} (h : wOp f.w = 0x38) : startWord s f = stpushStart s f := by
  simp [startWord, Flight.op, h]

theorem startWord_stpop {s : State} {f : Flight} (h : wOp f.w = 0x39) : startWord s f = stpopStart s f := by
  simp [startWord, Flight.op, h]

theorem stpushStart_eq (s : State) (f : Flight) : ∃ e : StashRec,
    stpushStart s f = (s.setCluster f.c { s.cluster f.c with stash := e :: (s.cluster f.c).stash }, some f) ∧
      e.tag = stashTag f.w ∧ e.n = stashN f.w ∧ e.blocks = [] ∧ e.born = f.t :=
  ⟨_, rfl, rfl, rfl, rfl, rfl⟩

section
variable {s : State} {f : Flight} {e : StashRec} {es : List StashRec} (hs : (s.cluster f.c).stash = e :: es)
include hs

/-- STPOP of the newest record, wholly in Crown, takes it off and carries its restored bytes. -/
theorem stpopStart_newest (ht : e.tag = stashTag f.w) (hn : e.n = stashN f.w)
    (hin : e.outside (stepImage s f.at_.pt) = false) : stpopStart s f =
      ({ s.setCluster f.c { s.cluster f.c with stash := es } with freeCtr := s.freeCtr + 1 },
        some { f with bytes := restoreBlocks e.blocks e.comp e.ovf }) := by
  simp [stpopStart, hs, ht, hn, popBytes, hin]

theorem stpopStart_other (h : ¬(e.tag = stashTag f.w ∧ e.n = stashN f.w)) :
    stpopStart s f = (s.wordFault f 0x0204 0 f.t 0 (clusterSuspect s f.c), none) := by
  simp only [stpopStart, hs, if_neg h]

end

/-! ### An ac of STPUSH (R179, R181, R182) -/

/-- The ac in which a block is placed is the ac of its test. -/
theorem pushTestAc_of_pushBlock {n k j : Nat} (h : pushBlock n k = some j) : pushTestAc n j = k := by
  simpa using List.find?_some h

/-- What a push has read of its block j. -/
def blockOf (f : Flight) (j : Nat) : List (Nat × List Byte) := f.lines.filter fun l => l.1 / 16 = j

/-- The line that an STPUSH reads in the ac of a block's test belongs to a later block. -/
theorem stpushRead_keeps_block {s : State} {f : Flight} {k j : Nat} (h : pushBlock (stashN f.w) k = some j) :
    ∃ ls, stpushRead s f k = { f with lines := ls } ∧ (ls.filter fun l => l.1 / 16 = j) = blockOf f j := by
  unfold stpushRead lineRead
  split
  · next hk =>
    have test := pushTestAc_of_pushBlock h
    unfold pushTestAc at test
    have later : k / 16 ≠ j := by omega
    exact ⟨_, rfl, by simp [blockOf, later]⟩
  · exact ⟨_, rfl, rfl⟩

/-- In the ac of a block's test STPUSH places the block's lines. -/
theorem afterAc_stpush {s : State} {r : StepRun} {f : Flight} {k j : Nat} (h : LoneWord s r f 0x38 k)
    (hj : pushBlock (stashN f.w) k = some j) : ∃ g, afterAc s f =
      (s.placeBlock f k j (blockOf f j).length ((blockOf f j).flatMap (·.2))).updRun f.at_.pt (nextAc r g) := by
  obtain ⟨ls, hread, hls⟩ := stpushRead_keeps_block (s := s) hj
  have op : wOp f.w = 0x38 := op_of_lone h
  have reads : readAc s f k = { f with lines := ls } := by simp [readAc, Flight.op, op, hread]
  have writes : writeAc s { f with lines := ls } k = stpushWrite s { f with lines := ls } k := by
    simp [writeAc, Flight.op, op]
  have ac := afterAc_of_lone h reads rfl rfl (by decide)
  rw [writes, stpushWrite, hj] at ac
  simp only [hls] at ac
  exact ⟨_, ac⟩

theorem putBlock_mem (s : State) (f : Flight) (b : StashBlk) : (s.putBlock f b).mem = s.mem := by
  simp [State.putBlock]

section
variable {s : State} {f : Flight} {e : StashRec} {k j n : Nat} {bs : List Byte}
  (hs : (s.cluster f.c).stash.head? = some e) (hb : e.born = f.t)
include hs hb

/-- A block goes behind the others of the record of its push, which is the newest. -/
theorem putBlock_newest (b : StashBlk) : ∃ x : StashRec,
    ((s.putBlock f b).cluster f.c).stash = x :: (s.cluster f.c).stash.tail ∧ x.blocks = e.blocks ++ [b] := by
  obtain ⟨es, hs⟩ := List.head?_eq_some_iff.mp hs
  simp [State.putBlock, hs, updFirst, hb]

section
variable (hj : e.blocks.length = j)
include hj

/-- The block whose turn it is in its push is placed. -/
theorem pushed_found : ((s.cluster f.c).stash.any fun r => r.born == f.t && r.blocks.length == j) = true := by
  obtain ⟨es, hs⟩ := List.head?_eq_some_iff.mp hs
  simp [hs, hb, hj]

/-- A block that fits, with nothing spilt, goes into the compressed region (R179). -/
theorem placeBlock_stored (hover : stashOver (s.cluster f.c).stash = false)
    (hfit : stashUsed (s.cluster f.c).stash + (storeBlock bs).length ≤ stashRoom (stepImage s f.at_.pt)) :
    s.placeBlock f k j n bs = s.putBlock f ⟨n, storeBlock bs, false⟩ := by
  simp [State.placeBlock, pushed_found hs hb hj, hover, hfit]

/-- In a mode with an overflow region any other block spills raw (R181); a block that does not fit is noted before. -/
theorem placeBlock_spilt (hspill : stashOver (s.cluster f.c).stash = true ∨
      stashRoom (stepImage s f.at_.pt) < stashUsed (s.cluster f.c).stash + (storeBlock bs).length)
    (hmode : manStashMode (stepImage s f.at_.pt) ≠ 1) :
    ∃ t : State, t.cluster = s.cluster ∧ s.placeBlock f k j n bs = t.putBlock f ⟨n, bs, true⟩ := by
  by_cases hfit : stashUsed (s.cluster f.c).stash + (storeBlock bs).length ≤ stashRoom (stepImage s f.at_.pt)
  · have hover := hspill.resolve_right (by omega)
    exact ⟨s, rfl, by simp [State.placeBlock, pushed_found hs hb hj, hover, hfit, hmode]⟩
  · exact ⟨s.updRun f.at_.pt fun r => r.noteFull (f.t + k), rfl,
      by simp [State.placeBlock, pushed_found hs hb hj, hfit, hmode]⟩

/-- In a mode without an overflow region a block that does not fit is a fault (R182). -/
theorem placeBlock_refused
    (hfull : stashRoom (stepImage s f.at_.pt) < stashUsed (s.cluster f.c).stash + (storeBlock bs).length)
    (hmode : manStashMode (stepImage s f.at_.pt) = 1) : s.placeBlock f k j n bs =
      (s.updRun f.at_.pt fun r => r.noteFull (f.t + k)).wordFault f 0x0107 7 (f.t + k) 0
        ((s.updRun f.at_.pt fun r => r.noteFull (f.t + k)).suspect 0 0) := by
  simp [State.placeBlock, pushed_found hs hb hj, Nat.not_le.mpr hfull, hmode]

end

end

theorem placeBlock_mem (s : State) (f : Flight) (k j n : Nat) (bs : List Byte) :
    (s.placeBlock f k j n bs).mem = s.mem := by
  have noted : (if stashUsed (s.cluster f.c).stash + (storeBlock bs).length ≤ stashRoom (stepImage s f.at_.pt) then s
      else s.updRun f.at_.pt fun r => r.noteFull (f.t + k)).mem = s.mem := by
    split
    · rfl
    · simp
  simp only [State.placeBlock, decide_eq_true_eq]
  split
  · rfl
  · split
    · rw [putBlock_mem, noted]
    · split
      · rw [State.wordFault, detect_mem, noted]
      · rw [putBlock_mem, noted]

/-! ### An ac of STPOP (R177) -/

theorem afterAc_stpop {s : State} {r : StepRun} {f : Flight} {k : Nat} (h : LoneWord s r f 0x39 k) :
    afterAc s f = (stpopWrite s f k).updRun f.at_.pt (nextAc r f) := by
  have op : wOp f.w = 0x39 := op_of_lone h
  have reads : readAc s f k = f := by simp [readAc, Flight.op, op]
  have writes : writeAc s f k = stpopWrite s f k := by simp [writeAc, Flight.op, op]
  rw [afterAc_of_lone h reads rfl rfl (by decide), writes]

theorem stpopWrite_line {s : State} {f : Flight} {j : Nat} (hj : j < stashN f.w) : stpopWrite s f (104 + j) =
    spadW s f.c (wSrc f.w + 64 * j) ((f.bytes.drop (64 * j)).take 64) := by
  have late : ¬(104 + j < 104 ∨ stashN f.w ≤ 104 + j - 104) := by omega
  rw [stpopWrite, if_neg late, Nat.add_sub_cancel_left]

/-! ### Records outside Crown (R180, R216) -/

theorem exec_stashWriteback {pt cl : Nat} (hpt : pt < 4) (hcl : cl < 800) (s : State) :
    exec (.stashWriteback pt cl) s = .next (stashWritebackEffect pt cl s) :=
  checked_next _ (by simp [Instr.wf, hpt, hcl])

theorem exec_stashFetch {pt cl : Nat} (hpt : pt < 4) (hcl : cl < 800) (ecc : List EccObs) (s : State) :
    exec (.stashFetch pt cl ecc) s = .next (stashFetchEffect pt cl ecc s) :=
  checked_next _ (by simp [Instr.wf, hpt, hcl])

theorem fst_mem_of_mem_withBelow {l : List StashRec} {x : StashRec × Nat} (h : x ∈ withBelow l) : x.1 ∈ l := by
  induction l with
  | nil => simp [withBelow] at h
  | cons e l ih =>
    rcases List.mem_cons.mp h with rfl | h
    · simp
    · exact List.mem_cons_of_mem _ (ih h)

section
variable {s : State} {pt cl : Nat} {r : StepRun} (hw : (s.part pt).working = some r)
include hw

/-- Without a record that is due a writeback moves nothing. -/
theorem stashWritebackEffect_idle (h : ∀ e ∈ (s.cluster (absCluster s pt cl)).stash,
    e.outside ((s.part pt).image r) = false ∨ e.written = true ∨ e.pushEnd + 1 ≠ s.cmb.beat) :
    stashWritebackEffect pt cl s = s := by
  have nothing : ((withBelow (s.cluster (absCluster s pt cl)).stash).filter fun e =>
      e.1.outside ((s.part pt).image r) && !e.1.written && e.1.pushEnd + 1 == s.cmb.beat) = [] := by
    rw [List.filter_eq_nil_iff]
    intro x hx
    rcases h x.1 (fst_mem_of_mem_withBelow hx) with inside | written | later
    · simp [inside]
    · simp [written]
    · rw [beq_false_of_ne later, Bool.and_false]
      exact Bool.false_ne_true
  simp only [stashWritebackEffect, hw, nothing]
  rfl

/-- Without a record outside Crown that is still to be staged a fetch moves nothing. -/
theorem stashFetchEffect_idle (ecc : List EccObs) (h : ∀ e ∈ (s.cluster (absCluster s pt cl)).stash,
    e.outside ((s.part pt).image r) = false ∨ e.staged ≠ none) : stashFetchEffect pt cl ecc s = s := by
  have nothing (due : List StashRec) : ((withBelow (s.cluster (absCluster s pt cl)).stash).filter fun e =>
      e.1.outside ((s.part pt).image r) && e.1.staged.isNone && due.any fun d => d.born == e.1.born) = [] := by
    rw [List.filter_eq_nil_iff]
    intro x hx
    rcases h x.1 (fst_mem_of_mem_withBelow hx) with inside | staged
    · simp [inside]
    · simp [staged]
  simp only [stashFetchEffect, hw, nothing]
  rfl

end

end Sys2Proof.Machine.StashRules
end

section
/-!
STASH TRAFFIC. The HBM lines of a record, their writeback and their fetch (R180, R216), and the statement about the
stash (O17).
-/

open Sys2Proof Sys2Proof.Machine Sys2Proof.Machine.Laws Sys2Proof.Machine.WordRules Sys2Proof.Machine.Bursts

namespace Sys2Proof.Machine.StashRules

/-! ### The HBM lines of a record -/

theorem filter_le_range {i m : Nat} (h : i ≤ m) :
    (List.range m).filter (fun x => decide (i ≤ x)) = (List.range (m - i)).map (i + ·) := by
  have split : List.range m = List.range i ++ (List.range (m - i)).map (i + ·) := by
    rw [← List.range_add, Nat.add_sub_cancel' h]
  have below : (List.range i).filter (fun x => decide (i ≤ x)) = [] := by simp
  have above : ((List.range (m - i)).map (i + ·)).filter (fun x => decide (i ≤ x)) = (List.range (m - i)).map (i + ·) := by
    simp
  rw [split, List.filter_append, below, above, List.nil_append]

/-- Lines cut from a string of whole lines give it back. -/
theorem flatten_lines (n : Nat) (l : List Byte) (h : l.length = 64 * n) :
    ((List.range n).map fun i => (l.drop (64 * i)).take 64).flatten = l := by
  induction n generalizing l with
  | zero => simp_all
  | succ n ih =>
    have rest := ih (l.drop 64) (by simp; omega)
    have later (i : Nat) : 64 * (i + 1) = 64 + 64 * i := by omega
    simp only [List.drop_drop] at rest
    simp [List.range_succ_eq_map, Function.comp_def, later, rest]

/-- How many whole lines of a record's compressed part lie in Crown. -/
def crownLines (e : StashRec) (img : List Byte) : Nat :=
  min (e.comp.length / 64) (manStashCrown img / 64 - e.at_ / 64)

/-- The HBM lines of a record are its last ones. -/
theorem hbmLines_eq (e : StashRec) (img : List Byte) : e.hbmLines img =
    (List.range (e.comp.length / 64 - crownLines e img)).map fun i =>
      (e.at_ / 64 + (crownLines e img + i), (e.comp.drop (64 * (crownLines e img + i))).take 64) := by
  have cut : crownLines e img ≤ e.comp.length / 64 := Nat.min_le_left _ _
  have last : ∀ x ∈ List.range (e.comp.length / 64),
      ((fun l : Nat × List Byte => decide (manStashCrown img < 64 * l.1 + 64)) ∘ fun i =>
        (e.at_ / 64 + i, (e.comp.drop (64 * i)).take 64)) x = decide (crownLines e img ≤ x) := by
    intro x hx
    have := List.mem_range.mp hx
    unfold crownLines
    exact decide_eq_decide.mpr (by dsimp only; omega)
  rw [StashRec.hbmLines, List.filter_map, List.filter_congr last, filter_le_range cut, List.map_map]
  rfl

theorem length_hbmLines (e : StashRec) (img : List Byte) :
    (e.hbmLines img).length = e.comp.length / 64 - crownLines e img := by
  simp [hbmLines_eq]

theorem length_of_mem_hbmLines {e : StashRec} {img : List Byte} {l : Nat × List Byte} (h : l ∈ e.hbmLines img) :
    l.2.length = 64 := by
  rw [hbmLines_eq] at h
  obtain ⟨i, hi, rfl⟩ := List.mem_map.mp h
  have := List.mem_range.mp hi
  simp
  omega

/-- What a record has in Crown, and then its HBM lines, are its compressed part. -/
theorem crown_append_hbmLines {e : StashRec} (img : List Byte) (h : e.comp.length % 64 = 0) :
    e.comp.take (e.comp.length - 64 * (e.hbmLines img).length) ++ ((e.hbmLines img).map (·.2)).flatten = e.comp := by
  have cut : crownLines e img ≤ e.comp.length / 64 := Nat.min_le_left _ _
  have front : e.comp.length - 64 * (e.hbmLines img).length = 64 * crownLines e img := by
    rw [length_hbmLines]
    omega
  have back : ((e.hbmLines img).map (·.2)).flatten = e.comp.drop (64 * crownLines e img) := by
    rw [hbmLines_eq, List.map_map, ← flatten_lines (e.comp.length / 64 - crownLines e img) (e.comp.drop _) (by simp; omega)]
    simp [Function.comp_def, Nat.mul_add]
  rw [front, back, List.take_append_drop]

/-- The HBM lines of a record stand one behind the other from the first (log entry 25). -/
theorem stashHbm_hbmLines (s : State) (pt cl : Nat) {e : StashRec} {img : List Byte} {i : Nat}
    (hi : i < (e.hbmLines img).length) : stashHbm s img pt cl (e.hbmLines img)[i].1 =
      stashHbm s img pt cl (((e.hbmLines img).map (·.1)).headD 0) + 64 * i := by
  have hi' : i < e.comp.length / 64 - crownLines e img := by rwa [length_hbmLines] at hi
  have head : ((e.hbmLines img).map (·.1)).headD 0 = e.at_ / 64 + crownLines e img := by
    obtain ⟨n, hn⟩ := Nat.exists_eq_succ_of_ne_zero (show e.comp.length / 64 - crownLines e img ≠ 0 by omega)
    simp [hbmLines_eq, hn, List.range_succ_eq_map]
  have beyond : manStashCrown img / 64 ≤ e.at_ / 64 + crownLines e img := by
    unfold crownLines at hi' ⊢
    omega
  rw [head]
  simp only [hbmLines_eq, List.getElem_map, List.getElem_range, stashHbm]
  omega

theorem hbmLines_apart (s : State) (pt cl : Nat) (e : StashRec) (img : List Byte) :
    (e.hbmLines img).Pairwise fun x y => stashHbm s img pt cl x.1 + 64 ≤ stashHbm s img pt cl y.1 ∨
      stashHbm s img pt cl y.1 + 64 ≤ stashHbm s img pt cl x.1 := by
  rw [List.pairwise_iff_getElem]
  intro i j hi hj hij
  rw [stashHbm_hbmLines s pt cl hi, stashHbm_hbmLines s pt cl hj]
  omega

/-! ### Writeback and fetch of a stack's one record -/

@[simp] theorem stash_updRec (s : State) (c born : Nat) (f : StashRec → StashRec) :
    ((s.updRec c born f).cluster c).stash = updFirst (fun r => r.born == born) f (s.cluster c).stash := by
  simp [State.updRec]

@[simp] theorem mem_updRec (s : State) (c born : Nat) (f : StashRec → StashRec) : (s.updRec c born f).mem = s.mem := rfl

/-- A burst reads as memory, the undefined arrays and the stack's key have it. -/
theorem hbmRead_congr {s t : State} (hm : t.mem = s.mem) (hh : t.havoc = s.havoc) (hk : hbmKey t = hbmKey s) :
    hbmRead t = hbmRead s := by
  funext h a
  simp only [hbmRead, readN, readB_congr hm hh, hk]

theorem hbmRead_updRec (s : State) (c born : Nat) (f : StashRec → StashRec) :
    hbmRead (s.updRec c born f) = hbmRead s :=
  hbmRead_congr rfl rfl rfl

theorem cluster_hbmWriteAll (h : Nat) (at_ : Nat → Nat) (l : List (Nat × List Byte)) (s : State) :
    (hbmWriteAll s h at_ l).cluster = s.cluster :=
  each_keep (·.cluster) (fun s (x : Nat × List Byte) => hbmWrite s h (at_ x.1) x.2)
    (fun s x => by funext c; simp [State.cluster]) l s

/-- The stack and the places of a cluster's lines hang on the variant and the layout alone. -/
theorem stashHbm_congr {s t : State} (hv : t.variant = s.variant) (hc : t.cfg = s.cfg) :
    stashStack t = stashStack s ∧ stashHbm t = stashHbm s := by
  have stack : stashStack t = stashStack s := by
    funext pt cl
    simp [stashStack, absCluster, ptFirst, hv, hc]
  refine ⟨stack, ?_⟩
  funext img pt cl line
  simp [stashHbm, stack, relStack, ptStacks, ptFirst, ptSize, hv, hc]

/-- Two updates that agree while P holds, and keep it, give the same state. -/
theorem each_congr {α : Type} {f g : State → α → State} (P : State → Prop) (hfg : ∀ s x, P s → f s x = g s x)
    (hP : ∀ s x, P s → P (g s x)) (l : List α) {s : State} (hs : P s) : s.each l f = s.each l g := by
  unfold State.each
  induction l generalizing s with
  | nil => rfl
  | cons x l ih => rw [List.foldl_cons, List.foldl_cons, hfg s x hs, ih (hP s x hs)]

/-- No line's write moves the places of the others. -/
theorem each_hbmWrite_eq_hbmWriteAll (pt cl : Nat) (img : List Byte) (l : List (Nat × List Byte)) (s : State) :
    (s.each l fun s x => hbmWrite s (stashStack s pt cl) (stashHbm s img pt cl x.1) x.2) =
      hbmWriteAll s (stashStack s pt cl) (stashHbm s img pt cl) l := by
  refine each_congr (fun t => t.variant = s.variant ∧ t.cfg = s.cfg) (fun t x ht => ?_) (fun t x ht => ?_) l ⟨rfl, rfl⟩
  · obtain ⟨stack, place⟩ := stashHbm_congr ht.1 ht.2
    rw [stack, place]
  · rw [variant_hbmWrite, cfg_hbmWrite]
    exact ht

theorem ovfLines_of_none {e : StashRec} (h : e.ovf = []) (below : Nat) : e.ovfLines below = [] := by
  simp [StashRec.ovfLines, h]

/-- The clean lines of a record in HBM are read as they stand. -/
theorem stepRead_hbmLines {s : State} {pt cl : Nat} {e : StashRec} {img : List Byte}
    (hlost : ∀ l ∈ s.mb.lost, l.pt ≠ pt)
    (hclean : ∀ l ∈ e.hbmLines img, poisoned s (stashStack s pt cl) (stashHbm s img pt cl l.1) = false ∧
      hbmRead s (stashStack s pt cl) (stashHbm s img pt cl l.1) = l.2) :
    s.stepRead pt (stashStack s pt cl) (stashHbm s img pt cl (((e.hbmLines img).map (·.1)).headD 0))
      (e.hbmLines img).length [] = (s, (e.hbmLines img).map (·.2)) := by
  have clean : ∀ i (hi : i < (e.hbmLines img).length), _ := fun i hi => hclean _ (List.getElem_mem hi)
  simp only [stashHbm_hbmLines] at clean
  rw [stepRead_clean ⟨fun i hi => (clean i hi).1, hlost⟩]
  congr 1
  apply List.ext_getElem
  · simp
  · intro i hi _
    have hi' : i < (e.hbmLines img).length := by simpa using hi
    rw [List.getElem_map, List.getElem_range, List.getElem_map, (clean i hi').2]

/-- A record whose lines in HBM are clean, with nothing spilt, comes back whole into the staging area. -/
theorem fetchRec_clean {s : State} {pt cl : Nat} {e : StashRec} {img : List Byte} (hovf : e.ovf = [])
    (hcomp : e.comp.length % 64 = 0) (hlost : ∀ l ∈ s.mb.lost, l.pt ≠ pt)
    (hclean : ∀ l ∈ e.hbmLines img, poisoned s (stashStack s pt cl) (stashHbm s img pt cl l.1) = false ∧
      hbmRead s (stashStack s pt cl) (stashHbm s img pt cl l.1) = l.2) (below : Nat) :
    s.fetchRec pt cl img (e, below) [] = s.updRec (absCluster s pt cl) e.born fun x =>
      { x with staged := some (restoreBlocks e.blocks e.comp []) } := by
  have lines : (if (e.hbmLines img).isEmpty then [] else ((e.hbmLines img).map (·.2)).flatten) =
      ((e.hbmLines img).map (·.2)).flatten := by
    split
    · next empty => rw [List.isEmpty_iff.mp empty, List.map_nil, List.flatten_nil]
    · rfl
  simp only [State.fetchRec, stepRead_hbmLines hlost hclean, ite_self, ovfLines_of_none hovf, List.map_nil,
    List.flatMap_nil, lines, crown_append_hbmLines img hcomp]
  rfl

section
variable {s : State} {pt cl : Nat} {r : StepRun} {e : StashRec}
  (hw : (s.part pt).working = some r) (hs : (s.cluster (absCluster s pt cl)).stash = [e])
  (hout : e.outside ((s.part pt).image r) = true) (hovf : e.ovf = [])
include hw hs hout hovf

/-- In the beat after its push has ended the one record's HBM lines are written, and the record is marked. -/
theorem stashWritebackEffect_due (hnew : e.written = false) (hbeat : e.pushEnd + 1 = s.cmb.beat) :
    stashWritebackEffect pt cl s =
      (hbmWriteAll s (stashStack s pt cl) (stashHbm s ((s.part pt).image r) pt cl)
        (e.hbmLines ((s.part pt).image r))).updRec (absCluster s pt cl) e.born fun x => { x with written := true } := by
  have due : ((withBelow [e]).filter fun x => x.1.outside ((s.part pt).image r) && !x.1.written &&
      x.1.pushEnd + 1 == s.cmb.beat) = [(e, 0)] := by
    rw [withBelow, withBelow, List.filter_cons, hout, hnew, beq_iff_eq.mpr hbeat]
    rfl
  simp only [stashWritebackEffect, hw, hs, due, State.each, List.foldl_cons, List.foldl_nil, ovfLines_of_none hovf]
  rw [← each_hbmWrite_eq_hbmWriteAll]
  rfl

/-- In the beat eight before its pop the one record comes back into the staging area. -/
theorem stashFetchEffect_due (hcomp : e.comp.length % 64 = 0) (hstaged : e.staged = none)
    (hlost : ∀ l ∈ s.mb.lost, l.pt ≠ pt)
    (hclean : ∀ l ∈ e.hbmLines ((s.part pt).image r),
      poisoned s (stashStack s pt cl) (stashHbm s ((s.part pt).image r) pt cl l.1) = false ∧
        hbmRead s (stashStack s pt cl) (stashHbm s ((s.part pt).image r) pt cl l.1) = l.2)
    (hpop : ((popsIn ((s.offset r + 8) * acPerBeat r.tier) ((s.offset r + 9) * acPerBeat r.tier)
      ((stashAhead s pt cl r).foldl (fun l x => insertAhead x l) []) [some e]).any fun d => d.born == e.born) = true) :
    stashFetchEffect pt cl [] s = s.updRec (absCluster s pt cl) e.born fun x =>
      { x with staged := some (restoreBlocks e.blocks e.comp []) } := by
  have due : ((withBelow [e]).filter fun x => x.1.outside ((s.part pt).image r) && x.1.staged.isNone &&
      (popsIn ((s.offset r + 8) * acPerBeat r.tier) ((s.offset r + 9) * acPerBeat r.tier)
        ((stashAhead s pt cl r).foldl (fun l x => insertAhead x l) []) [some e]).any fun d => d.born == x.1.born) =
      [(e, 0)] := by
    rw [withBelow, withBelow, List.filter_cons, hout, hstaged, hpop]
    rfl
  simp only [stashFetchEffect, hw, hs, List.map_cons, List.map_nil, due, State.each, List.foldl_cons, List.foldl_nil]
  exact fetchRec_clean hovf hcomp hlost hclean 0

end

/-! ### What the four commands do -/

section
variable {a : WordAt} {w : OpWord} {s : State} {r : StepRun}

/-- STPUSH starts with an empty record of its TAG and N on top (R176). -/
theorem stpush_starts (hrun : WordRuns a w 0x38 s r) : Yields (.stpush a w) s fun t =>
    t.mem = (moved s a w).mem ∧ t.ptBufs a.pt = (moved s a w).ptBufs a.pt ∧ ∃ e : StashRec,
      (t.cluster (flightOf s a w r).c).stash = e :: ((moved s a w).cluster (flightOf s a w r).c).stash ∧
        e.tag = stashTag w ∧ e.n = stashN w ∧ e.blocks = [] ∧ e.born = (flightOf s a w r).t := by
  have hop : wOp (flightOf s a w r).w = 0x38 := op_of_runs hrun
  obtain ⟨e, start, record⟩ := stpushStart_eq (moved s a w) (flightOf s a w r)
  refine ⟨_, (exec_stpush hrun).trans (congrArg _ (onWord_flies hrun ((startWord_stpush hop).trans start))), ?_⟩
  exact ⟨by simp, by simp, e, by simp, record⟩

section
variable {e : StashRec} {es : List StashRec} (hrun : WordRuns a w 0x39 s r)
  (hstash : ((moved s a w).cluster (flightOf s a w r).c).stash = e :: es)
include hrun hstash

/-- STPOP of the newest record, wholly in Crown, takes it off (R176, R177). -/
theorem stpop_takes_newest (htag : e.tag = stashTag w) (hn : e.n = stashN w)
    (hin : e.outside (stepImage (moved s a w) a.pt) = false) : exec (.stpop a w) s =
      .next (({ (moved s a w).setCluster (flightOf s a w r).c
          { (moved s a w).cluster (flightOf s a w r).c with stash := es } with
          freeCtr := (moved s a w).freeCtr + 1 } : State).fly
        { flightOf s a w r with bytes := restoreBlocks e.blocks e.comp e.ovf }) := by
  have hop : wOp (flightOf s a w r).w = 0x39 := op_of_runs hrun
  exact (exec_stpop hrun).trans
    (congrArg _ (onWord_flies hrun ((startWord_stpop hop).trans (stpopStart_newest hstash htag hn hin))))

/-- Any other STPOP is a fault that moves nothing (R183). -/
theorem stpop_of_other_faults (hother : ¬(e.tag = stashTag w ∧ e.n = stashN w)) : exec (.stpop a w) s =
    .next ((moved s a w).wordFault (flightOf s a w r) 0x0204 0 (flightOf s a w r).t 0
      (clusterSuspect (moved s a w) (flightOf s a w r).c)) := by
  have hop : wOp (flightOf s a w r).w = 0x39 := op_of_runs hrun
  exact (exec_stpop hrun).trans
    (congrArg _ (onWord_stays hrun ((startWord_stpop hop).trans (stpopStart_other hstash hother))))

end

end

/-- The line that an STPOP delivers in its ac 104 + j (R177). -/
theorem stpop_delivers_line {s : State} {r : StepRun} {f : Flight} {j : Nat} (hlone : LoneWord s r f 0x39 (104 + j))
    (hj : j < stashN f.w) (hbytes : 64 * j + 64 ≤ f.bytes.length) (hfit : wSrc f.w + 64 * j + 64 ≤ spadSize) :
    spadR (afterAc s f) f.c (wSrc f.w + 64 * j) 64 = (f.bytes.drop (64 * j)).take 64 ∧
      KeepsOutside s (afterAc s f) (spadBase f.c + wSrc f.w + 64 * j) 64 := by
  have len : ((f.bytes.drop (64 * j)).take 64).length = 64 := by
    rw [List.length_take, List.length_drop]
    omega
  have fits : wSrc f.w + 64 * j + ((f.bytes.drop (64 * j)).take 64).length ≤ spadSize := by rwa [len]
  have line := spadR_spadW (c := f.c) fits s
  have rest := keepsOutside_spadW (c := f.c) fits s
  rw [len] at line rest
  rw [afterAc_stpop hlone, stpopWrite_line hj, Nat.add_assoc]
  exact ⟨(spadR_updRun ..).trans line, fun b hb => (congrFun (readB_updRun ..) b).trans (rest b hb)⟩

section
variable {s : State} {r : StepRun} {f : Flight} {k j : Nat} (hlone : LoneWord s r f 0x38 k)
  (hblock : pushBlock (stashN f.w) k = some j)
include hlone hblock

theorem stpush_ac_keeps_mem : (afterAc s f).mem = s.mem := by
  obtain ⟨g, ac⟩ := afterAc_stpush hlone hblock
  rw [ac, updRun_mem, placeBlock_mem]

variable {e : StashRec} (hhead : (s.cluster f.c).stash.head? = some e) (hborn : e.born = f.t)
  (hlen : e.blocks.length = j)
include hhead hborn hlen

/-- A block that fits, with nothing spilt, joins its record in its stored form (R179). -/
theorem stpush_ac_stores (hover : stashOver (s.cluster f.c).stash = false)
    (hfit : stashUsed (s.cluster f.c).stash + (storeBlock ((blockOf f j).flatMap (·.2))).length ≤
      stashRoom (stepImage s f.at_.pt)) :
    ∃ x : StashRec, ((afterAc s f).cluster f.c).stash = x :: (s.cluster f.c).stash.tail ∧
      x.blocks = e.blocks ++ [⟨(blockOf f j).length, storeBlock ((blockOf f j).flatMap (·.2)), false⟩] := by
  obtain ⟨g, ac⟩ := afterAc_stpush hlone hblock
  rw [ac, cluster_updRun, placeBlock_stored hhead hborn hlen hover hfit]
  exact putBlock_newest hhead hborn _

/-- In a mode with an overflow region any other block joins its record raw (R181). -/
theorem stpush_ac_spills (hspill : stashOver (s.cluster f.c).stash = true ∨
      stashRoom (stepImage s f.at_.pt) <
        stashUsed (s.cluster f.c).stash + (storeBlock ((blockOf f j).flatMap (·.2))).length)
    (hmode : manStashMode (stepImage s f.at_.pt) ≠ 1) :
    ∃ x : StashRec, ((afterAc s f).cluster f.c).stash = x :: (s.cluster f.c).stash.tail ∧
      x.blocks = e.blocks ++ [⟨(blockOf f j).length, (blockOf f j).flatMap (·.2), true⟩] := by
  obtain ⟨g, ac⟩ := afterAc_stpush hlone hblock
  obtain ⟨t, same, placed⟩ := placeBlock_spilt (k := k) (n := (blockOf f j).length) hhead hborn hlen hspill hmode
  rw [ac, cluster_updRun, placed, ← same]
  exact putBlock_newest (by rw [same]; exact hhead) hborn _

/-- In a mode without an overflow region a block that does not fit is a fault of the step, and the stack stays (R182). -/
theorem stpush_ac_faults (hfull : stashRoom (stepImage s f.at_.pt) <
      stashUsed (s.cluster f.c).stash + (storeBlock ((blockOf f j).flatMap (·.2))).length)
    (hmode : manStashMode (stepImage s f.at_.pt) = 1) (hph : r.ph = .running) :
    ((afterAc s f).cluster f.c).stash = (s.cluster f.c).stash ∧
      ∃ q, ((afterAc s f).part f.at_.pt).cur = some q ∧ q.faulted = true := by
  obtain ⟨g, ac⟩ := afterAc_stpush hlone hblock
  obtain ⟨cur, -⟩ := hlone
  have noted : ((s.updRun f.at_.pt fun r => r.noteFull (f.t + k)).part f.at_.pt).cur =
      some (r.noteFull (f.t + k)) := by
    simp [cur]
  rw [ac, placeBlock_refused hhead hborn hlen hfull hmode, State.wordFault]
  obtain ⟨q, marked, faulted⟩ := detect_marks _ noted hph
  refine ⟨by simp, nextAc r g q, ?_, faulted⟩
  rw [part_updRun, if_pos rfl, marked, Option.map_some]

end

section
variable {s : State} {pt cl : Nat} {r : StepRun} {e : StashRec} (hpt : pt < 4) (hcl : cl < 800)
  (hw : (s.part pt).working = some r) (hs : (s.cluster (absCluster s pt cl)).stash = [e])
  (hout : e.outside ((s.part pt).image r) = true) (hovf : e.ovf = [])
include hpt hcl hw hs hout hovf

/-- What the writeback of the one record that is due leaves (R180). -/
theorem stashWriteback_writes (hin : ∀ l ∈ e.hbmLines ((s.part pt).image r),
      stashHbm s ((s.part pt).image r) pt cl l.1 < stackBytes) (hnew : e.written = false)
    (hbeat : e.pushEnd + 1 = s.cmb.beat) (hkey : (hbmKey s (stashStack s pt cl)).isSome = true) :
    Yields (.stashWriteback pt cl) s fun t =>
      (t.cluster (absCluster s pt cl)).stash = [{ e with written := true }] ∧
        ∀ l ∈ e.hbmLines ((s.part pt).image r),
          hbmRead t (stashStack s pt cl) (stashHbm s ((s.part pt).image r) pt cl l.1) = l.2 := by
  refine ⟨_, (exec_stashWriteback hpt hcl s).trans
    (congrArg _ (stashWritebackEffect_due hw hs hout hovf hnew hbeat)), ?_, fun l hl => ?_⟩
  · rw [stash_updRec, cluster_hbmWriteAll, hs]
    simp [updFirst]
  · rw [hbmRead_updRec]
    exact hbmRead_hbmWriteAll hkey hin (fun _ => length_of_mem_hbmLines) (hbmLines_apart s pt cl e _) l hl

/-- What the fetch of the one record that is due leaves (R180, R216). -/
theorem stashFetch_stages (hcomp : e.comp.length % 64 = 0) (hstaged : e.staged = none)
    (hlost : ∀ l ∈ s.mb.lost, l.pt ≠ pt)
    (hclean : ∀ l ∈ e.hbmLines ((s.part pt).image r),
      poisoned s (stashStack s pt cl) (stashHbm s ((s.part pt).image r) pt cl l.1) = false ∧
        hbmRead s (stashStack s pt cl) (stashHbm s ((s.part pt).image r) pt cl l.1) = l.2)
    (hpop : ((popsIn ((s.offset r + 8) * acPerBeat r.tier) ((s.offset r + 9) * acPerBeat r.tier)
      ((stashAhead s pt cl r).foldl (fun l x => insertAhead x l) []) [some e]).any fun d => d.born == e.born) = true) :
    Yields (.stashFetch pt cl []) s fun t => t.mem = s.mem ∧
      (t.cluster (absCluster s pt cl)).stash = [{ e with staged := some (restoreBlocks e.blocks e.comp []) }] := by
  refine ⟨_, (exec_stashFetch hpt hcl [] s).trans
    (congrArg _ (stashFetchEffect_due hw hs hout hovf hcomp hstaged hlost hclean hpop)), mem_updRec .., ?_⟩
  rw [stash_updRec, hs]
  simp [updFirst]

end

end Sys2Proof.Machine.StashRules

open Sys2Proof.Machine.ZeroRun Sys2Proof.Machine.StashRules

/-- Settles O17: zero-run compression is undone by its reading (`loadBlock_storeBlock`), each of the two words has one rule
for its start and one for an ac, and each of the two transfers one rule for the record that is due. -/
theorem stashKeepsWhatWasPushed : Obligations.StashKeepsWhatWasPushed := by
  refine ⟨fun _ _ => loadBlock_storeBlock, ⟨?_, ?_⟩, ?_⟩
  · rintro a w s u r f c rfl rfl rfl
    exact ⟨stpush_starts, fun e es hstash hrun => ⟨stpop_takes_newest hrun hstash, stpop_of_other_faults hrun hstash⟩⟩
  · intro s r f k j
    refine ⟨?_, ?_⟩
    · rintro bs img e hlone rfl hblock rfl hhead hborn hlen n rfl
      exact ⟨stpush_ac_keeps_mem hlone hblock, stpush_ac_stores hlone hblock hhead hborn hlen,
        stpush_ac_spills hlone hblock hhead hborn hlen, stpush_ac_faults hlone hblock hhead hborn hlen⟩
    · rintro hlone rfl
      exact stpop_delivers_line hlone
  · rintro pt cl s r c h img hpt hcl rfl hw rfl rfl
    refine ⟨fun idle => ?_, fun idle => ?_, fun e hs hout hovf hcomp hin =>
      ⟨stashWriteback_writes hpt hcl hw hs hout hovf hin, stashFetch_stages hpt hcl hw hs hout hovf hcomp⟩⟩
    · rw [exec_stashWriteback hpt hcl, stashWritebackEffect_idle hw idle]
    · rw [exec_stashFetch hpt hcl, stashFetchEffect_idle hw [] idle]
end
